-- ==== Sys2Proof/Word.lean ====
section
/-! DEFINITION. Word.lean: word types, sparse tables and the operand types of the commands. -/

namespace Sys2Proof

abbrev Byte := BitVec 8
abbrev W32 := BitVec 32
abbrev W64 := BitVec 64

/-- A sparse table: entries with strictly rising keys, none equal to the table's default value.
Its operations stand in Machine/Ops.lean. -/
abbrev Tbl (α : Type) := List (Nat × α)

/-- Who makes a register access (R4): the host over PCI Express, or the management core. -/
inductive Agent where
  | host | mgmt
  deriving DecidableEq, Repr, Inhabited

/-- The header of a command entry (Table 13.3) with the ring index it stands at. -/
structure Hdr where
  idx : W32 := 0
  tag : W32 := 0
  execAt : W64 := 0xFFFFFFFFFFFFFFFF
  late : Bool := false
  irq : Bool := false
  deriving DecidableEq, Repr, Inhabited

/-- The opcode and argument bytes of a host command (Table 13.4), field by field as the entry carries
them: a field may hold a value that no code defines, which R343 answers with UNKNOWN. -/
inductive HostOp where
  | nop
  | setTick (code : Byte)
  | slotCfg (first count : BitVec 16) (src : W64)
  | loadImage (h : Byte) (addr : W64) (len : W32)
  | swapProgram (h mode : Byte)
  | discardImage (h : Byte)
  | unloadProgram (h : Byte)
  | paramWrite (h block : Byte) (ofs count : W32) (src : W64)
  | paramSwap (h : Byte) (mask : BitVec 16)
  | mixWrite (region flags : Byte) (first count : W32) (src : W64)
  | mixSwap
  | mixDamp (target : Byte) (index : W32) (gain : BitVec 16) (inv shape : Byte) (len : W32)
  | portStart (p : Byte)
  | portStop (p : Byte)
  | portMute (p ch mute : Byte)
  | decFreeze (chain : BitVec 16) (freeze : Byte)
  | flueEnable (f : Byte)
  | flueDisable (f : Byte)
  | flueClear (f : Byte)
  | streamWrite (dir : Byte) (stream : BitVec 16) (src : W64)
  | streamStart (dir : Byte) (stream : BitVec 16)
  | streamStop (dir : Byte) (stream : BitVec 16)
  | streamStats (dir flags : Byte) (first count : BitVec 16) (dst : W64)
  | twinSwap
  /-- An entry whose opcode is undefined, or with a byte shown as zero that is non-zero (R343). -/
  | unknown
  deriving DecidableEq, Repr, Inhabited

/-- The four slot words of a bundle (R78). -/
structure Bundle where
  c : W32 := 0
  x : W32 := 0
  y : W32 := 0
  v : W32 := 0
  deriving DecidableEq, Repr, Inhabited

/-- Where a Valuc operation issues: core `core` of physical cluster `cl`, in a bundle whose other
slots hold the words of `others` (the operation's own slot word is made by the command). -/
structure At where
  cl : Nat
  core : Nat
  others : Bundle := default
  deriving DecidableEq, Repr, Inhabited

/-- The predication bits of a slot word (Table 3.1). -/
structure Pred where
  pe : Bool := false
  pn : Bool := false
  ps : BitVec 2 := 0
  deriving DecidableEq, Repr, Inhabited

/-- The bus of an X-slot or Y-slot operation (R47). -/
inductive Bus where
  | x | y
  deriving DecidableEq, Repr, Inhabited

/-- The memory field group of format M (Table 3.2). -/
structure MemF where
  reg : BitVec 6
  ptr : BitVec 3
  am : BitVec 2
  amf : BitVec 11
  deriving DecidableEq, Repr, Inhabited

/-- One request waiting at a fast-matrix target (R365, R366). `beats` are its write data, one
512-bit line each; a read has `write = false` and one element per beat. -/
structure MtxReq where
  master : Nat
  waited : Nat
  addr : Nat
  write : Bool
  beats : List (BitVec 512)
  lock : Bool := false
  deriving DecidableEq, Repr, Inhabited

/-- What a received frame tells of its line since the one before (Table 9.2): whether its FCS is right, PCS decode errors, FEC
codewords corrected and uncorrectable, and whether no receive staging buffer is free for it. -/
structure LineErr where
  fcsOk : Bool := true
  pcs : Nat := 0
  corrected : Nat := 0
  uncorrectable : Nat := 0
  full : Bool := false
  deriving DecidableEq, Repr, Inhabited

/-- What makes a match of R180: the non-audio bit of a channel-status block, or sync words in the pair or in the single form. -/
structure NaFind where
  pair : Bool
  nonaudio : Bool
  deriving DecidableEq, Repr, Inhabited

/-- Ball G of a flue (R220): at position `pos` of the period it has stood at the level `high` for `held` FCLK samples. -/
structure GBall where
  pos : Nat
  high : Bool
  held : Nat
  deriving DecidableEq, Repr, Inhabited

/-- A side of a network link (R238): what port `port` sends, or what it receives. -/
structure LpiSide where
  port : Nat
  rx : Bool := false
  deriving DecidableEq, Repr, Inhabited

/-- Flue protection state as a TICK record carries it (R228). -/
structure FlueRec where
  flue : Nat
  window : W64
  retries : Nat
  state : Nat
  retryTimer : Nat
  dcCount : Nat
  dcNeg : Bool
  /-- periods begun in the state, the state after STOPPING, and CAUSE -/
  periods : Nat := 0
  afterStop : Nat := 0
  cause : Nat := 0
  deriving DecidableEq, Repr, Inhabited

/-- A TICK frame of the twin link as received (Table 12.4, R322). -/
structure TickRec where
  k : W64
  fromLead : Bool
  sigs : List W64
  evidence : BitVec 27
  intake : W32 := 0
  cplIdx : W32 := 0
  evtIdx : W32 := 0
  doneIdx : W32 := 0
  /-- The LEAD's port decisions of Table 12.3: port and kind (0 slip, 1 glitch, 2 lost, 3 recovered, 4 rate error). -/
  portDec : List (Nat × Nat) := []
  /-- ASRC group ratios decided by the LEAD. -/
  ratios : List (Nat × W32) := []
  /-- Non-audio mutes (true) and releases (false): port, channel. -/
  naDec : List (Nat × Nat × Bool) := []
  /-- ASRC channel states decided by the LEAD. -/
  asrcDec : List (Nat × Nat) := []
  /-- Flue protection state (R228). -/
  flueDec : List FlueRec := []
  /-- Selected candidate, loop state, build-out and integrator (R302). -/
  refSel : Nat := 15
  refLoop : Nat := 0
  refPhi : W64 := 0
  refI : W64 := 0
  candStates : List (Nat × Nat) := []
  /-- φ0 of the switch that runs, whether it changed the anchor (R292, R293), and the candidates whose anchor change the timebase
  refused (R273). -/
  refPhi0 : W64 := 0
  refAnchorSw : Bool := false
  refRefused : List Nat := []
  deriving DecidableEq, Repr, Inhabited

/-- A task entry (Table 4.4). -/
structure Task where
  core : Nat
  index : Nat
  start : Nat
  ofs : Nat
  bud : Nat
  deriving DecidableEq, Repr, Inhabited

structure Window where
  slot : Nat
  core : Nat
  liveW : Bool
  dataAddr : Nat
  liveAddr : Nat
  deriving DecidableEq, Repr, Inhabited

/-- A delay-line or delay-read entry (Table 4.4); `dly` is the DLY_ADDR of a read. -/
structure DLine where
  base : Nat
  len : Nat
  dom : Nat
  core : Nat
  addr : Nat
  dly : Nat := 0
  deriving DecidableEq, Repr, Inhabited

/-- A parameter block and the CSQ's own record of its active bank (R113). -/
structure Param where
  block : Nat
  sel : Nat
  bankA : Nat
  bankB : Nat
  words : Nat
  activeB : Bool := false
  deriving DecidableEq, Repr, Inhabited

structure Carry where
  bus : Nat
  core : Nat
  start : Nat
  words : Nat
  deriving DecidableEq, Repr, Inhabited

structure Image where
  id : W32 := 0
  tMask : BitVec 4 := 0
  famMask : BitVec 2 := 0
  tasks : List Task := []
  inWin : List Window := []
  outWin : List Window := []
  dlines : List DLine := []
  dreads : List DLine := []
  params : List Param := []
  carries : List Carry := []
  deriving DecidableEq, Repr, Inhabited

/-- One write that a JOIN frame carries into the SHADOW (R318): a register, a memory byte range, or
a command that the LEAD holds, its ring indices, or the tables of an image that a hearth holds. -/
inductive JoinItem where
  | reg (off : Nat) (val : W32)
  | mem (addr : Nat) (bytes : List Byte)
  | cmd (h : Hdr) (op : HostOp) (nx : W64)
  | ring (cmdHead cplTail evtTail mtrTail logTail : W32)
  | image (hearth state : Nat) (im : Image)
  deriving DecidableEq, Repr, Inhabited

end Sys2Proof
end

