-- ==== Sys2Proof/Syntax.lean ====
section
/-! DEFINITION. Syntax.lean: the commands and events of the part, one constructor per row of spec/opcode_table.json.
The rows give no fields; the operands are those the row's rule names (log entry 1). -/

namespace Sys2Proof

inductive Instr where
  /-- NOP (R343). -/
  | hostNop (h : Hdr)
  /-- SET_TICK (R34). -/
  | setTick (h : Hdr) (code : Byte)
  /-- SLOT_CFG (R30). -/
  | slotCfg (h : Hdr) (first count : BitVec 16) (src : W64)
  /-- LOAD_IMAGE (R116). -/
  | loadImage (h : Hdr) (hearth : Byte) (addr : W64) (len : W32)
  /-- SWAP_PROGRAM (R118). -/
  | swapProgram (h : Hdr) (hearth mode : Byte)
  /-- DISCARD_IMAGE (R119). -/
  | discardImage (h : Hdr) (hearth : Byte)
  /-- UNLOAD_PROGRAM (R119). -/
  | unloadProgram (h : Hdr) (hearth : Byte)
  /-- PARAM_WRITE (R114). -/
  | paramWrite (h : Hdr) (hearth block : Byte) (ofs count : W32) (src : W64)
  /-- PARAM_SWAP (R115). -/
  | paramSwap (h : Hdr) (hearth : Byte) (mask : BitVec 16)
  /-- MIX_WRITE (R142). -/
  | mixWrite (h : Hdr) (region flags : Byte) (first count : W32) (src : W64)
  /-- MIX_SWAP (R145). -/
  | mixSwap (h : Hdr)
  /-- MIX_DAMP (R147). -/
  | mixDamp (h : Hdr) (target : Byte) (index : W32) (gain : BitVec 16) (inv shape : Byte) (len : W32)
  /-- PORT_START (R171). -/
  | portStart (h : Hdr) (port : Byte)
  /-- PORT_STOP (R174). -/
  | portStop (h : Hdr) (port : Byte)
  /-- PORT_MUTE (R179). -/
  | portMute (h : Hdr) (port ch mute : Byte)
  /-- DEC_FREEZE (R192). -/
  | decFreeze (h : Hdr) (chain : BitVec 16) (freeze : Byte)
  /-- FLUE_ENABLE (R212). -/
  | flueEnable (h : Hdr) (flue : Byte)
  /-- FLUE_DISABLE (R216). -/
  | flueDisable (h : Hdr) (flue : Byte)
  /-- FLUE_CLEAR (R216). -/
  | flueClear (h : Hdr) (flue : Byte)
  /-- STREAM_WRITE (R256). -/
  | streamWrite (h : Hdr) (dir : Byte) (stream : BitVec 16) (src : W64)
  /-- STREAM_START (R251). -/
  | streamStart (h : Hdr) (dir : Byte) (stream : BitVec 16)
  /-- STREAM_STOP (R251). -/
  | streamStop (h : Hdr) (dir : Byte) (stream : BitVec 16)
  /-- STREAM_STATS (R257). -/
  | streamStats (h : Hdr) (dir flags : Byte) (first count : BitVec 16) (dst : W64)
  /-- TWIN_SWAP (R329). -/
  | twinSwap (h : Hdr)
  /-- SLOT_NOP (R79). -/
  | slotNop (a : At)
  /-- ADD (R88). -/
  | add (a : At) (p : Pred) (sd sa sb : BitVec 4)
  /-- SUB (R88). -/
  | sub (a : At) (p : Pred) (sd sa sb : BitVec 4)
  /-- ADDS (R88). -/
  | adds (a : At) (p : Pred) (sd sa sb : BitVec 4)
  /-- SUBS (R88). -/
  | subs (a : At) (p : Pred) (sd sa sb : BitVec 4)
  /-- AND (R89). -/
  | andS (a : At) (p : Pred) (sd sa sb : BitVec 4)
  /-- OR (R89). -/
  | orS (a : At) (p : Pred) (sd sa sb : BitVec 4)
  /-- XOR (R89). -/
  | xorS (a : At) (p : Pred) (sd sa sb : BitVec 4)
  /-- SHL (R89). -/
  | shl (a : At) (p : Pred) (sd sa sb : BitVec 4)
  /-- SHR (R89). -/
  | shr (a : At) (p : Pred) (sd sa sb : BitVec 4)
  /-- SAR (R89). -/
  | sar (a : At) (p : Pred) (sd sa sb : BitVec 4)
  /-- MIN (R89). -/
  | minS (a : At) (p : Pred) (sd sa sb : BitVec 4)
  /-- MAX (R89). -/
  | maxS (a : At) (p : Pred) (sd sa sb : BitVec 4)
  /-- CMP (R89). -/
  | cmp (a : At) (p : Pred) (sa sb : BitVec 4)
  /-- MULL (R89). -/
  | mull (a : At) (p : Pred) (sd sa sb : BitVec 4)
  /-- ADDI (R89). -/
  | addi (a : At) (p : Pred) (sd sa : BitVec 4) (imm : BitVec 14)
  /-- CMPI (R89). -/
  | cmpi (a : At) (p : Pred) (sa : BitVec 4) (imm : BitVec 14)
  /-- ANDI (R89). -/
  | andi (a : At) (p : Pred) (sd sa : BitVec 4) (imm : BitVec 14)
  /-- SHLI (R89). -/
  | shli (a : At) (p : Pred) (sd sa : BitVec 4) (imm : BitVec 5)
  /-- SHRI (R89). -/
  | shri (a : At) (p : Pred) (sd sa : BitVec 4) (imm : BitVec 5)
  /-- SARI (R89). -/
  | sari (a : At) (p : Pred) (sd sa : BitVec 4) (imm : BitVec 5)
  /-- MOVI (R79). -/
  | movi (a : At) (p : Pred) (sd : BitVec 4) (imm : BitVec 16)
  /-- MOVHI (R79). -/
  | movhi (a : At) (p : Pred) (sd : BitVec 4) (imm : BitVec 16)
  /-- MOVR (R95). -/
  | movr (a : At) (p : Pred) (dst src : BitVec 6)
  /-- NEG (R89). -/
  | neg (a : At) (p : Pred) (sd sa : BitVec 4)
  /-- ABS (R89). -/
  | abs (a : At) (p : Pred) (sd sa : BitVec 4)
  /-- NOT (R89). -/
  | notS (a : At) (p : Pred) (sd sa : BitVec 4)
  /-- NRM (R100). -/
  | nrm (a : At) (p : Pred) (sd sa : BitVec 4)
  /-- RCPS (R101). -/
  | rcps (a : At) (p : Pred) (sd sa : BitVec 4)
  /-- DIVS_U (R99). -/
  | divsU (a : At) (p : Pred) (sqr sq sv : BitVec 4)
  /-- DIVS_S (R99). -/
  | divsS (a : At) (p : Pred) (sqr sq sv : BitVec 4)
  /-- CMPP (R79). -/
  | cmpp (a : At) (p : Pred) (pd : BitVec 2) (cc sa sb : BitVec 4)
  /-- PAND (R79). -/
  | pand (a : At) (p : Pred) (pd pa pb : BitVec 2)
  /-- POR (R79). -/
  | por (a : At) (p : Pred) (pd pa pb : BitVec 2)
  /-- PXOR (R79). -/
  | pxor (a : At) (p : Pred) (pd pa pb : BitVec 2)
  /-- PNOT (R79). -/
  | pnot (a : At) (p : Pred) (pd pa : BitVec 2)
  /-- PSETI (R79). -/
  | pseti (a : At) (p : Pred) (pd : BitVec 2) (imm : BitVec 16)
  /-- BR (R92). -/
  | br (a : At) (p : Pred) (cond : BitVec 4) (target : BitVec 12)
  /-- BRI (R92). -/
  | bri (a : At) (p : Pred) (cond sa : BitVec 4)
  /-- CALL (R93). -/
  | call (a : At) (p : Pred) (target : BitVec 12)
  /-- RET (R93). -/
  | ret (a : At) (p : Pred)
  /-- RTE (R67). -/
  | rte (a : At) (p : Pred)
  /-- END (R93). -/
  | endTask (a : At) (p : Pred)
  /-- REP (R95). -/
  | rep (a : At) (p : Pred) (len : BitVec 10) (byReg : Bool) (cnt : BitVec 10)
  /-- IREP (R95). -/
  | irep (a : At) (p : Pred) (len : BitVec 10) (byReg : Bool) (cnt : BitVec 10)
  /-- WAITE (R63). -/
  | waite (a : At) (p : Pred) (mask : BitVec 16)
  /-- XSIG (R76). -/
  | xsig (a : At) (p : Pred) (core : BitVec 3)
  /-- BRK (R69). -/
  | brk (a : At) (p : Pred)
  /-- TRAP (R69). -/
  | trap (a : At) (p : Pred)
  /-- LD_W (R96). -/
  | ldW (a : At) (p : Pred) (bus : Bus) (m : MemF)
  /-- LD_D (R96). -/
  | ldD (a : At) (p : Pred) (bus : Bus) (m : MemF)
  /-- LD_V (R96). -/
  | ldV (a : At) (p : Pred) (bus : Bus) (m : MemF)
  /-- LDB_W (R96). -/
  | ldbW (a : At) (p : Pred) (bus : Bus) (m : MemF)
  /-- LDB_D (R96). -/
  | ldbD (a : At) (p : Pred) (bus : Bus) (m : MemF)
  /-- ST_W (R96). -/
  | stW (a : At) (p : Pred) (bus : Bus) (m : MemF)
  /-- ST_D (R96). -/
  | stD (a : At) (p : Pred) (bus : Bus) (m : MemF)
  /-- ST_V (R96). -/
  | stV (a : At) (p : Pred) (bus : Bus) (m : MemF)
  /-- STR_V (R86). -/
  | strV (a : At) (p : Pred) (bus : Bus) (acc : BitVec 2) (sh : BitVec 5) (sat : Bool) (ptr kr : BitVec 3)
  /-- ADDP (R90). -/
  | addp (a : At) (p : Pred) (bus : Bus) (m : MemF)
  /-- MUL (R85). -/
  | mul (a : At) (p : Pred) (acc : BitVec 2) (va vb : BitVec 4)
  /-- MAC (R85). -/
  | mac (a : At) (p : Pred) (acc : BitVec 2) (va vb : BitVec 4)
  /-- MSU (R85). -/
  | msu (a : At) (p : Pred) (acc : BitVec 2) (va vb : BitVec 4)
  /-- CMUL (R51). -/
  | cmul (a : At) (p : Pred) (acc : BitVec 2) (va vb : BitVec 4)
  /-- CMAC (R51). -/
  | cmac (a : At) (p : Pred) (acc : BitVec 2) (va vb : BitVec 4)
  /-- CMSU (R51). -/
  | cmsu (a : At) (p : Pred) (acc : BitVec 2) (va vb : BitVec 4)
  /-- CMULJ (R51). -/
  | cmulj (a : At) (p : Pred) (acc : BitVec 2) (va vb : BitVec 4)
  /-- CMACJ (R51). -/
  | cmacj (a : At) (p : Pred) (acc : BitVec 2) (va vb : BitVec 4)
  /-- CMSUJ (R51). -/
  | cmsuj (a : At) (p : Pred) (acc : BitVec 2) (va vb : BitVec 4)
  /-- BFLY (R97). -/
  | bfly (a : At) (p : Pred) (pair : Bool) (va vb vw : BitVec 4)
  /-- EXT (R86). -/
  | ext (a : At) (p : Pred) (vd : BitVec 4) (acc : BitVec 2) (sh : BitVec 5) (sat : Bool)
  /-- ACCLD (R87). -/
  | accld (a : At) (p : Pred) (acc : BitVec 2) (va : BitVec 4) (sh : BitVec 5)
  /-- ACCZ (R79). -/
  | accz (a : At) (p : Pred) (acc : BitVec 2)
  /-- ACCADD (R85). -/
  | accadd (a : At) (p : Pred) (accd accs : BitVec 2)
  /-- VADD (R88). -/
  | vadd (a : At) (p : Pred) (vd va vb : BitVec 4) (sat : Bool)
  /-- VSUB (R88). -/
  | vsub (a : At) (p : Pred) (vd va vb : BitVec 4) (sat : Bool)
  /-- VNEG (R88). -/
  | vneg (a : At) (p : Pred) (vd va : BitVec 4) (sat : Bool)
  /-- VABS (R88). -/
  | vabs (a : At) (p : Pred) (vd va : BitVec 4) (sat : Bool)
  /-- VMIN (R88). -/
  | vmin (a : At) (p : Pred) (vd va vb : BitVec 4)
  /-- VMAX (R88). -/
  | vmax (a : At) (p : Pred) (vd va vb : BitVec 4)
  /-- VAND (R88). -/
  | vand (a : At) (p : Pred) (vd va vb : BitVec 4)
  /-- VOR (R88). -/
  | vor (a : At) (p : Pred) (vd va vb : BitVec 4)
  /-- VXOR (R88). -/
  | vxor (a : At) (p : Pred) (vd va vb : BitVec 4)
  /-- VSHL (R88). -/
  | vshl (a : At) (p : Pred) (vd va : BitVec 4) (sat : Bool) (imm : BitVec 5)
  /-- VSAR (R88). -/
  | vsar (a : At) (p : Pred) (vd va : BitVec 4) (sat : Bool) (imm : BitVec 5)
  /-- VSHR (R88). -/
  | vshr (a : At) (p : Pred) (vd va : BitVec 4) (imm : BitVec 5)
  /-- VMOV (R79). -/
  | vmov (a : At) (p : Pred) (vd va : BitVec 4)
  /-- VSEL (R79). -/
  | vsel (a : At) (p : Pred) (vd va vb : BitVec 4) (psel : BitVec 2)
  /-- VBRD (R79). -/
  | vbrd (a : At) (p : Pred) (vd sa : BitVec 4)
  /-- VGET (R79). -/
  | vget (a : At) (p : Pred) (sd va e : BitVec 4)
  /-- VPERM (R79). -/
  | vperm (a : At) (p : Pred) (vd va vb pat : BitVec 4)
  /-- VCMP (R79). -/
  | vcmp (a : At) (p : Pred) (pd : BitVec 2) (cc va vb : BitVec 4)
  /-- EVENT_TAKEN (R66). -/
  | eventTaken (cl core : Nat)
  /-- REP_LOOP_BACK (R95). -/
  | repLoopBack (cl core : Nat)
  /-- HALT (R73). -/
  | halt (cl core : Nat)
  /-- HALT_ACCEPTED (R73). -/
  | haltAccepted (cl core : Nat)
  /-- RESUME (R70). -/
  | resume (cl core : Nat)
  /-- STEP (R70). -/
  | step (cl core : Nat)
  /-- MEM_INIT (R44). -/
  | memInit (cl : Nat)
  /-- N_VALID_RISE (R14). -/
  | nValidRise (c : Nat)
  /-- ENGINE_START (R39). -/
  | engineStart (c : Nat)
  /-- TICK_START (R25). -/
  | tickStart (c : Nat)
  /-- TSTART (R106). -/
  | tstart (cl core task : Nat)
  /-- BUDGET (R107). -/
  | budget (cl core task : Nat)
  /-- OUTPUT_PHASE (R110). -/
  | outputPhase
  /-- TICK_END (R338). -/
  | tickEnd (c : Nat)
  /-- DOORBELL_FETCH (R339). -/
  | doorbellFetch
  /-- NUDGE (R334). -/
  | nudge (off : Nat) (val : W32)
  /-- METER_FRAME (R347). -/
  | meterFrame
  /-- GRID_INSTANT (R461). -/
  | gridInstant
  /-- HIF_ENABLE (R352). -/
  | hifEnable (val : W32)
  /-- HIF_DISABLE (R352). -/
  | hifDisable (val : W32)
  /-- FREE_START (R14). -/
  | freeStart
  /-- RUN (R39). -/
  | run
  /-- REGISTER_WRITE (R1). -/
  | registerWrite (ag : Agent) (off : Nat) (val : W32)
  /-- BAD_ACCESS (R3). -/
  | badAccess (ag : Agent) (off size : Nat) (write : Bool)
  /-- LO_READ (R4). -/
  | loRead (ag : Agent) (off : Nat)
  /-- RC_READ (R5). -/
  | rcRead (ag : Agent) (off : Nat)
  /-- PEAK_CLR (R5). -/
  | peakClr
  /-- MIX_VALIDATION_DONE (R144). -/
  | mixValidationDone
  /-- RAMP_END (R129). -/
  | rampEnd (bus : Bool) (index : Nat)
  /-- LEADIN_START (R172). -/
  | leadinStart (port : Nat)
  /-- PORT_FRAME_RECEIVE (R161). -/
  | portFrameReceive (port : Nat) (words : List (Nat × W32))
  /-- SLIP (R160). -/
  | slip (port : Nat) (full : Bool)
  /-- GLITCH (R182). -/
  | glitch (port : Nat) (missing : Bool)
  /-- CLOCK_LOST (R183). -/
  | clockLost (port : Nat)
  /-- CLOCK_RECOVERED (R184). -/
  | clockRecovered (port : Nat) (rate : Nat)
  /-- AES_ERR (R165). -/
  | aesErr (port ch : Nat)
  /-- CS_BLOCK (R166). -/
  | csBlock (port sub : Nat) (bytes : List Byte) (c phase : Nat)
  /-- ASRC_LOCK (R177). -/
  | asrcLock (port : Nat) (ratio : W32)
  /-- ACQ_FAIL (R177). -/
  | acqFail (port : Nat)
  /-- TRACK_ERR (R177). -/
  | trackErr (port : Nat)
  /-- MUTE_RAMP_END (R178). -/
  | muteRampEnd (asrc : Nat)
  /-- HOLD_EXPIRY (R176). -/
  | holdExpiry (asrc : Nat)
  /-- SYNC_MATCH (R180). -/
  | syncMatch (port ch : Nat) (found : NaFind)
  /-- NA_RELEASE (R181). -/
  | naRelease (port ch : Nat)
  /-- UNSETTLED_END (R194). -/
  | unsettledEnd (chain : Nat)
  /-- LOOP_SAMPLE (R205). -/
  | loopSample (group : Nat) (grs : BitVec 64) (bits : List (BitVec 64 × BitVec 64))
  /-- SWITCHING_PERIOD (R208). -/
  | switchingPeriod (flue : Nat)
  /-- RAMP_UP_END (R213). -/
  | rampUpEnd (flue : Nat)
  /-- RAMP_DOWN_END (R213). -/
  | rampDownEnd (flue : Nat)
  /-- STOPPING_END (R213). -/
  | stoppingEnd (flue : Nat)
  /-- TRIP (R220). -/
  | trip (flue : Nat) (ball : GBall)
  /-- TRIP_RATE_SHUTDOWN (R221). -/
  | tripRateShutdown (flue : Nat)
  /-- RETRY (R222). -/
  | retry (flue : Nat)
  /-- RETRY_SUCCESS (R222). -/
  | retrySuccess (flue : Nat)
  /-- DC_BLOCK (R223). -/
  | dcBlock (flue : Nat)
  /-- SENSE_FAULT (R224). -/
  | senseFault (flue : Nat) (onF : Bool)
  /-- FRAME_RECEIVED (R234). -/
  | frameReceived (port : Nat) (bytes : List Byte) (line : LineErr) (c phase sub : Nat)
  /-- PACKET_DUE (R243). -/
  | packetDue (stream : Nat) (c phase : Nat)
  /-- LATE_DROP (R247). -/
  | lateDrop (stream : Nat) (pathB : Bool)
  /-- TAKE_POINT (R249). -/
  | takePoint (stream : Nat)
  /-- LINK_CHANGE (R232). -/
  | linkChange (port : Nat) (up : Bool)
  /-- NET_CFG_WRITE (R232). -/
  | netCfgWrite (ag : Agent) (port : Nat) (val : W32)
  /-- LPI_ENTRY (R238). -/
  | lpiEntry (side : LpiSide)
  /-- CARAVAN_SEND (R259). -/
  | caravanSend (c : Nat)
  /-- CARAVAN_RECEIVED (R259). -/
  | caravanReceived (bytes : List Byte) (fcsOk : Bool) (c : Nat)
  /-- RING_DOWN (R261). -/
  | ringDown
  /-- APPLY (R267). -/
  | apply (ag : Agent) (dom : Nat) (val : W32)
  /-- CANCEL (R267). -/
  | cancel (ag : Agent) (dom : Nat) (val : W32)
  /-- OWNER (R268). -/
  | owner (ag : Agent) (dom : Nat) (val : W32)
  /-- DOMAIN_UPDATE (R267). -/
  | domainUpdate (dom : Nat)
  /-- GO (R269). -/
  | go
  /-- PPS_IN (R282). -/
  | ppsIn (c phase width : Nat)
  /-- PPS_OUT (R283). -/
  | ppsOut (c : Nat)
  /-- WTR (R289). -/
  | wtr (cand : Nat)
  /-- DISPUTE (R300). -/
  | dispute (cand : Nat)
  /-- HISTORY_SECOND (R298). -/
  | historySecond (freqs : List (Nat × W32))
  /-- LOCK (R297). -/
  | lock
  /-- MEDIA_INDEX_SET (R296). -/
  | mediaIndexSet (c : Nat)
  /-- HIST_CLR (R298). -/
  | histClr
  /-- SUSP_CLR (R289). -/
  | suspClr
  /-- DCO_FFO_WRITE (R301). -/
  | dcoFfoWrite (val : W64)
  /-- BACKGROUND_COPY_DONE (R308). -/
  | backgroundCopyDone (cl : Nat)
  /-- SHADOW_SLOT_END (R310). -/
  | shadowSlotEnd
  /-- BIST_END (R310). -/
  | bistEnd (failed : List Nat)
  /-- TARGETED_SELF_TEST (R312). -/
  | targetedSelfTest (hearthFails : Bool) (emberFails : List Nat)
  /-- TWIN_LINK_UP (R316). -/
  | twinLinkUp (peerRun : Bool)
  /-- JOIN_COPY_DONE (R318). -/
  | joinCopyDone (j : W64)
  /-- JOIN_TICK (R318). -/
  | joinTick
  /-- SETTLED (R315). -/
  | settled
  /-- JOIN_FAIL (R315). -/
  | joinFail
  /-- DISPUTE_CLEARED (R315). -/
  | disputeCleared
  /-- TICK_RECORD (R322). -/
  | tickRecord (r : TickRec)
  /-- ARRIVE (R321). -/
  | arrive (stream : Nat) (peer : List Nat)
  /-- HANDOVER (R324). -/
  | handover (hc : W64)
  /-- ACK (R325). -/
  | ack (hc : W64)
  /-- HANDOVER_INSTANT (R324). -/
  | handoverInstant
  /-- WRESET (R326). -/
  | wreset
  /-- JOIN (R318). -/
  | join (items : List JoinItem)
  /-- MBX_FRAME (R361). -/
  | mbxFrame (mbox : Nat) (words : List W32) (epoch seq : BitVec 16) (code : Byte) (outcome : Nat)
  /-- PEER_LOST (R328). -/
  | peerLost (c : Nat)
  /-- DETACH (R315). -/
  | detach
  /-- REJOIN (R315). -/
  | rejoin
  /-- CLR_DISPUTE (R315). -/
  | clrDispute
  /-- SEND (R358). -/
  | send (sender mbox : Nat) (words : List W32) (len : Nat) (code : Byte)
  /-- TAKEN (R359). -/
  | taken (reader mbox : Nat)
  /-- TIMEOUT (R359). -/
  | timeout (mbox : Nat)
  /-- FLUSHED (R359). -/
  | flushed (mbox : Nat)
  /-- SENSOR_READ (R364). -/
  | sensorRead (req : Nat)
  /-- LOG_READ (R364). -/
  | logRead (req : Nat)
  /-- LOG_LEVEL (R425). -/
  | logLevel (req : Nat)
  /-- UPDATE_STAGE (R435). -/
  | updateStage (req : Nat)
  /-- UPDATE_ACTIVATE (R436). -/
  | updateActivate (req : Nat)
  /-- BOOT_STATUS (R364). -/
  | bootStatus (req : Nat)
  /-- HEALTH (R314). -/
  | health (req : Nat)
  /-- PTP_CFG (R275). -/
  | ptpCfg (req : Nat)
  /-- REPLY_DROP (R364). -/
  | replyDrop (req : Nat)
  /-- MATRIX_GRANT (R366). -/
  | matrixGrant (target : Nat) (reqs : List MtxReq)
  /-- BURST_RESET (R371). -/
  | burstReset (master : Nat)
  /-- SCRUB (R379). -/
  | scrub (mem : Nat)
  /-- REMAP (R373). -/
  | remap (ag : Agent) (val : W32)
  /-- ECC_INJ_ARM (R381). -/
  | eccInjArm (val : W32)
  /-- SOURCE_EVENT (R384). -/
  | sourceEvent (src : Nat) (detail : W64)
  /-- WINDOW_CLOSE (R386). -/
  | windowClose (src : Nat)
  /-- ESCALATION (R390). -/
  | escalation (src : Nat)
  /-- LADDER_DECAY (R390). -/
  | ladderDecay (group : Nat)
  /-- ACK_SOURCE (R389). -/
  | ackSource (src : Nat)
  /-- RECOVERY (R395). -/
  | recovery
  /-- REC_WINDOW_CLOSE (R395). -/
  | recWindowClose
  /-- PARITY_SWEEP (R397). -/
  | paritySweep
  /-- FORCE_SAFE (R393). -/
  | forceSafe
  /-- UNLATCH (R396). -/
  | unlatch
  /-- THERMAL_SAMPLE (R424). -/
  | thermalSample (readings : List (BitVec 16))
  /-- RESET_W (R401). -/
  | resetW (ag : Agent) (key : BitVec 16)
  /-- RESET_E (R402). -/
  | resetE (ag : Agent) (key : BitVec 16)
  /-- RESET_U (R403). -/
  | resetU (ag : Agent) (key : BitVec 16) (uclass unit : Nat)
  /-- RESET_M (R401). -/
  | resetM (ag : Agent) (key : BitVec 16)
  /-- RST_N_LOW (R405). -/
  | rstNLow (ns : Nat)
  /-- POWER_ON (R450). -/
  | powerOn
  /-- SUPPLY_RESET (R420). -/
  | supplyReset (supply : Nat)
  /-- SUPPLY_WARN (R421). -/
  | supplyWarn (supply : Nat)
  /-- SUPPLY_OK (R421). -/
  | supplyOk (supply us : Nat)
  /-- RESET_RELEASE (R407). -/
  | resetRelease (ns : Nat) (twinId : Bool) (bootsel : BitVec 2) (failed : List Nat)
  /-- CLK_LOST (R410). -/
  | clkLost (clk : Nat)
  /-- CLOCK_QUALIFIED (R410). -/
  | clockQualified (clk : Nat)
  /-- PCIE_RESET (R403). -/
  | pcieReset
  /-- MGT_WDOG (R430). -/
  | mgtWdog
  /-- REQ_RUN (R417). -/
  | reqRun
  /-- REQ_QUIET (R416). -/
  | reqQuiet
  /-- REQ_KEEP (R418). -/
  | reqKeep
  /-- QUIET_GATE (R416). -/
  | quietGate
  /-- DOMAIN_POWER_ON (R419). -/
  | domainPowerOn
  /-- PD_EN_WRITE (R413). -/
  | pdEnWrite (word : Nat) (val : W32)
  /-- BOOT_ATTEMPT (R430). -/
  | bootAttempt
  /-- BOOT_OK (R430). -/
  | bootOk
  /-- HOST_TMO (R431). -/
  | hostTmo
  /-- BOOT_GO (R432). -/
  | bootGo
  /-- CLR_FAIL (R434). -/
  | clrFail
  /-- LIFECYCLE_ADVANCE (R438). -/
  | lifecycleAdvance (val : W32)
  /-- NEWCHAL (R439). -/
  | newchal
  /-- DEBUG_REQUEST (R440). -/
  | debugRequest (val : W32)
  /-- LOCKOUT_END (R440). -/
  | lockoutEnd
  /-- COMMIT (R428). -/
  | commit (val : BitVec 16)
  /-- SAMPLE_PRELOAD (R440). -/
  | samplePreload
  /-- IDCODE (R456). -/
  | idcode
  /-- BYPASS (R440). -/
  | bypass
  /-- EXTEST (R441). -/
  | extest
  /-- WORD_CLOCK_EDGE (R291). -/
  | wordClockEdge (wck : Nat) (present : Bool) (c phase : Nat)
  /-- FRAME_FROM_MANAGEMENT (R278). -/
  | frameFromManagement (port : Nat) (bytes : List Byte) (oneStep wantTs : Bool) (reqTs c phase : Nat)
  /-- TICK_RECORD_LATE (R323). -/
  | tickRecordLate
  /-- TWIN_LANE_CHANGE (R328). -/
  | twinLaneChange (lane : Nat) (up : Bool)
  deriving DecidableEq, Repr

end Sys2Proof
end

