-- ==== Sys2Proof/Decode.lean ====
section
/-! DEFINITION. Decode.lean: the commands as the opcode table's bits spell them. No row of spec/opcode_table.json gives
bits: the rows name steps, not words. The words that the spec does encode are the slot words of a bundle (R78, R79) and the
entries of the command ring (Table 13.4); Machine/Operands.lean and Machine/Hif.lean decode those. -/

namespace Sys2Proof

/-- The command that a word spells by the table's bits: none, since no row has bits. -/
def decodeTableWord (_nbits _w : Nat) : Option Instr := none

end Sys2Proof
end

