-- ==== Sys2Proof/Config.lean ====
section
/-! DEFINITION. Config.lean: the free values: what the spec leaves open where the part goes on. Each is a constant with no
body; the ones that take a Nat are applied to `State.drawn`, so that each use has a value of its own. -/

namespace Sys2Proof.Config

/-- A word that the ASRC converts (R176 gives its performance, not its arithmetic), by the loop bandwidth of its clock group in
steps of 0.5 Hz. -/
opaque asrcWord : Nat → Nat → W32

/-- A word that the ASRC converts for a transmit channel, by the same bandwidth and the slot words of the tick. -/
opaque asrcSent : Nat → List W32 → Nat → W32

/-- The rounding of a term of the loop, in 2^-48: R294 says how many bits the arithmetic keeps, not how it rounds. -/
opaque loopRound : Nat → Int

/-- The phase of a SyncE candidate's recovered clock less μ, in time units (R291): what the line brings. -/
opaque syncPhase : Nat → Int

/-- A word of the nonce that the on-chip random source gives (R439). -/
opaque nonce : Nat → W32

/-- The verdict of a proof: the HMAC and the ECDSA signature are standards that the spec does not restate (R439), by mode,
nonce, level and proof words. -/
opaque proofOk : Bool → List W32 → Nat → List W32 → Bool

/-- The verdict of R427's cryptographic checks on an image's bytes. -/
opaque imageOk : List Byte → Bool

/-- L_TX and L_RX per line mode, in time units, which OTP loads (R277). -/
opaque latTx : Nat → Int
opaque latRx : Nat → Int

/-- Time units that a forwarded PTP message spends in the part, which R281 measures and no rule fixes. -/
opaque forwardDelay : Nat → Nat

/-- The low byte of a log entry's CODE, where Table 18.2 gives only a range: by fault source, or by a number from 1,024 on for
another subject. -/
opaque logCode : Nat → BitVec 8

/-- The arguments of a log entry that the spec does not lay out, by the same number. -/
opaque logArgs : Nat → List Byte

/-- Quinneha's manufacturer identity code, which R456 names and does not give. -/
opaque makerCode : BitVec 11

/-- A voltage, ageing or temperature reading (Table 14.4). -/
opaque sensor : Nat → W32

end Sys2Proof.Config
end

