-- ==== Sys2Proof/Machine/State.lean ====
section
/-! DEFINITION. Machine/State.lean: the state of the part as plain data. Every BAR0 register is one word of
`regs`, keyed by its BAR0 offset and read through the accessors of Machine/Ops.lean, so that reserved bits and reset
masks act in one place; what no register shows is a typed field. The default of each field is its reset value. -/

namespace Sys2Proof.Machine

/-! ## Valuc cores (02, 03) -/

/-- Producer classes of Tables 2.8 and 3.11 whose results are not visible to every consumer in the next bundle. -/
inductive PClass where
  | pred | load | vload | valu | vget | vcmp | mac | ext | strv
  deriving DecidableEq, Repr, Inhabited

/-- What a bundle's result goes to. A `p`, `v` or `acc` names one bit or element, 16r + e; `reg` is a register code
of Table 3.4; `mem` is a byte address of the internal map; `xsig` raises XCORE on a core; `old` keeps the word that stood at
an address before a rounded store that has landed while the core does not issue. -/
inductive Dst where
  | reg (code : Nat) | p (i : Nat) | v (i : Nat) | acc (i : Nat) | sat | aov
  | mem (addr : Nat) | xsig (core : Nat) | old (addr : Nat)
  deriving DecidableEq, Repr, Inhabited

/-- A result on its way to its register (R55): how many bundles ago it was produced, and its class. -/
structure Flight where
  age : Nat
  cls : PClass
  dst : Dst
  val : BitVec 72
  deriving DecidableEq, Repr, Inhabited

/-- One active repeat level (R57, R60). -/
structure Loop where
  start : Nat
  stop : Nat
  irep : Bool
  issued : Nat
  first : Bool
  deriving DecidableEq, Repr, Inhabited

/-- A branch-class operation waiting for its delay slots (R93). -/
inductive Turn where
  | jump (target : Nat) | endTask | rte
  deriving DecidableEq, Repr, Inhabited

/-- The registers of Table 2.5 and the hidden state of one core. -/
structure Core where
  s : Tbl W32 := []
  x : Tbl (BitVec 18) := []
  y : Tbl (BitVec 18) := []
  k : Tbl (BitVec 18) := []
  q : Tbl (BitVec 16) := []
  p : Tbl (BitVec 16) := []
  v : Tbl W32 := []
  acc : Tbl (BitVec 72) := []
  lc0 : BitVec 17 := 0
  lc1 : BitVec 17 := 0
  st : W32 := 0
  ra : BitVec 12 := 0
  epc : BitVec 12 := 0
  est : W32 := 0
  ic : W32 := 0
  pc : BitVec 12 := 0
  loops : List Loop := []
  /-- shadow copy of R66: loop levels, lc0 and lc1 -/
  shLoops : List Loop := []
  shLc0 : BitVec 17 := 0
  shLc1 : BitVec 17 := 0
  /-- set when the last body bundle has issued and the loop-back test is still to come (R95) -/
  loopDue : Bool := false
  /-- the bundles the repeat buffer holds, by bundle address (R59) -/
  repBuf : Tbl (BitVec 128) := []
  flights : List Flight := []
  /-- branch-class operations with the delay slots still to issue -/
  turns : List (Turn × Nat) := []
  /-- the body whose bundles the repeat buffer holds -/
  repOwner : Option (Nat × Nat) := none
  /-- address of the WAITE bundle of a core in WAIT, and whether it stands in a delay slot -/
  waitPc : BitVec 12 := 0
  waitSlot : Bool := false
  events : BitVec 16 := 0
  waitMask : BitVec 16 := 0
  haltReq : Bool := false
  /-- the state held before a halt (Table 2.11) -/
  heldState : Nat := 1
  /-- the task that runs, by INDEX -/
  task : Option Nat := none
  ranThisTick : Bool := false
  issueNow : W32 := 0
  stallNow : W32 := 0
  deriving DecidableEq, Repr, Inhabited

/-! ## Images and clusters (04, 12) -/

/-- Hidden state of one physical cluster; its role and image state stand in EMB_MAP and HRT_IMG_STATE. -/
structure Cluster where
  image : Option Image := none
  /-- the next tick of the image is its first (INIT of Table 2.4 when `initFlag`) -/
  fresh : Bool := false
  initFlag : Bool := false
  pswap : Bool := false
  /-- DLY words as they stood at cycle E of the tick before, per DREAD entry (R112) -/
  dly : List W32 := []
  /-- tick at whose start the cluster began to join (R308), counted in elapsed ticks -/
  joinAt : Option Nat := none
  copied : Bool := false
  /-- runs in step with the shadowed hearth -/
  inStep : Bool := false
  /-- no mismatch so far in this shadow slot (R314) -/
  clean : Bool := true
  /-- outcome codes of the cores' mailbox sends waiting for the next input phase (R363) -/
  mailOut : Tbl Nat := []
  /-- the tick descriptor (Table 2.4) -/
  desc : List W32 := []
  /-- signature of the output windows and delay writes of the tick (R305) -/
  signature : W64 := 0
  deriving DecidableEq, Repr, Inhabited

/-- A targeted self-test (R312). -/
structure SelfTest where
  hearth : Nat
  unit : Nat
  embers : List Nat
  ticks : Nat
  deriving DecidableEq, Repr, Inhabited

/-- A hearth waiting for an ember to carry it (R312, R313): the ember carries it once in step. -/
structure Takeover where
  hearth : Nat
  old : Nat
  ember : Nat
  /-- WHY code of Table 12.8 for the retired cluster -/
  why : Nat
  /-- elapsed-tick count at whose tick start the ember carries the hearth -/
  due : Option Nat
  deriving DecidableEq, Repr, Inhabited

structure Ember where
  /-- number of the shadow slot that starts next (R310), and whether one runs -/
  slot : Nat := 0
  slotOn : Bool := false
  /-- ROT_EN was written 1: the running slot ends at the next tick start -/
  endSlot : Bool := false
  /-- the BIST of the running slot has ended -/
  bistDone : Bool := false
  tests : List SelfTest := []
  takeovers : List Takeover := []
  /-- clusters that a vote convicts, retired at the next tick start, with WHY -/
  convicts : List (Nat × Nat) := []
  /-- source groups with local evidence in this tick and in the one before (R311, R326) -/
  evNow : List Nat := []
  evPrev : List Nat := []
  deriving DecidableEq, Repr, Inhabited

/-! ## Scheduling (01, 13) -/

/-- What the target's checks or the effect of a command gave: STATUS and REASON, and whether an OK is without effect. -/
structure Result where
  status : Nat := 0
  reason : Nat := 0
  idle : Bool := false
  deriving DecidableEq, Repr, Inhabited

/-- A held command (R29). Until it is scheduled `nx` is its EXEC_AT. -/
structure Held where
  hdr : Hdr
  op : HostOp
  nx : Nat := 0
  sched : Bool := false
  late : Bool := false
  /-- the SCH_SLOT_CFG words that a SLOT_CFG read when it was scheduled -/
  words : List W32 := []
  /-- the answer of a sample-exact command whose tick runs and whose sample is still to come -/
  planned : Option Result := none
  deriving DecidableEq, Repr, Inhabited

structure Sch where
  held : List Held := []
  /-- a FREE_START written and waiting for its M edge (R14) -/
  freePend : Bool := false
  /-- tick starts processed since the engine started -/
  elapsed : Nat := 0
  /-- counter C latched at the tick's first M edge (R271) -/
  ck : Nat := 0
  /-- T before a tick-length change whose first tick is running (R36) -/
  oldT : Option Nat := none
  /-- slots whose DOMAIN changed at the boundary of this tick (R462) -/
  domNew : List Nat := []
  /-- LIVE flags: key 8192·buffer + slot (R22) -/
  live : Tbl Bool := []
  /-- words written in this tick, a bit per word (R22) -/
  written : Tbl (BitVec 64) := []
  /-- the input and output phases of this tick done -/
  outDone : Bool := false
  /-- both slot buffers read as zeros (first tick after QUIET, R417) -/
  blank : Bool := false
  /-- the running tick has ended (TICK_END) -/
  ended : Bool := true
  /-- 1 while the buffer that producers write is (k + 1) mod 2, after a tick-length change (R20, R36) -/
  bufOff : Nat := 0
  deriving DecidableEq, Repr, Inhabited

/-! ## Mix engine (05) -/

structure Ramp where
  g0 : Int
  g1 : Int
  len : Nat
  db : Bool
  step : Nat
  /-- the first word whose sample index is `nc` or later is step 1 (R129) -/
  nc : Nat
  deriving DecidableEq, Repr, Inhabited

structure Damper where
  g : Int := 0
  ramp : Option Ramp := none
  deriving DecidableEq, Repr, Inhabited

/-- A departing contribution (R148). -/
structure Departing where
  bus : Nat
  src : Nat
  ramp : Ramp
  g : Int
  deriving DecidableEq, Repr, Inhabited

structure MixPatch where
  slot : Nat
  /-- sample of boundary B and fade length P (R149) -/
  b : Nat
  p : Nat
  old : Nat
  new : Nat
  deriving DecidableEq, Repr, Inhabited

structure Mix where
  /-- the bank the tick-exact fields come from (Table 5.5): false A, true B -/
  sbank : Bool := false
  /-- validation verdict of the scheduled swap: none while it runs (R144) -/
  verdict : Option Nat := none
  /-- crosspoint x at key x, bus b at key 262144 + b -/
  dampers : Tbl Damper := []
  departing : List Departing := []
  /-- active inputs N of each bus in the last tick (R136) -/
  busN : Tbl Nat := []
  /-- section state: key 4s + i for x1, x2, y1, y2 (R137) -/
  sect : Tbl W32 := []
  /-- sections of the chains in use, per bus: first and length (R138) -/
  chains : Tbl (Nat × Nat) := []
  /-- source and bus of each crosspoint that contributes to a bus range (R148) -/
  homes : Tbl (Nat × Nat) := []
  /-- waystation input histories, latest word first: key 2w for the first stage, 2w + 1 for the second -/
  wayHist : Tbl (List W32) := []
  /-- the words of a waystation's fields that its history belongs to -/
  wayCfg : Tbl W32 := []
  /-- patch fades whose new-producer side runs (R149) -/
  patches : List MixPatch := []
  /-- changes of GAIN or INV with the sample, the length and the shape of the ramp they ask for, by damper, since the last
  tick start (R133, R147) -/
  gainAt : List (Nat × Nat × Nat × Bool) := []
  /-- the crosspoints counted in MIX_SKIP_CNT in this tick (R124) -/
  skipped : List Nat := []
  skipRead : Bool := true
  deriving DecidableEq, Repr, Inhabited

/-! ## Ports, ASRC, chains (06, 07) -/

/-- A 32-word fade (06): direction, words done. -/
structure Fade where
  fadeIn : Bool
  k : Nat
  deriving DecidableEq, Repr, Inhabited

structure Port where
  startN : Option Nat := none
  stopN : Option Nat := none
  /-- frames waiting to be committed: the FIFO of a slave port, or the frames captured in this tick, oldest first -/
  fifo : List (List (Nat × W32)) := []
  /-- the two-frame delay of non-audio detection, oldest first (R161) -/
  delay : List (List (Nat × W32)) := []
  lastGood : Tbl W32 := []
  prev : Tbl W32 := []
  /-- fade of all DIRECT channels: 0 slip fade-out, 1 fade-in, 2 fade-out at a loss, with the words done -/
  fade : Option (Nat × Nat) := none
  /-- fade-in of one channel: after non-audio (R181), and of a transmit channel after safe state (R395) -/
  fades : Tbl Nat := []
  /-- words sent in the tick's frames: word j of channel c at key 128c + j, and the AES3 validity bit at key 128c + 127 -/
  tx : Tbl W32 := []
  miss : Nat := 0
  /-- consecutive frames without a match per muted channel (R181) -/
  rel : Tbl Nat := []
  /-- domain of the frame rate at which the port last entered RUN (R184) -/
  dom : Option Nat := none
  /-- channels muted by the AES3 non-audio bit -/
  nonaudio : BitVec 2 := 0
  /-- Gate, clock and data balls of Table 6.1 driven -/
  driven : Bool := false
  /-- the slip and recovery fade of the DIRECT transmit channels, as `fade` -/
  txFade : Option (Nat × Nat) := none
  /-- frames of the running tick still to come before the frame of n_x, which the lead-in discards (R172) -/
  early : Nat := 0
  /-- the monitored rate in Hz when the clock was lost, which AES3 transmission keeps (R183) -/
  lastRate : Nat := 0
  /-- number of the tick's next transmitted frame in its channel-status block of 192, and the channel-status bits of the
  frames of the tick, subframe A then B (R166) -/
  csFrame : Nat := 0
  csBits : List (Bool × Bool) := []
  skipRead : Bool := true
  /-- time of the last channel-status block start (R167) -/
  blockTs : Nat := 0
  deriving DecidableEq, Repr, Inhabited

structure Asrc where
  muted : Bool := false
  /-- ramp: up, word k, length L -/
  ramp : Option (Bool × Nat × Nat) := none
  /-- state code taken when a ramp down ends: MUTED 5, OFF 0, ACQUIRE 1 -/
  after : Nat := 1
  fade : Option Fade := none
  lastWord : W32 := 0
  /-- scheduled ramps down (R179): the domain index each starts at, the index it ends before, and the state after it -/
  rampAt : List (Nat × Nat × Nat) := []
  /-- domain indices at which scheduled unmutes take effect -/
  upAt : List Nat := []
  /-- on transmit, the slot words of the tick after the soft mute ramp, as they enter the conversion (R178) -/
  words : List W32 := []
  deriving DecidableEq, Repr, Inhabited

structure Chain where
  /-- input history of stages 1 to 8, latest word first -/
  hist : List (List W32) := []
  /-- words received by each stage -/
  count : List Nat := []
  est : Int := 0
  /-- 0 slip fade-out, 1 fade-in, 2 fade-out at a loss, with the words done -/
  fade : Option (Nat × Nat) := none
  lastOut : W32 := 0
  /-- output words waiting to be committed, oldest first -/
  capture : List W32 := []
  /-- scheduled DEC_FREEZE commands: n_x and the new state, in the order of n_x (R192) -/
  frz : List (Nat × Bool) := []
  /-- the bit that a glitch repeats -/
  lastBit : Bool := false
  deriving DecidableEq, Repr, Inhabited

/-! ## Flues (08) -/

structure Section2 where
  x1 : Int := 0
  x2 : Int := 0
  y1 : Int := 0
  y2 : Int := 0
  deriving DecidableEq, Repr, Inhabited

structure Flue where
  /-- n_x of a scheduled enable and of a disable -/
  onN : Option Nat := none
  offN : Option Nat := none
  /-- reference interpolator history, F words latest first, and the loop-rate words of the tick still to come -/
  hist : List W32 := []
  refs : List W32 := []
  /-- loop samples done in this tick, and the index of the next switching period -/
  pos : Nat := 0
  q : Nat := 0
  j : Nat := 0
  sec1 : Section2 := {}
  sec2 : Section2 := {}
  d : Int := 0
  epsA : Nat := 0
  epsB : Nat := 0
  /-- edges of the running period in eighths: s_A, f_A, s_B, f_B (R209) -/
  edges : Nat × Nat × Nat × Nat := (0, 0, 0, 0)
  /-- from the period before: where the low-side switches of legs A and B turn on, and where blanking ends, in eighths of the
  running period (R210, R220) -/
  lowFrom : Nat × Nat := (0, 0)
  blankTo : Nat := 0
  /-- a run of 4,096 identical sense bits has been seen in a driving state (R224) -/
  stuck : Bool := false
  /-- periods begun since entry to the state -/
  periods : Nat := 0
  /-- q' at which a shortened RAMP_DOWN began (R213) -/
  rampFrom : Nat := 0
  /-- position of the first trip of the running period -/
  tripped : Option Nat := none
  /-- tripped periods, the running one in bit 0 (R221) -/
  window : W64 := 0
  waitLeft : Nat := 0
  runPeriods : Nat := 0
  /-- state after STOPPING: LATCHED 7 or OFF 0 -/
  afterStop : Nat := 0
  dcSum : Int := 0
  dcN : Nat := 0
  dcCount : Nat := 0
  dcNeg : Bool := false
  runE : Nat := 0
  runF : Nat := 0
  lastE : Bool := false
  lastF : Bool := false
  /-- the latest sense words v[m] and i[m] -/
  v : W32 := 0
  i : W32 := 0
  /-- monitor decimators: histories latest first, and the words of this tick, oldest first -/
  monV : List W32 := []
  monI : List W32 := []
  outV : List W32 := []
  outI : List W32 := []
  clipped : Bool := false
  limited : Bool := false
  deriving DecidableEq, Repr, Inhabited

structure FlueGroup where
  hold : Nat := 0
  started : Bool := false
  deriving DecidableEq, Repr, Inhabited

/-! ## Network (09) -/

/-- A word held in a jitter buffer: its LIVE bit and the word. -/
structure JbWord where
  live : Bool
  word : W32
  pathB : Bool
  deriving DecidableEq, Repr, Inhabited

/-- Concealment of one channel (R252). -/
structure Conceal where
  /-- g: the last word written before the fade that runs, and the fade words done -/
  last : W32 := 0
  miss : Nat := 0
  /-- words of the fade-in done; 32 when none runs -/
  fadeIn : Nat := 0
  /-- the words of the packet before and of the running one, oldest first, and whether they are missing -/
  prev : List W32 := []
  cur : List W32 := []
  prevMissed : Bool := true
  curMissed : Bool := true
  deriving DecidableEq, Repr, Inhabited

/-- A stream's working state (R251, Table 9.7); of the counts, `dup` and `late` are LATE_DROP and LINK_DROP of a
transmit stream. -/
structure Stream where
  state : Nat := 0
  reason : Nat := 0
  startN : Option Nat := none
  stopN : Option Nat := none
  seq : Nat := 0
  /-- held words: key 256·index + channel -/
  jb : List (Nat × JbWord) := []
  chans : Tbl Conceal := []
  /-- transmit words read at tick starts: key 256·index + channel -/
  tx : List (Nat × JbWord) := []
  nextI : Nat := 0
  /-- path copies of the packet that is due next that were dropped late (R247) -/
  dropA : Bool := false
  dropB : Bool := false
  pktsA : W32 := 0
  pktsB : W32 := 0
  dup : W32 := 0
  late : W32 := 0
  early : W32 := 0
  missing : W32 := 0
  margin : BitVec 16 := 0xFFFF
  clip : BitVec 16 := 0
  /-- first indices of the packets that the peer holds at the cut (R321); none while no record has come -/
  peer : Option (List Nat) := none
  deriving DecidableEq, Repr, Inhabited

structure TsEntry where
  mtype : Nat
  domain : Nat
  seqId : Nat
  ts : Nat
  deriving DecidableEq, Repr, Inhabited

structure Net where
  /-- frames sent, latest first: the wire side of the port -/
  sent : List (List Byte) := []
  tsq : List TsEntry := []
  /-- ingress timestamps given to management with their frames -/
  toMgmt : List (Nat × List Byte) := []
  toPtp : List (Nat × List Byte) := []
  /-- time of the last BUF_DROP event (R235) -/
  bufDropAt : Option Nat := none
  deriving DecidableEq, Repr, Inhabited

/-- Convoy state (R258–R261). -/
structure Convoy where
  /-- caravans received, latest first: k, words by caravan slot with LIVE -/
  ring : List (Nat × List (Bool × List W32)) := []
  /-- the caravan that the master sent last -/
  sentK : Option Nat := none
  silent : Nat := 0
  deriving DecidableEq, Repr, Inhabited

/-! ## Timebase and reference (10, 11) -/

structure DomUpdate where
  cu : Nat
  rate : Option Nat
  set : Option Nat
  adj : Option Int
  deriving DecidableEq, Repr, Inhabited

structure Dom where
  base : Nat := 0
  anchor : Nat := 0
  rate : Nat := 0x20000000000
  stRate : W64 := 0x20000000000
  pend : Option DomUpdate := none
  deriving DecidableEq, Repr, Inhabited

structure Cand where
  e : Int := 0
  /-- clocks of WTR, dispute and PPS, in counts of C -/
  wtrAt : Nat := 0
  dispS : Nat := 0
  agreeS : Nat := 0
  /-- a word clock's count of missing edges in a row, 4 while it is lost, its in-place edges since, the last accepted
  edge and the tracked period (R182) -/
  missing : Nat := 4
  inPlace : Nat := 0
  lastTs : Option Nat := none
  period : Nat := 0
  deriving DecidableEq, Repr, Inhabited

structure Tmb where
  c : Nat := 0
  doms : Tbl Dom := []
  beta0 : Int := 0
  /-- C at the last instant of the 100 µs grid whose work has run (R461) -/
  lastGrid : Nat := 0
  /-- C at the last re-base (R272) -/
  rebased : Option Nat := none
  /-- C at which the last PPS_OUT pulse began, and whether one is on -/
  ppsLast : Option Nat := none
  ppsOn : Bool := false
  ppsInLast : Option Nat := none
  /-- the whole second of the source time at the last PPS_OUT look, or after a later step backwards (R283) -/
  ppsSec : Nat := 0
  deriving DecidableEq, Repr, Inhabited

structure Ref where
  cands : Tbl Cand := []
  /-- one y per locked second, latest first (R298) -/
  hist : List Int := []
  /-- y summed over the tick starts of the running second, their number, and whether one of them was not locked, open
  or switching -/
  ySum : Int := 0
  yN : Nat := 0
  yBad : Bool := false
  integ : Int := 0
  phi0 : Int := 0
  /-- C since which |e'| has stayed below LOCK_NS -/
  lockAt : Option Nat := none
  /-- the media index at the last tick start or at its setting, and C there (R296) -/
  mediaIndex : Nat := 0
  mediaC : Nat := 0
  mediaSet : Bool := false
  /-- ACQUIRING entered, and the first M edge still to come -/
  acqEdge : Bool := false
  /-- OPEN as it stood at the last tick start -/
  wasOpen : Bool := false
  /-- the switch that runs changed the anchor (R293) -/
  anchorSwitch : Bool := false
  /-- a LOCK that takes effect with the LEAD's next record (R320) -/
  lockPend : Bool := false
  /-- the domain that t_M is anchored on, which ANCHOR shows while N_VALID is set (R297) -/
  anchor : Nat := 2
  deriving DecidableEq, Repr, Inhabited

/-! ## Twin (12) -/

structure HandoverReq where
  h : Nat
  sends : Nat
  acked : Bool
  /-- 0 conviction (R326), 1 escalation (R327), 2 fault state (R393), 3 TWIN_SWAP (R329), 4 role (R316) -/
  why : Nat
  deriving DecidableEq, Repr, Inhabited

structure Twin where
  handover : Option HandoverReq := none
  /-- a TWIN_SWAP whose handover is under way -/
  swapCmd : Option Held := none
  /-- this SHADOW drives the shared balls since an acknowledged handover, named for FCLK count `drivingH` -/
  driving : Bool := false
  drivingH : Nat := 0
  /-- C from which a LEAD that has lost its peer drives, at FCLK count H − 1 (R328) -/
  leadFrom : Nat := 0
  /-- a comparison convicted the LEAD: once this SHADOW leads, its peer is detached -/
  leadOut : Bool := false
  sigs : List W64 := []
  /-- the last TICK record sent, and whether the peer's of the same tick is still to come -/
  record : Option TickRec := none
  awaiting : Bool := false
  /-- a peer record that came before this chip's own of the same tick -/
  peer : Option TickRec := none
  /-- ring index up to which the peer has finished (R350) -/
  peerDone : W32 := 0
  settleFor : Nat := 0
  agree : Nat := 0
  inPair : Nat := 0
  joinTick : Option W64 := none
  /-- FCLK count at which a fenced LEAD releases its balls (R328) -/
  fenceAt : Option Nat := none
  /-- in the LEAD the decisions of the running tick, in the SHADOW those taken from the LEAD (R320) -/
  decisions : Option TickRec := none
  /-- HANDOVER, ACK and WRESET frames sent, latest first (Table 12.4), and the next SEQ of each type, the same on both lanes -/
  sent : List (List Byte) := []
  seqs : Tbl W32 := []
  /-- the classes whose units are under test in DISPUTED -/
  disputed : BitVec 27 := 0
  deriving DecidableEq, Repr, Inhabited

/-! ## Host interface (13) -/

structure Cpl where
  hdr : Hdr
  status : Nat
  reason : Nat := 0
  applied : Bool := false
  lateOut : Nat := 0
  effN : W32 := 0
  deriving DecidableEq, Repr, Inhabited

structure EventRec where
  src : Nat
  cls : Nat
  raised : Bool
  first : Bool
  seq : W32
  n : W64
  c : W64
  detail : W64
  deriving DecidableEq, Repr, Inhabited

structure LogRec where
  seq : W32
  level : Nat
  code : Nat
  n : W64
  args : List Byte := []
  deriving DecidableEq, Repr, Inhabited

structure MeterAcc where
  peak : Nat := 0
  sum : Nat := 0
  words : Nat := 0
  deriving DecidableEq, Repr, Inhabited

structure Hif where
  cmdHead : W32 := 0
  cmdTail : W32 := 0
  cplTail : W32 := 0
  evtTail : W32 := 0
  mtrTail : W32 := 0
  logTail : W32 := 0
  cplHead : W32 := 0
  evtHead : W32 := 0
  mtrHead : W32 := 0
  logHead : W32 := 0
  /-- the CMD_HEAD last reported in the status block (R340) -/
  repHead : W32 := 0
  /-- SEQ of the last event written to the ring since EN was set -/
  lastSeq : W32 := 0
  /-- completions of earlier ticks at the front of `cpls`, whose ring writes failed -/
  cplKept : Nat := 0
  tailOk : Bool := true
  stallRun : Nat := 0
  dmaFails : Nat := 0
  sinceFetch : Nat := 0
  fetchArmed : Bool := true
  cpls : List Cpl := []
  events : List EventRec := []
  logs : List LogRec := []
  meters : Tbl MeterAcc := []
  /-- the meter points of the running interval -/
  mtrPts : Tbl W32 := []
  mtrTicks : Nat := 0
  mtrN0 : W64 := 0
  mtrSeq : W32 := 0
  /-- causes raised and waiting for the tick end, a bit each (R353) -/
  causes : BitVec 8 := 0
  /-- MSI-X messages sent, latest first: vector -/
  msix : List Nat := []
  /-- host ranges that answer in error: low, high -/
  bad : List (Nat × Nat) := []
  deriving DecidableEq, Repr, Inhabited

/-! ## Mailboxes (14) -/

structure Mbox where
  sender : Nat := 0
  /-- the sender is still owed an outcome -/
  owed : Bool := false
  /-- the sender's timer runs, and C at which it expires -/
  timer : Bool := false
  due : Nat := 0
  deriving DecidableEq, Repr, Inhabited

structure Mail where
  boxes : Tbl Mbox := []
  /-- epoch and next SEQ per sender ID (R357) -/
  epochs : Tbl (BitVec 16) := []
  seqs : Tbl (BitVec 16) := []
  /-- outcomes the peer is owed: mailbox, outcome -/
  peerOut : List (Nat × Nat) := []
  deriving DecidableEq, Repr, Inhabited

/-! ## Matrix, memories, ECC (15) -/

structure MtxTarget where
  queue : List MtxReq := []
  last : Nat := 63
  lock : Option (Nat × Nat) := none
  deriving DecidableEq, Repr, Inhabited

structure Mtx where
  targets : Tbl MtxTarget := []
  /-- byte addresses of 64-bit words that read as uncorrectable, and of those with a correctable error -/
  ue : List Nat := []
  ce : List Nat := []
  scrubPos : Tbl Nat := []
  /-- one more than the C at which a memory's last pass ended, or at which it was switched on -/
  scrubAt : Tbl Nat := []
  /-- what the last grant returned: its read data, and whether it ended in an error response -/
  readData : List (BitVec 512) := []
  errorResp : Bool := false
  deriving DecidableEq, Repr, Inhabited

/-! ## Fault collector (16) -/

structure Flt where
  /-- count points left of the open window per source (R386) -/
  window : Tbl Nat := []
  /-- C at which a pending source's grace expires, per source -/
  grace : Tbl Nat := []
  /-- count points since a rung was last taken, per group with L_g > 0 -/
  decay : Tbl Nat := []
  recWin : Nat := 0
  recOpen : Bool := false
  /-- an event that restarts the quiet count arrived in the tick that runs (R395) -/
  noisy : Bool := false
  /-- the ENTRY code of a fault state that waits for a handover (R393) -/
  entry : Option Nat := none
  seq : W32 := 0
  /-- offsets of configuration words whose parity fails (R397) -/
  badParity : List Nat := []
  /-- C at the last parity sweep -/
  lastSweep : Nat := 0
  deriving DecidableEq, Repr, Inhabited

/-! ## Resets, clocks, power (17) -/

/-- What a reset reaches (Table 0.4): kinds C, W, E, M, and U of one unit. -/
inductive Rst where
  | c | w | e | m | uCluster (i : Nat) | uPort (i : Nat) | uNet (i : Nat)
  deriving DecidableEq, Repr, Inhabited

/-- An asserted reset: whether its sources are released, and when (in ns) its stretch ends (R404). -/
structure Assert where
  kind : Rst
  released : Bool
  left : Nat
  deriving DecidableEq, Repr, Inhabited

structure Pwr where
  asserts : List Assert := [⟨.c, true, 2000000⟩]
  engineRst : Bool := true
  mgmtRst : Bool := true
  hifRst : Bool := true
  twinRst : Bool := true
  /-- clusters, ports and network ports held in reset -/
  clusters : List Nat := List.range 26
  ports : List Nat := List.range 48
  nets : List Nat := List.range 6
  /-- the cold reset's cause waiting for its release: 0 POR, 1 SUPPLY, 2 RSTN_EXT -/
  coldCause : Nat := 0
  /-- supplies below their reset level, and clocks lost and not qualified again -/
  lowSupply : List Nat := []
  lostClk : List Nat := []
  /-- ports that the loss of FCLK holds in reset: those in FLUE mode then (R410) -/
  fclkHeld : List Nat := []
  /-- C at the last release of a cold or warm reset: SMOKE toggles from the next edge on (R398) -/
  smokeFrom : Nat := 0
  /-- ns in which the level on RST_N is still ignored as a source (R405) -/
  rstnQuiet : Nat := 0
  /-- the power-state request waiting: RUN 0, QUIET 1, KEEP 2 -/
  request : Option Nat := none
  /-- what a transition in progress leads to: RUN 0, QUIET 1, KEEP 2 -/
  goal : Nat := 0
  /-- domains still to be turned on, in the order of R419 -/
  powerOn : List Nat := []
  /-- clusters whose memories are being zeroed -/
  zeroing : List Nat := []
  deriving DecidableEq, Repr, Inhabited

/-! ## Management and security (18) -/

structure FwSlot where
  valid : Bool := false
  sigOk : Bool := false
  version : W32 := 0
  svn : Nat := 0
  staged : Bool := false
  deriving DecidableEq, Repr, Inhabited

structure Mgmt where
  /-- the two copies of the boot record in flash, each with its generation, ACTIVE and TRIAL; none where it is not valid
  (R426) -/
  copies : Option (W32 × Bool × Bool) × Option (W32 × Bool × Bool) := (none, none)
  slots : Tbl FwSlot := []
  aoLog : List LogRec := []
  flashLog : List LogRec := []
  ringLevel : Nat := 3
  /-- the running attempt began with an M reset (R430) -/
  bootByM : Bool := false
  attempting : Bool := false
  /-- C at which the running attempt began, and an attempt has failed since the last completion (Table 18.5) -/
  attemptAt : Nat := 0
  failed : Bool := false
  /-- C at the last lockout of debug requests (R440) -/
  lockAt : Nat := 0
  /-- the management core has left reset and its boot attempt is still to start (R430) -/
  bootDue : Bool := true
  otpSvn : Nat := 0
  deviceKey : Bool := true
  lifeNext : Option Nat := none
  nonceUsed : Bool := true
  thermWarnArmed : Bool := true
  thermCritArmed : Bool := true
  therm : Tbl (BitVec 16) := []
  /-- PTP instances: profile, domainNumber, port mask, flags, three intervals (R275) -/
  ptp : Tbl (List Byte) := []
  /-- replies that wait for their mailbox: mailbox, CODE, words, and C at which each is dropped (R364) -/
  replies : List (Nat × Nat × List W32 × Nat) := []
  jtag : Nat := 1
  halted : Bool := false
  scan : Bool := false
  deriving DecidableEq, Repr, Inhabited

/-- Copy 1 of the boot record is in force. -/
def Mgmt.second (m : Mgmt) : Bool := match m.copies with
  | (some a, some b) => decide (a.1 < b.1)
  | (none, some _) => true
  | _ => false

/-- The boot record in force: of the valid copies, the one of the higher generation (R426). -/
def Mgmt.record (m : Mgmt) : Option (W32 × Bool × Bool) := if m.second then m.copies.2 else m.copies.1

/-- The strap balls: open balls rest on their pull-ups (R454). -/
structure Balls where
  twinId : Bool := true
  bootsel : BitVec 2 := 3
  deriving DecidableEq, Repr, Inhabited

/-- Memory: bytes at strictly rising addresses, none equal to zero, what an unlisted byte reads as. -/
abbrev Memory := List Host.Cell

structure State where
  pending : List Instr := []
  /-- BAR0 words that differ from their reset value, by offset -/
  regs : Tbl W32 := []
  /-- read latches (the latched high half) and held low halves of register pairs: key 2·(offset of _LO) + agent (R4); an
  absent latch holds the reset value's high half, an absent hold is no held write -/
  latch : Tbl W32 := []
  hold : Tbl (Option W32) := []
  /-- what the last register or JTAG read returned -/
  readData : W32 := 0
  /-- the internal 40-bit map (Table 15.3), and host memory -/
  mem : Memory := []
  hostMem : Memory := []
  cores : Tbl Core := []
  clusters : Tbl Cluster := []
  ember : Ember := {}
  sch : Sch := {}
  mix : Mix := {}
  ports : Tbl Port := []
  asrc : Tbl Asrc := []
  chains : Tbl Chain := []
  flues : Tbl Flue := []
  groups : Tbl FlueGroup := []
  rx : Tbl Stream := []
  tx : Tbl Stream := []
  nets : Tbl Net := []
  convoy : Convoy := {}
  tmb : Tmb := {}
  ref : Ref := {}
  twin : Twin := {}
  hif : Hif := {}
  mail : Mail := {}
  mtx : Mtx := {}
  flt : Flt := {}
  pwr : Pwr := {}
  mgmt : Mgmt := {}
  balls : Balls := {}
  /-- the model's own field: how many free values have been drawn (Config.free…) -/
  drawn : Nat := 0
  deriving DecidableEq, Repr, Inhabited

/-- Nothing in the spec stops the part with a fault of the model's kind: every error it describes is
an error response, an exception state or an event record, and is modelled as such. -/
inductive Fault where
  /-- Raised by no meaning. -/
  | none
  deriving DecidableEq, Repr

inductive Refusal where
  /-- A command the model has not reached; raised by no meaning. Safe. -/
  | notModelled (mnemonic : String)
  /-- Raised by a meaning for a command whose operands name a unit, index or length the hardware does not
  have (WellFormed.lean): no such command exists. Safe. -/
  | illFormed
  deriving DecidableEq, Repr

/-- The machine right after reset (power-on): every register at its Reset column, the cold reset still
asserted with its sources released, memories listing nothing. -/
def State.reset : State := {}

end Sys2Proof.Machine
end

