-- ==== Sys2Proof/Machine/RegTable.lean ====
section
/-! DEFINITION. Machine/RegTable.lean: the register tables of the manual (R1): each register's BAR0 offset, its
fields with access code, reset value and kept-by letters, as chapters 01 to 18 give them. A register that stands
in a pair _LO/_HI (R4) is named by its _LO offset; its _HI word lies at + 4. -/

namespace Sys2Proof.Machine

/-- Access codes (R5, Table 0.3). -/
inductive Acc where
  | rw | ro | wo | w1c | w1s | rc
  deriving DecidableEq, Repr

/-- Which half of a register pair a word is (R4). -/
inductive Half where
  | no | lo | hi
  deriving DecidableEq, Repr

/-- A field of a register: its low bit, width, access code, reset value and the reset letters that keep it
(W 8, E 4, U 2, M 1; R7). -/
structure FieldDef where
  lo : Nat
  w : Nat
  acc : Acc
  reset : Nat
  kept : Nat
  deriving DecidableEq, Repr

/-- A register or an array of registers: base offset and, per index, its stride and count. -/
structure RegDef where
  base : Nat
  dims : List (Nat × Nat)
  half : Half
  fields : List FieldDef
  deriving DecidableEq, Repr

/-- A field of one register: offset, low bit and width. -/
structure Fd where
  off : Nat
  lo : Nat
  w : Nat
  deriving DecidableEq, Repr

/-- Table 1.6. -/
def SCH_FAMILY_CFG : Nat := 0x170000
def SCH_FAMILY_CFG_FAMILY : Fd := ⟨SCH_FAMILY_CFG, 0, 1⟩
/-- Table 1.7. -/
def SCH_TICK_CFG : Nat := 0x170004
def SCH_TICK_CFG_TICK_LEN : Fd := ⟨SCH_TICK_CFG, 0, 2⟩
/-- Table 1.8. -/
def SCH_CTRL : Nat := 0x170008
def SCH_CTRL_RUN : Fd := ⟨SCH_CTRL, 0, 1⟩
def SCH_CTRL_FREE_START : Fd := ⟨SCH_CTRL, 1, 1⟩
/-- Table 1.9. -/
def SCH_STATUS : Nat := 0x17000C
def SCH_STATUS_N_VALID : Fd := ⟨SCH_STATUS, 0, 1⟩
def SCH_STATUS_ENGINE_RUN : Fd := ⟨SCH_STATUS, 1, 1⟩
def SCH_STATUS_FAMILY_ACT : Fd := ⟨SCH_STATUS, 2, 1⟩
def SCH_STATUS_TICK_ACT : Fd := ⟨SCH_STATUS, 3, 2⟩
def SCH_STATUS_TICK_CHG_PEND : Fd := ⟨SCH_STATUS, 5, 1⟩
def SCH_STATUS_PEND_CMDS : Fd := ⟨SCH_STATUS, 16, 13⟩
/-- Table 1.10. -/
def SCH_N : Nat := 0x170010
/-- Table 1.10. -/
def SCH_K : Nat := 0x170018
/-- Table 1.10. -/
def SCH_SEAM_N : Nat := 0x170020
/-- Table 1.10. -/
def SCH_LATE_CNT : Nat := 0x170028
/-- Table 1.11. -/
def SCH_SLOT_CFG (s : Nat) : Nat := 0x178000 + 0x4 * s
def SCH_SLOT_CFG_DOMAIN (s : Nat) : Fd := ⟨SCH_SLOT_CFG s, 0, 2⟩
def SCH_SLOT_CFG_EN (s : Nat) : Fd := ⟨SCH_SLOT_CFG s, 2, 1⟩
def SCH_SLOT_CFG_DATA (s : Nat) : Fd := ⟨SCH_SLOT_CFG s, 3, 1⟩
def SCH_SLOT_CFG_PRODUCER (s : Nat) : Fd := ⟨SCH_SLOT_CFG s, 16, 12⟩
/-- Table 2.13. -/
def HRT_CL_STATUS (c : Nat) : Nat := 0x200000 + 0x10000 * c
def HRT_CL_STATUS_PWR (c : Nat) : Fd := ⟨HRT_CL_STATUS c, 0, 1⟩
def HRT_CL_STATUS_MEM_INIT (c : Nat) : Fd := ⟨HRT_CL_STATUS c, 1, 1⟩
def HRT_CL_STATUS_FAULTED (c : Nat) : Fd := ⟨HRT_CL_STATUS c, 8, 8⟩
def HRT_CL_STATUS_HALTED (c : Nat) : Fd := ⟨HRT_CL_STATUS c, 16, 8⟩
/-- Table 2.14. -/
def HRT_CORE_CTRL (c : Nat) (j : Nat) : Nat := 0x201000 + 0x10000 * c + 0x100 * j
def HRT_CORE_CTRL_HALT (c : Nat) (j : Nat) : Fd := ⟨HRT_CORE_CTRL c j, 0, 1⟩
def HRT_CORE_CTRL_RESUME (c : Nat) (j : Nat) : Fd := ⟨HRT_CORE_CTRL c j, 1, 1⟩
def HRT_CORE_CTRL_STEP (c : Nat) (j : Nat) : Fd := ⟨HRT_CORE_CTRL c j, 2, 1⟩
def HRT_CORE_CTRL_HALT_ON_EXC (c : Nat) (j : Nat) : Fd := ⟨HRT_CORE_CTRL c j, 3, 1⟩
def HRT_CORE_CTRL_BRK_HALT (c : Nat) (j : Nat) : Fd := ⟨HRT_CORE_CTRL c j, 4, 1⟩
/-- Table 2.15. -/
def HRT_CORE_STATUS (c : Nat) (j : Nat) : Nat := 0x201004 + 0x10000 * c + 0x100 * j
def HRT_CORE_STATUS_STATE (c : Nat) (j : Nat) : Fd := ⟨HRT_CORE_STATUS c j, 0, 3⟩
def HRT_CORE_STATUS_STALLED (c : Nat) (j : Nat) : Fd := ⟨HRT_CORE_STATUS c j, 3, 1⟩
def HRT_CORE_STATUS_HALT_REFUSED (c : Nat) (j : Nat) : Fd := ⟨HRT_CORE_STATUS c j, 4, 1⟩
def HRT_CORE_STATUS_SAT_SEEN (c : Nat) (j : Nat) : Fd := ⟨HRT_CORE_STATUS c j, 5, 1⟩
def HRT_CORE_STATUS_AOV_SEEN (c : Nat) (j : Nat) : Fd := ⟨HRT_CORE_STATUS c j, 6, 1⟩
def HRT_CORE_STATUS_EXC_SEEN (c : Nat) (j : Nat) : Fd := ⟨HRT_CORE_STATUS c j, 7, 1⟩
def HRT_CORE_STATUS_EXC_COUNT (c : Nat) (j : Nat) : Fd := ⟨HRT_CORE_STATUS c j, 16, 16⟩
/-- Table 2.16. -/
def HRT_CORE_EXC (c : Nat) (j : Nat) : Nat := 0x201008 + 0x10000 * c + 0x100 * j
def HRT_CORE_EXC_CODE (c : Nat) (j : Nat) : Fd := ⟨HRT_CORE_EXC c j, 0, 4⟩
def HRT_CORE_EXC_SLOTS (c : Nat) (j : Nat) : Fd := ⟨HRT_CORE_EXC c j, 4, 4⟩
def HRT_CORE_EXC_BADDR (c : Nat) (j : Nat) : Fd := ⟨HRT_CORE_EXC c j, 16, 12⟩
/-- Table 2.16. -/
def HRT_CORE_EXC_ADDR (c : Nat) (j : Nat) : Nat := 0x20100C + 0x10000 * c + 0x100 * j
def HRT_CORE_EXC_ADDR_DADDR (c : Nat) (j : Nat) : Fd := ⟨HRT_CORE_EXC_ADDR c j, 0, 18⟩
def HRT_CORE_EXC_ADDR_BUSSEL (c : Nat) (j : Nat) : Fd := ⟨HRT_CORE_EXC_ADDR c j, 18, 1⟩
def HRT_CORE_EXC_ADDR_VALID (c : Nat) (j : Nat) : Fd := ⟨HRT_CORE_EXC_ADDR c j, 19, 1⟩
/-- Table 2.17. -/
def HRT_CORE_PC (c : Nat) (j : Nat) : Nat := 0x201010 + 0x10000 * c + 0x100 * j
def HRT_CORE_PC_PC (c : Nat) (j : Nat) : Fd := ⟨HRT_CORE_PC c j, 0, 12⟩
def HRT_CORE_PC_PC_VALID (c : Nat) (j : Nat) : Fd := ⟨HRT_CORE_PC c j, 31, 1⟩
/-- Table 2.17. -/
def HRT_CORE_ISSUE (c : Nat) (j : Nat) : Nat := 0x201014 + 0x10000 * c + 0x100 * j
/-- Table 2.17. -/
def HRT_CORE_STALL (c : Nat) (j : Nat) : Nat := 0x201018 + 0x10000 * c + 0x100 * j
/-- Table 4.6. -/
def HRT_IMG_STATE (c : Nat) : Nat := 0x202000 + 0x10000 * c
def HRT_IMG_STATE_STATE (c : Nat) : Fd := ⟨HRT_IMG_STATE c, 0, 3⟩
def HRT_IMG_STATE_LH (c : Nat) : Fd := ⟨HRT_IMG_STATE c, 8, 5⟩
def HRT_IMG_STATE_T_MASK (c : Nat) : Fd := ⟨HRT_IMG_STATE c, 16, 4⟩
def HRT_IMG_STATE_REJECT (c : Nat) : Fd := ⟨HRT_IMG_STATE c, 24, 4⟩
/-- Table 4.7. -/
def HRT_IMG_ID (c : Nat) : Nat := 0x202004 + 0x10000 * c
/-- Table 4.7. -/
def HRT_TASK_STAT (c : Nat) (j : Nat) : Nat := 0x202100 + 0x10000 * c + 0x4 * j
def HRT_TASK_STAT_OVERRUN (c : Nat) (j : Nat) : Fd := ⟨HRT_TASK_STAT c j, 0, 10⟩
def HRT_TASK_STAT_STOPPED (c : Nat) (j : Nat) : Fd := ⟨HRT_TASK_STAT c j, 10, 10⟩
def HRT_TASK_STAT_MISSED (c : Nat) (j : Nat) : Fd := ⟨HRT_TASK_STAT c j, 20, 10⟩
/-- Table 5.9. -/
def MIX_STATUS : Nat := 0x160000
def MIX_STATUS_BANK : Fd := ⟨MIX_STATUS, 0, 1⟩
def MIX_STATUS_SWAP_PEND : Fd := ⟨MIX_STATUS, 1, 1⟩
def MIX_STATUS_VALIDATING : Fd := ⟨MIX_STATUS, 2, 1⟩
def MIX_STATUS_REJECT : Fd := ⟨MIX_STATUS, 4, 4⟩
/-- Table 5.10. -/
def MIX_PATCH_CFG : Nat := 0x160004
def MIX_PATCH_CFG_EN : Fd := ⟨MIX_PATCH_CFG, 0, 1⟩
def MIX_PATCH_CFG_LEN : Fd := ⟨MIX_PATCH_CFG, 1, 3⟩
/-- Table 5.11. -/
def MIX_XP_LOAD : Nat := 0x160008
def MIX_XP_LOAD_XP_W2 : Fd := ⟨MIX_XP_LOAD, 0, 20⟩
/-- Table 5.11. -/
def MIX_EQ_LOAD : Nat := 0x16000C
def MIX_EQ_LOAD_EQ_W2 : Fd := ⟨MIX_EQ_LOAD, 0, 15⟩
/-- Table 5.11. -/
def MIX_RAMP_USE : Nat := 0x160010
def MIX_RAMP_USE_CUR : Fd := ⟨MIX_RAMP_USE, 0, 15⟩
def MIX_RAMP_USE_PEAK : Fd := ⟨MIX_RAMP_USE, 16, 15⟩
def MIX_RAMP_USE_PEAK_CLR : Fd := ⟨MIX_RAMP_USE, 31, 1⟩
/-- Table 5.12. -/
def MIX_RAMP_OVF : Nat := 0x160014
/-- Table 5.12. -/
def MIX_SAT_CNT : Nat := 0x160018
/-- Table 5.12. -/
def MIX_AOV_CNT : Nat := 0x16001C
/-- Table 5.12. -/
def MIX_SKIP_CNT : Nat := 0x160020
/-- Table 5.12. -/
def MIX_PATCH_SHORT : Nat := 0x160024
/-- Table 5.12. -/
def MIX_SWAP_N : Nat := 0x160028
/-- Table 6.9. -/
def PRT_MODE (p : Nat) : Nat := 0x100000 + 0x1000 * p
def PRT_MODE_MODE (p : Nat) : Fd := ⟨PRT_MODE p, 0, 3⟩
def PRT_MODE_DRIVE (p : Nat) : Fd := ⟨PRT_MODE p, 3, 2⟩
def PRT_MODE_NA_EN (p : Nat) : Fd := ⟨PRT_MODE p, 5, 1⟩
/-- Table 6.9. -/
def PRT_LEADIN (p : Nat) : Nat := 0x10000C + 0x1000 * p
def PRT_LEADIN_LEADIN (p : Nat) : Fd := ⟨PRT_LEADIN p, 0, 16⟩
/-- Table 6.10. -/
def PRT_CLK_CFG (p : Nat) : Nat := 0x100004 + 0x1000 * p
def PRT_CLK_CFG_MASTER (p : Nat) : Fd := ⟨PRT_CLK_CFG p, 0, 1⟩
def PRT_CLK_CFG_BCLK_DIV (p : Nat) : Fd := ⟨PRT_CLK_CFG p, 1, 12⟩
def PRT_CLK_CFG_BPF_M1 (p : Nat) : Fd := ⟨PRT_CLK_CFG p, 13, 10⟩
def PRT_CLK_CFG_MCLK_DIV (p : Nat) : Fd := ⟨PRT_CLK_CFG p, 23, 2⟩
def PRT_CLK_CFG_TX_SRC (p : Nat) : Fd := ⟨PRT_CLK_CFG p, 25, 1⟩
/-- Table 6.11. -/
def PRT_TDM_CFG (p : Nat) : Nat := 0x100008 + 0x1000 * p
def PRT_TDM_CFG_FMT (p : Nat) : Fd := ⟨PRT_TDM_CFG p, 0, 2⟩
def PRT_TDM_CFG_FS_DELAY (p : Nat) : Fd := ⟨PRT_TDM_CFG p, 2, 1⟩
def PRT_TDM_CFG_BCLK_INV (p : Nat) : Fd := ⟨PRT_TDM_CFG p, 3, 1⟩
def PRT_TDM_CFG_FS_INV (p : Nat) : Fd := ⟨PRT_TDM_CFG p, 4, 1⟩
def PRT_TDM_CFG_SLOTS_M1 (p : Nat) : Fd := ⟨PRT_TDM_CFG p, 5, 5⟩
def PRT_TDM_CFG_SW (p : Nat) : Fd := ⟨PRT_TDM_CFG p, 10, 2⟩
def PRT_TDM_CFG_DW (p : Nat) : Fd := ⟨PRT_TDM_CFG p, 12, 2⟩
def PRT_TDM_CFG_LANE_DIR (p : Nat) : Fd := ⟨PRT_TDM_CFG p, 14, 4⟩
def PRT_TDM_CFG_LANE_INV (p : Nat) : Fd := ⟨PRT_TDM_CFG p, 18, 4⟩
/-- Table 6.12. -/
def PRT_STATUS (p : Nat) : Nat := 0x100010 + 0x1000 * p
def PRT_STATUS_STATE (p : Nat) : Fd := ⟨PRT_STATUS p, 0, 3⟩
def PRT_STATUS_CLK_OK (p : Nat) : Fd := ⟨PRT_STATUS p, 3, 1⟩
def PRT_STATUS_REJECT (p : Nat) : Fd := ⟨PRT_STATUS p, 4, 4⟩
def PRT_STATUS_RATE_ERR (p : Nat) : Fd := ⟨PRT_STATUS p, 8, 1⟩
/-- Table 6.12. -/
def PRT_RATE (p : Nat) : Nat := 0x100014 + 0x1000 * p
/-- Table 6.12. -/
def PRT_AES_STATUS (p : Nat) : Nat := 0x100018 + 0x1000 * p
def PRT_AES_STATUS_GRADE (p : Nat) : Fd := ⟨PRT_AES_STATUS p, 0, 2⟩
def PRT_AES_STATUS_PRO (p : Nat) : Fd := ⟨PRT_AES_STATUS p, 2, 1⟩
def PRT_AES_STATUS_NONAUDIO (p : Nat) : Fd := ⟨PRT_AES_STATUS p, 3, 2⟩
def PRT_AES_STATUS_VALID (p : Nat) : Fd := ⟨PRT_AES_STATUS p, 5, 2⟩
def PRT_AES_STATUS_CS_OK (p : Nat) : Fd := ⟨PRT_AES_STATUS p, 7, 1⟩
/-- Table 6.13. -/
def PRT_CNT0 (p : Nat) : Nat := 0x100020 + 0x1000 * p
def PRT_CNT0_GLITCH (p : Nat) : Fd := ⟨PRT_CNT0 p, 0, 16⟩
def PRT_CNT0_LOST (p : Nat) : Fd := ⟨PRT_CNT0 p, 16, 16⟩
/-- Table 6.13. -/
def PRT_CNT1 (p : Nat) : Nat := 0x100024 + 0x1000 * p
def PRT_CNT1_SLIP (p : Nat) : Fd := ⟨PRT_CNT1 p, 0, 16⟩
def PRT_CNT1_AES_ERR (p : Nat) : Fd := ⟨PRT_CNT1 p, 16, 16⟩
/-- Table 6.13. -/
def PRT_CNT2 (p : Nat) : Nat := 0x100028 + 0x1000 * p
def PRT_CNT2_SKIP (p : Nat) : Fd := ⟨PRT_CNT2 p, 0, 16⟩
def PRT_CNT2_CLIP (p : Nat) : Fd := ⟨PRT_CNT2 p, 16, 16⟩
/-- Table 6.13. -/
def PRT_NA_MUTED (p : Nat) (m : Nat) : Nat := 0x100030 + 0x1000 * p + 0x4 * m
/-- Table 6.13. -/
def PRT_CS_RX (p : Nat) (x : Nat) (i : Nat) : Nat := 0x100100 + 0x1000 * p + 0x20 * x + 0x4 * i
/-- Table 6.13. -/
def PRT_CS_TX (p : Nat) (x : Nat) (i : Nat) : Nat := 0x100140 + 0x1000 * p + 0x20 * x + 0x4 * i
/-- Table 6.14. -/
def PRT_CH_MAP (p : Nat) (c : Nat) : Nat := 0x100400 + 0x1000 * p + 0x4 * c
def PRT_CH_MAP_SLOT (p : Nat) (c : Nat) : Fd := ⟨PRT_CH_MAP p c, 0, 13⟩
def PRT_CH_MAP_EN (p : Nat) (c : Nat) : Fd := ⟨PRT_CH_MAP p c, 13, 1⟩
def PRT_CH_MAP_PATH (p : Nat) (c : Nat) : Fd := ⟨PRT_CH_MAP p c, 14, 2⟩
def PRT_CH_MAP_IDX (p : Nat) (c : Nat) : Fd := ⟨PRT_CH_MAP p c, 16, 9⟩
def PRT_CH_MAP_DATA (p : Nat) (c : Nat) : Fd := ⟨PRT_CH_MAP p c, 25, 1⟩
/-- Table 6.15. -/
def ASR_CH_CFG (a : Nat) : Nat := 0x150000 + 0x4 * a
def ASR_CH_CFG_DOM (a : Nat) : Fd := ⟨ASR_CH_CFG a, 0, 2⟩
def ASR_CH_CFG_MUTE_LEN (a : Nat) : Fd := ⟨ASR_CH_CFG a, 16, 16⟩
/-- Table 6.15. -/
def ASR_CH_STATUS (a : Nat) : Nat := 0x150800 + 0x4 * a
def ASR_CH_STATUS_STATE (a : Nat) : Fd := ⟨ASR_CH_STATUS a, 0, 3⟩
def ASR_CH_STATUS_ACQ_FAIL (a : Nat) : Fd := ⟨ASR_CH_STATUS a, 3, 1⟩
def ASR_CH_STATUS_TRACK_ERR (a : Nat) : Fd := ⟨ASR_CH_STATUS a, 4, 1⟩
/-- Table 6.15. -/
def ASR_GRP_CFG (p : Nat) : Nat := 0x151000 + 0x4 * p
def ASR_GRP_CFG_BW (p : Nat) : Fd := ⟨ASR_GRP_CFG p, 0, 6⟩
/-- Table 6.15. -/
def ASR_GRP_RATIO (p : Nat) : Nat := 0x151100 + 0x4 * p
/-- Table 7.6. -/
def DEC_CH_CFG (c : Nat) : Nat := 0x140000 + 0x4 * c
def DEC_CH_CFG_SLOT (c : Nat) : Fd := ⟨DEC_CH_CFG c, 0, 13⟩
def DEC_CH_CFG_DOM (c : Nat) : Fd := ⟨DEC_CH_CFG c, 13, 2⟩
def DEC_CH_CFG_TAP (c : Nat) : Fd := ⟨DEC_CH_CFG c, 15, 4⟩
def DEC_CH_CFG_RESP (c : Nat) : Fd := ⟨DEC_CH_CFG c, 19, 1⟩
def DEC_CH_CFG_DC_EN (c : Nat) : Fd := ⟨DEC_CH_CFG c, 20, 1⟩
def DEC_CH_CFG_DC_K (c : Nat) : Fd := ⟨DEC_CH_CFG c, 21, 5⟩
def DEC_CH_CFG_FREEZE (c : Nat) : Fd := ⟨DEC_CH_CFG c, 26, 1⟩
def DEC_CH_CFG_FLAG (c : Nat) : Fd := ⟨DEC_CH_CFG c, 27, 1⟩
def DEC_CH_CFG_SHIFT (c : Nat) : Fd := ⟨DEC_CH_CFG c, 28, 2⟩
/-- Table 7.7. -/
def DEC_CH_STATUS (c : Nat) : Nat := 0x140400 + 0x4 * c
def DEC_CH_STATUS_RUN (c : Nat) : Fd := ⟨DEC_CH_STATUS c, 0, 1⟩
def DEC_CH_STATUS_UNSETTLED (c : Nat) : Fd := ⟨DEC_CH_STATUS c, 1, 1⟩
def DEC_CH_STATUS_FROZEN (c : Nat) : Fd := ⟨DEC_CH_STATUS c, 2, 1⟩
def DEC_CH_STATUS_RSVD (c : Nat) : Fd := ⟨DEC_CH_STATUS c, 3, 1⟩
def DEC_CH_STATUS_REMAIN (c : Nat) : Fd := ⟨DEC_CH_STATUS c, 9, 23⟩
/-- Table 7.7. -/
def DEC_CH_DC (c : Nat) : Nat := 0x140800 + 0x4 * c
/-- Table 7.7. -/
def DEC_CNT (c : Nat) : Nat := 0x140C00 + 0x4 * c
def DEC_CNT_CLIP (c : Nat) : Fd := ⟨DEC_CNT c, 0, 16⟩
def DEC_CNT_TRIG (c : Nat) : Fd := ⟨DEC_CNT c, 16, 16⟩
/-- Table 8.9. -/
def FL_CFG (p : Nat) : Nat := 0x100800 + 0x1000 * p
def FL_CFG_PER (p : Nat) : Fd := ⟨FL_CFG p, 0, 2⟩
def FL_CFG_DT (p : Nat) : Fd := ⟨FL_CFG p, 2, 8⟩
def FL_CFG_RAMP (p : Nat) : Fd := ⟨FL_CFG p, 10, 8⟩
def FL_CFG_TRIP_POL (p : Nat) : Fd := ⟨FL_CFG p, 18, 1⟩
def FL_CFG_TRIP_FILT (p : Nat) : Fd := ⟨FL_CFG p, 19, 4⟩
def FL_CFG_BLANK (p : Nat) : Fd := ⟨FL_CFG p, 23, 8⟩
def FL_CFG_CLAMP_HOLD (p : Nat) : Fd := ⟨FL_CFG p, 31, 1⟩
/-- Table 8.10. -/
def FL_LIMIT (p : Nat) : Nat := 0x100804 + 0x1000 * p
def FL_LIMIT_MOD_MAX (p : Nat) : Fd := ⟨FL_LIMIT p, 0, 16⟩
def FL_LIMIT_DC_THR (p : Nat) : Fd := ⟨FL_LIMIT p, 16, 16⟩
/-- Table 8.10. -/
def FL_PROT (p : Nat) : Nat := 0x100808 + 0x1000 * p
def FL_PROT_T1 (p : Nat) : Fd := ⟨FL_PROT p, 0, 7⟩
def FL_PROT_RETRY_M1 (p : Nat) : Fd := ⟨FL_PROT p, 7, 5⟩
def FL_PROT_N_RETRY (p : Nat) : Fd := ⟨FL_PROT p, 12, 4⟩
def FL_PROT_DC_TIME (p : Nat) : Fd := ⟨FL_PROT p, 16, 8⟩
def FL_PROT_DC_EN (p : Nat) : Fd := ⟨FL_PROT p, 24, 1⟩
/-- Table 8.10. -/
def FL_SLOT (p : Nat) : Nat := 0x10080C + 0x1000 * p
def FL_SLOT_REF_SLOT (p : Nat) : Fd := ⟨FL_SLOT p, 0, 13⟩
def FL_SLOT_MON_V_SLOT (p : Nat) : Fd := ⟨FL_SLOT p, 16, 13⟩
def FL_SLOT_MON_EN (p : Nat) : Fd := ⟨FL_SLOT p, 29, 1⟩
/-- Table 8.10. -/
def FL_MON_I (p : Nat) : Nat := 0x100810 + 0x1000 * p
def FL_MON_I_MON_I_SLOT (p : Nat) : Fd := ⟨FL_MON_I p, 0, 13⟩
/-- Table 8.11. -/
def FL_GV (p : Nat) : Nat := 0x100814 + 0x1000 * p
/-- Table 8.11. -/
def FL_FF (p : Nat) : Nat := 0x100818 + 0x1000 * p
/-- Table 8.11. -/
def FL_COEF (p : Nat) (i : Nat) : Nat := 0x100820 + 0x1000 * p + 0x4 * i
/-- Table 8.12. -/
def FL_STATUS (p : Nat) : Nat := 0x100850 + 0x1000 * p
def FL_STATUS_STATE (p : Nat) : Fd := ⟨FL_STATUS p, 0, 3⟩
def FL_STATUS_CAUSE (p : Nat) : Fd := ⟨FL_STATUS p, 3, 4⟩
def FL_STATUS_CLIPPING (p : Nat) : Fd := ⟨FL_STATUS p, 7, 1⟩
def FL_STATUS_LIMITING (p : Nat) : Fd := ⟨FL_STATUS p, 8, 1⟩
def FL_STATUS_RETRIES (p : Nat) : Fd := ⟨FL_STATUS p, 9, 4⟩
def FL_STATUS_TRIP_RATE (p : Nat) : Fd := ⟨FL_STATUS p, 13, 7⟩
def FL_STATUS_REJECT (p : Nat) : Fd := ⟨FL_STATUS p, 20, 4⟩
/-- Table 8.13. -/
def FL_TRIP_CNT (p : Nat) : Nat := 0x100854 + 0x1000 * p
/-- Table 8.13. -/
def FL_EVT_CNT (p : Nat) : Nat := 0x100858 + 0x1000 * p
def FL_EVT_CNT_SHUT (p : Nat) : Fd := ⟨FL_EVT_CNT p, 0, 16⟩
def FL_EVT_CNT_CLIP (p : Nat) : Fd := ⟨FL_EVT_CNT p, 16, 16⟩
/-- Table 8.13. -/
def FL_DC_MEAN (p : Nat) : Nat := 0x10085C + 0x1000 * p
/-- Table 8.14. -/
def FLU_GRP_CFG (g : Nat) : Nat := 0x130000 + 0x10 * g
def FLU_GRP_CFG_INFL (g : Nat) : Fd := ⟨FLU_GRP_CFG g, 0, 16⟩
def FLU_GRP_CFG_SLOPE (g : Nat) : Fd := ⟨FLU_GRP_CFG g, 16, 16⟩
/-- Table 8.14. -/
def FLU_GRP_DYN (g : Nat) : Nat := 0x130004 + 0x10 * g
def FLU_GRP_DYN_ATK (g : Nat) : Fd := ⟨FLU_GRP_DYN g, 0, 12⟩
def FLU_GRP_DYN_REL (g : Nat) : Fd := ⟨FLU_GRP_DYN g, 12, 12⟩
def FLU_GRP_DYN_HOLD (g : Nat) : Fd := ⟨FLU_GRP_DYN g, 24, 8⟩
/-- Table 8.14. -/
def FLU_GRP_RAIL (g : Nat) : Nat := 0x130008 + 0x10 * g
/-- Table 8.14. -/
def FLU_GRP_CEIL (g : Nat) : Nat := 0x13000C + 0x10 * g
/-- Table 9.9. -/
def NET_CFG (p : Nat) : Nat := 0x80000 + 0x10000 * p
def NET_CFG_MODE (p : Nat) : Fd := ⟨NET_CFG p, 0, 3⟩
def NET_CFG_FEC (p : Nat) : Fd := ⟨NET_CFG p, 3, 2⟩
def NET_CFG_AN (p : Nat) : Fd := ⟨NET_CFG p, 5, 1⟩
def NET_CFG_CONVOY (p : Nat) : Fd := ⟨NET_CFG p, 6, 1⟩
/-- Table 9.9. -/
def NET_STATUS (p : Nat) : Nat := 0x80004 + 0x10000 * p
def NET_STATUS_LINK (p : Nat) : Fd := ⟨NET_STATUS p, 0, 1⟩
def NET_STATUS_BLOCK_LOCK (p : Nat) : Fd := ⟨NET_STATUS p, 1, 1⟩
def NET_STATUS_FEC_LOCK (p : Nat) : Fd := ⟨NET_STATUS p, 2, 1⟩
def NET_STATUS_AN_DONE (p : Nat) : Fd := ⟨NET_STATUS p, 3, 1⟩
def NET_STATUS_LPI (p : Nat) : Fd := ⟨NET_STATUS p, 4, 2⟩
/-- Table 9.9. -/
def NET_MAC (p : Nat) : Nat := 0x80008 + 0x10000 * p
/-- Table 9.9. -/
def NET_MTU (p : Nat) : Nat := 0x80010 + 0x10000 * p
def NET_MTU_MAXLEN (p : Nat) : Fd := ⟨NET_MTU p, 0, 14⟩
/-- Table 9.9. -/
def NET_VLAN (p : Nat) : Nat := 0x80014 + 0x10000 * p
def NET_VLAN_PVID (p : Nat) : Fd := ⟨NET_VLAN p, 0, 12⟩
def NET_VLAN_UNTAG_OK (p : Nat) : Fd := ⟨NET_VLAN p, 12, 1⟩
/-- Table 9.9. -/
def NET_EEE (p : Nat) : Nat := 0x80018 + 0x10000 * p
def NET_EEE_EN (p : Nat) : Fd := ⟨NET_EEE p, 0, 1⟩
def NET_EEE_TW_SYS (p : Nat) : Fd := ⟨NET_EEE p, 16, 16⟩
/-- Table 9.9. -/
def NET_HALF_RX (p : Nat) (i : Nat) : Nat := 0x80020 + 0x10000 * p + 0x4 * i
/-- Table 9.9. -/
def NET_HALF_TX (p : Nat) (i : Nat) : Nat := 0x80028 + 0x10000 * p + 0x4 * i
/-- Table 9.9. -/
def NET_IPV4 (p : Nat) : Nat := 0x80030 + 0x10000 * p
/-- Table 9.9. -/
def NET_IPV6 (p : Nat) (m : Nat) : Nat := 0x80040 + 0x10000 * p + 0x4 * m
/-- Table 9.9. -/
def NET_STAT_RX (p : Nat) (i : Nat) : Nat := 0x81000 + 0x10000 * p + 0x8 * i
/-- Table 9.9. -/
def NET_STAT_TX (p : Nat) (i : Nat) : Nat := 0x81200 + 0x10000 * p + 0x8 * i
/-- Table 9.10. -/
def NET_POOL : Nat := 0x88000
def NET_POOL_USED : Fd := ⟨NET_POOL, 0, 22⟩
/-- Table 9.10. -/
def NET_CH_LOAD : Nat := 0x88004
def NET_CH_LOAD_RX_W2 : Fd := ⟨NET_CH_LOAD, 0, 14⟩
def NET_CH_LOAD_TX_W2 : Fd := ⟨NET_CH_LOAD, 16, 14⟩
/-- Table 9.10. -/
def NET_CV_CFG : Nat := 0x88010
def NET_CV_CFG_EN : Fd := ⟨NET_CV_CFG, 0, 1⟩
def NET_CV_CFG_MASTER : Fd := ⟨NET_CV_CFG, 1, 1⟩
def NET_CV_CFG_POS : Fd := ⟨NET_CV_CFG, 2, 5⟩
def NET_CV_CFG_NODES_M1 : Fd := ⟨NET_CV_CFG, 7, 5⟩
def NET_CV_CFG_RING_ID : Fd := ⟨NET_CV_CFG, 12, 8⟩
def NET_CV_CFG_RET_M1 : Fd := ⟨NET_CV_CFG, 20, 3⟩
def NET_CV_CFG_LAT : Fd := ⟨NET_CV_CFG, 23, 4⟩
def NET_CV_CFG_PHASE : Fd := ⟨NET_CV_CFG, 27, 5⟩
/-- Table 9.10. -/
def NET_CV_SIZE : Nat := 0x88014
def NET_CV_SIZE_C : Fd := ⟨NET_CV_SIZE, 0, 9⟩
/-- Table 9.10. -/
def NET_CV_STATUS : Nat := 0x88018
def NET_CV_STATUS_RING : Fd := ⟨NET_CV_STATUS, 0, 1⟩
def NET_CV_STATUS_HOPS : Fd := ⟨NET_CV_STATUS, 8, 8⟩
/-- Table 9.10. -/
def NET_CV_CNT : Nat := 0x8801C
def NET_CV_CNT_LATE : Fd := ⟨NET_CV_CNT, 0, 16⟩
def NET_CV_CNT_LOST : Fd := ⟨NET_CV_CNT, 16, 16⟩
/-- Table 10.4. -/
def TMB_CNT : Nat := 0x60000
/-- Table 10.4. -/
def TMB_SNAP : Nat := 0x60008
def TMB_SNAP_GO : Fd := ⟨TMB_SNAP, 0, 1⟩
/-- Table 10.4. -/
def TMB_SNAP_CNT : Nat := 0x60010
/-- Table 10.4. -/
def TMB_DOM_CTRL (x : Nat) : Nat := 0x60100 + 0x40 * x
def TMB_DOM_CTRL_OWNER (x : Nat) : Fd := ⟨TMB_DOM_CTRL x, 0, 1⟩
def TMB_DOM_CTRL_APPLY (x : Nat) : Fd := ⟨TMB_DOM_CTRL x, 1, 1⟩
def TMB_DOM_CTRL_USE_RATE (x : Nat) : Fd := ⟨TMB_DOM_CTRL x, 2, 1⟩
def TMB_DOM_CTRL_USE_ADJ (x : Nat) : Fd := ⟨TMB_DOM_CTRL x, 3, 1⟩
def TMB_DOM_CTRL_USE_SET (x : Nat) : Fd := ⟨TMB_DOM_CTRL x, 4, 1⟩
def TMB_DOM_CTRL_CANCEL (x : Nat) : Fd := ⟨TMB_DOM_CTRL x, 5, 1⟩
def TMB_DOM_CTRL_VALID (x : Nat) : Fd := ⟨TMB_DOM_CTRL x, 8, 1⟩
/-- Table 10.4. -/
def TMB_DOM_STATUS (x : Nat) : Nat := 0x60104 + 0x40 * x
def TMB_DOM_STATUS_PEND (x : Nat) : Fd := ⟨TMB_DOM_STATUS x, 0, 1⟩
def TMB_DOM_STATUS_RATE_CLIP (x : Nat) : Fd := ⟨TMB_DOM_STATUS x, 1, 1⟩
def TMB_DOM_STATUS_REFUSED (x : Nat) : Fd := ⟨TMB_DOM_STATUS x, 2, 1⟩
def TMB_DOM_STATUS_REPLACED (x : Nat) : Fd := ⟨TMB_DOM_STATUS x, 3, 1⟩
/-- Table 10.4. -/
def TMB_DOM_RATE (x : Nat) : Nat := 0x60108 + 0x40 * x
/-- Table 10.4. -/
def TMB_DOM_ADJ (x : Nat) : Nat := 0x60110 + 0x40 * x
/-- Table 10.4. -/
def TMB_DOM_APPLY_AT (x : Nat) : Nat := 0x60128 + 0x40 * x
/-- Table 10.4. -/
def TMB_MEDIA_STATUS : Nat := 0x60200
def TMB_MEDIA_STATUS_ANCHOR : Fd := ⟨TMB_MEDIA_STATUS, 0, 2⟩
def TMB_MEDIA_STATUS_SLEWING : Fd := ⟨TMB_MEDIA_STATUS, 2, 1⟩
def TMB_MEDIA_STATUS_DELTA_ERR : Fd := ⟨TMB_MEDIA_STATUS, 3, 1⟩
def TMB_MEDIA_STATUS_SW_REFUSED : Fd := ⟨TMB_MEDIA_STATUS, 4, 1⟩
/-- Table 10.4. -/
def TMB_MEDIA_BETA : Nat := 0x60208
/-- Table 10.4. -/
def TMB_SLEW_CFG : Nat := 0x60210
def TMB_SLEW_CFG_SLEW_S : Fd := ⟨TMB_SLEW_CFG, 0, 12⟩
def TMB_SLEW_CFG_MAX_PPB : Fd := ⟨TMB_SLEW_CFG, 16, 16⟩
/-- Table 10.4. -/
def TMB_MAX_DELTA : Nat := 0x60214
def TMB_MAX_DELTA_MAX_DELTA : Fd := ⟨TMB_MAX_DELTA, 0, 20⟩
/-- Table 10.4. -/
def TMB_PPS_OUT_CFG : Nat := 0x60300
def TMB_PPS_OUT_CFG_EN : Fd := ⟨TMB_PPS_OUT_CFG, 0, 1⟩
def TMB_PPS_OUT_CFG_SRC : Fd := ⟨TMB_PPS_OUT_CFG, 1, 2⟩
def TMB_PPS_OUT_CFG_POL : Fd := ⟨TMB_PPS_OUT_CFG, 3, 1⟩
def TMB_PPS_OUT_CFG_WIDTH : Fd := ⟨TMB_PPS_OUT_CFG, 4, 10⟩
/-- Table 10.4. -/
def TMB_PPS_OUT_OFS : Nat := 0x60304
/-- Table 10.4. -/
def TMB_PPS_IN_CFG : Nat := 0x60310
def TMB_PPS_IN_CFG_EN : Fd := ⟨TMB_PPS_IN_CFG, 0, 1⟩
def TMB_PPS_IN_CFG_POL : Fd := ⟨TMB_PPS_IN_CFG, 1, 1⟩
def TMB_PPS_IN_CFG_FILT : Fd := ⟨TMB_PPS_IN_CFG, 2, 10⟩
/-- Table 10.4. -/
def TMB_PPS_IN_STATUS : Nat := 0x60314
def TMB_PPS_IN_STATUS_NEW : Fd := ⟨TMB_PPS_IN_STATUS, 0, 1⟩
def TMB_PPS_IN_STATUS_IGN : Fd := ⟨TMB_PPS_IN_STATUS, 16, 16⟩
/-- Table 10.4. -/
def TMB_PPS_IN_CNT : Nat := 0x60318
/-- Table 10.4. -/
def NET_TS_TX_LAT (p : Nat) : Nat := 0x80100 + 0x10000 * p
/-- Table 10.4. -/
def NET_TS_RX_LAT (p : Nat) : Nat := 0x80104 + 0x10000 * p
/-- Table 10.4. -/
def NET_TS_ASYM (p : Nat) : Nat := 0x80108 + 0x10000 * p
/-- Table 10.4. -/
def NET_TS_QSTAT (p : Nat) : Nat := 0x8010C + 0x10000 * p
def NET_TS_QSTAT_QDROP (p : Nat) : Fd := ⟨NET_TS_QSTAT p, 0, 16⟩
/-- Table 11.8. -/
def REF_CTRL : Nat := 0x50000
def REF_CTRL_OPEN : Fd := ⟨REF_CTRL, 0, 1⟩
def REF_CTRL_HIST_CLR : Fd := ⟨REF_CTRL, 1, 1⟩
def REF_CTRL_SUSP_CLR : Fd := ⟨REF_CTRL, 2, 1⟩
def REF_CTRL_FORCE_EN : Fd := ⟨REF_CTRL, 3, 1⟩
def REF_CTRL_FORCE : Fd := ⟨REF_CTRL, 4, 4⟩
/-- Table 11.8. -/
def REF_STATUS : Nat := 0x50004
def REF_STATUS_SEL : Fd := ⟨REF_STATUS, 0, 4⟩
def REF_STATUS_LOOP : Fd := ⟨REF_STATUS, 4, 3⟩
def REF_STATUS_SWITCHING : Fd := ⟨REF_STATUS, 7, 1⟩
def REF_STATUS_HIST_OK : Fd := ⟨REF_STATUS, 8, 1⟩
def REF_STATUS_HYBRID : Fd := ⟨REF_STATUS, 9, 1⟩
def REF_STATUS_LOCK_ERR : Fd := ⟨REF_STATUS, 10, 1⟩
def REF_STATUS_HIST_S : Fd := ⟨REF_STATUS, 16, 10⟩
/-- Table 11.8. -/
def REF_SW_CFG : Nat := 0x50008
def REF_SW_CFG_WTR_S : Fd := ⟨REF_SW_CFG, 0, 10⟩
def REF_SW_CFG_SW_SLEW_S : Fd := ⟨REF_SW_CFG, 10, 10⟩
def REF_SW_CFG_SW_MAX_PPB : Fd := ⟨REF_SW_CFG, 20, 12⟩
/-- Table 11.8. -/
def REF_DISP_CFG : Nat := 0x5000C
def REF_DISP_CFG_DISP_PPB : Fd := ⟨REF_DISP_CFG, 0, 16⟩
def REF_DISP_CFG_DISP_S : Fd := ⟨REF_DISP_CFG, 16, 8⟩
/-- Table 11.8. -/
def REF_HOLD_CFG : Nat := 0x50010
def REF_HOLD_CFG_HOLD_AVG : Fd := ⟨REF_HOLD_CFG, 0, 10⟩
def REF_HOLD_CFG_RANGE_PPM : Fd := ⟨REF_HOLD_CFG, 10, 9⟩
def REF_HOLD_CFG_LOCK_NS : Fd := ⟨REF_HOLD_CFG, 19, 12⟩
/-- Table 11.8. -/
def REF_WCKO_CFG : Nat := 0x50014
def REF_WCKO_CFG_EN0 : Fd := ⟨REF_WCKO_CFG, 0, 1⟩
def REF_WCKO_CFG_RATE0 : Fd := ⟨REF_WCKO_CFG, 1, 2⟩
def REF_WCKO_CFG_POL0 : Fd := ⟨REF_WCKO_CFG, 3, 1⟩
def REF_WCKO_CFG_EN1 : Fd := ⟨REF_WCKO_CFG, 8, 1⟩
def REF_WCKO_CFG_RATE1 : Fd := ⟨REF_WCKO_CFG, 9, 2⟩
def REF_WCKO_CFG_POL1 : Fd := ⟨REF_WCKO_CFG, 11, 1⟩
/-- Table 11.8. -/
def REF_EVT_CNT : Nat := 0x50018
def REF_EVT_CNT_SWITCHES : Fd := ⟨REF_EVT_CNT, 0, 16⟩
def REF_EVT_CNT_HOLDOVERS : Fd := ⟨REF_EVT_CNT, 16, 16⟩
/-- Table 11.8. -/
def REF_DCO_FFO : Nat := 0x50020
/-- Table 11.8. -/
def REF_PD_ERR : Nat := 0x50028
/-- Table 11.8. -/
def REF_HOLD_FFO : Nat := 0x50030
/-- Table 11.8. -/
def REF_BO : Nat := 0x50038
/-- Table 11.9. -/
def REF_CAND_CFG (i : Nat) : Nat := 0x50100 + 0x20 * i
def REF_CAND_CFG_EN (i : Nat) : Fd := ⟨REF_CAND_CFG i, 0, 1⟩
def REF_CAND_CFG_PRIO (i : Nat) : Fd := ⟨REF_CAND_CFG i, 1, 4⟩
def REF_CAND_CFG_QSRC (i : Nat) : Fd := ⟨REF_CAND_CFG i, 5, 1⟩
def REF_CAND_CFG_SW_Q (i : Nat) : Fd := ⟨REF_CAND_CFG i, 6, 3⟩
def REF_CAND_CFG_HYBRID (i : Nat) : Fd := ⟨REF_CAND_CFG i, 9, 1⟩
def REF_CAND_CFG_HYB_DOM (i : Nat) : Fd := ⟨REF_CAND_CFG i, 10, 1⟩
def REF_CAND_CFG_BW_MHZ (i : Nat) : Fd := ⟨REF_CAND_CFG i, 16, 16⟩
/-- Table 11.9. -/
def REF_CAND_AUX (i : Nat) : Nat := 0x50104 + 0x20 * i
def REF_CAND_AUX_PORT (i : Nat) : Fd := ⟨REF_CAND_AUX i, 0, 6⟩
def REF_CAND_AUX_RATE (i : Nat) : Fd := ⟨REF_CAND_AUX i, 6, 2⟩
def REF_CAND_AUX_OFS_NS (i : Nat) : Fd := ⟨REF_CAND_AUX i, 16, 16⟩
/-- Table 11.9. -/
def REF_CAND_QIN (i : Nat) : Nat := 0x50108 + 0x20 * i
def REF_CAND_QIN_CLASS_SSM (i : Nat) : Fd := ⟨REF_CAND_QIN i, 0, 8⟩
def REF_CAND_QIN_ACC (i : Nat) : Fd := ⟨REF_CAND_QIN i, 8, 8⟩
/-- Table 11.9. -/
def REF_CAND_STATUS (i : Nat) : Nat := 0x5010C + 0x20 * i
def REF_CAND_STATUS_STATE (i : Nat) : Fd := ⟨REF_CAND_STATUS i, 0, 3⟩
def REF_CAND_STATUS_REASON (i : Nat) : Fd := ⟨REF_CAND_STATUS i, 3, 4⟩
def REF_CAND_STATUS_RANK (i : Nat) : Fd := ⟨REF_CAND_STATUS i, 7, 3⟩
def REF_CAND_STATUS_DISPUTED (i : Nat) : Fd := ⟨REF_CAND_STATUS i, 10, 1⟩
/-- Table 11.9. -/
def REF_CAND_FREQ (i : Nat) : Nat := 0x50110 + 0x20 * i
/-- Table 12.8. -/
def EMB_CFG : Nat := 0x3A0000
def EMB_CFG_ROT_TICKS : Fd := ⟨EMB_CFG, 0, 16⟩
def EMB_CFG_ROT_EN : Fd := ⟨EMB_CFG, 16, 1⟩
def EMB_CFG_VOTE_EN : Fd := ⟨EMB_CFG, 17, 1⟩
def EMB_CFG_BIST_TICKS : Fd := ⟨EMB_CFG, 18, 6⟩
/-- Table 12.8. -/
def EMB_STATUS : Nat := 0x3A0004
def EMB_STATUS_MODE : Fd := ⟨EMB_STATUS, 0, 2⟩
def EMB_STATUS_EMBERS : Fd := ⟨EMB_STATUS, 2, 2⟩
def EMB_STATUS_SHADOW : Fd := ⟨EMB_STATUS, 4, 5⟩
def EMB_STATUS_PHASE : Fd := ⟨EMB_STATUS, 9, 2⟩
def EMB_STATUS_SLOT_TICK : Fd := ⟨EMB_STATUS, 16, 16⟩
/-- Table 12.8. -/
def EMB_CNT : Nat := 0x3A0008
def EMB_CNT_TAKEOVERS : Fd := ⟨EMB_CNT, 0, 8⟩
def EMB_CNT_CONVICT : Fd := ⟨EMB_CNT, 8, 8⟩
def EMB_CNT_UNDECIDED : Fd := ⟨EMB_CNT, 16, 8⟩
def EMB_CNT_ESCAL : Fd := ⟨EMB_CNT, 24, 8⟩
/-- Table 12.8. -/
def EMB_MAP (c : Nat) : Nat := 0x3A0100 + 0x4 * c
def EMB_MAP_ROLE (c : Nat) : Fd := ⟨EMB_MAP c, 0, 3⟩
def EMB_MAP_LH (c : Nat) : Fd := ⟨EMB_MAP c, 8, 5⟩
def EMB_MAP_EID (c : Nat) : Fd := ⟨EMB_MAP c, 16, 1⟩
def EMB_MAP_WHY (c : Nat) : Fd := ⟨EMB_MAP c, 24, 3⟩
/-- Table 12.8. -/
def EMB_HLTH (c : Nat) : Nat := 0x3A0200 + 0x4 * c
def EMB_HLTH_VOTE_PASS (c : Nat) : Fd := ⟨EMB_HLTH c, 0, 16⟩
def EMB_HLTH_BIST_PASS (c : Nat) : Fd := ⟨EMB_HLTH c, 16, 16⟩
/-- Table 12.8. -/
def EMB_HLTH_LAST (c : Nat) : Nat := 0x3A0400 + 0x8 * c
/-- Table 12.9. -/
def TWN_CFG : Nat := 0xE0000
def TWN_CFG_EN : Fd := ⟨TWN_CFG, 0, 1⟩
def TWN_CFG_AUTO_RST : Fd := ⟨TWN_CFG, 1, 1⟩
def TWN_CFG_ARR_CUT : Fd := ⟨TWN_CFG, 2, 6⟩
def TWN_CFG_SETTLE : Fd := ⟨TWN_CFG, 16, 16⟩
/-- Table 12.9. -/
def TWN_STATUS : Nat := 0xE0004
def TWN_STATUS_ROLE : Fd := ⟨TWN_STATUS, 0, 1⟩
def TWN_STATUS_PAIR : Fd := ⟨TWN_STATUS, 1, 3⟩
def TWN_STATUS_LANE_UP : Fd := ⟨TWN_STATUS, 4, 2⟩
def TWN_STATUS_PRESENT : Fd := ⟨TWN_STATUS, 6, 1⟩
def TWN_STATUS_STRAP : Fd := ⟨TWN_STATUS, 7, 1⟩
def TWN_STATUS_WHY : Fd := ⟨TWN_STATUS, 8, 4⟩
/-- Table 12.9. -/
def TWN_CTRL : Nat := 0xE0008
def TWN_CTRL_DETACH : Fd := ⟨TWN_CTRL, 0, 1⟩
def TWN_CTRL_REJOIN : Fd := ⟨TWN_CTRL, 1, 1⟩
def TWN_CTRL_CLR_DISPUTE : Fd := ⟨TWN_CTRL, 2, 1⟩
/-- Table 12.9. -/
def TWN_CNT0 : Nat := 0xE000C
def TWN_CNT0_MISMATCH : Fd := ⟨TWN_CNT0, 0, 16⟩
def TWN_CNT0_HANDOVERS : Fd := ⟨TWN_CNT0, 16, 16⟩
/-- Table 12.9. -/
def TWN_CNT1 : Nat := 0xE0010
def TWN_CNT1_LATE_REC : Fd := ⟨TWN_CNT1, 0, 16⟩
def TWN_CNT1_ARR_MISS : Fd := ⟨TWN_CNT1, 16, 16⟩
/-- Table 12.9. -/
def TWN_MISMATCH_MAP : Nat := 0xE0014
def TWN_MISMATCH_MAP_CLASSES : Fd := ⟨TWN_MISMATCH_MAP, 0, 27⟩
/-- Table 12.9. -/
def TWN_HO_FCLK : Nat := 0xE0018
/-- Table 13.9. -/
def HIF_CTRL : Nat := 0x10000
def HIF_CTRL_EN : Fd := ⟨HIF_CTRL, 0, 1⟩
def HIF_CTRL_FETCH_M1 : Fd := ⟨HIF_CTRL, 1, 4⟩
def HIF_CTRL_EVT_MIN : Fd := ⟨HIF_CTRL, 5, 2⟩
/-- Table 13.9. -/
def HIF_STATUS : Nat := 0x10004
def HIF_STATUS_RUN : Fd := ⟨HIF_STATUS, 0, 1⟩
def HIF_STATUS_STALL : Fd := ⟨HIF_STATUS, 1, 1⟩
def HIF_STATUS_STALL_WHY : Fd := ⟨HIF_STATUS, 2, 3⟩
def HIF_STATUS_TAIL_ERR : Fd := ⟨HIF_STATUS, 5, 1⟩
def HIF_STATUS_DMA_ERR : Fd := ⟨HIF_STATUS, 6, 1⟩
def HIF_STATUS_CFG_ERR : Fd := ⟨HIF_STATUS, 7, 1⟩
/-- Table 13.9. -/
def HIF_DB_ADDR : Nat := 0x10008
/-- Table 13.9. -/
def HIF_SB_ADDR : Nat := 0x10010
/-- Table 13.9. -/
def HIF_RING_BASE (r : Nat) : Nat := 0x10020 + 0x10 * r
/-- Table 13.9. -/
def HIF_RING_SIZE (r : Nat) : Nat := 0x10028 + 0x10 * r
def HIF_RING_SIZE_SIZE (r : Nat) : Fd := ⟨HIF_RING_SIZE r, 0, 17⟩
/-- Table 13.9. -/
def HIF_MTR_CFG : Nat := 0x10080
def HIF_MTR_CFG_EVERY : Fd := ⟨HIF_MTR_CFG, 0, 16⟩
def HIF_MTR_CFG_POINTS : Fd := ⟨HIF_MTR_CFG, 16, 13⟩
/-- Table 13.9. -/
def HIF_CNT0 : Nat := 0x10084
def HIF_CNT0_EVT_DROP : Fd := ⟨HIF_CNT0, 0, 16⟩
def HIF_CNT0_MTR_DROP : Fd := ⟨HIF_CNT0, 16, 16⟩
/-- Table 13.9. -/
def HIF_CNT1 : Nat := 0x10088
def HIF_CNT1_LOG_DROP : Fd := ⟨HIF_CNT1, 0, 16⟩
def HIF_CNT1_DMA_FAIL : Fd := ⟨HIF_CNT1, 16, 16⟩
/-- Table 13.9. -/
def HIF_VEC (c : Nat) : Nat := 0x10100 + 0x4 * c
def HIF_VEC_VECTOR (c : Nat) : Fd := ⟨HIF_VEC c, 0, 6⟩
def HIF_VEC_EN (c : Nat) : Fd := ⟨HIF_VEC c, 6, 1⟩
/-- Table 13.9. -/
def HIF_MTR_PT (i : Nat) : Nat := 0x14000 + 0x4 * i
def HIF_MTR_PT_SLOT (i : Nat) : Fd := ⟨HIF_MTR_PT i, 0, 13⟩
def HIF_MTR_PT_EN (i : Nat) : Fd := ⟨HIF_MTR_PT i, 13, 1⟩
/-- The MSI-X table and the pending-bit array, in the form that PCI Express gives them (R333): the vector control word of
vector `v`, whose bit 0 masks it, and word `w` of the array. -/
def MSIX_CTRL (v : Nat) : Nat := 0x1800C + 0x10 * v
def MSIX_PBA (w : Nat) : Nat := 0x19000 + 0x4 * w
/-- Table 13.11. -/
def GLB_ID : Nat := 0x0
def GLB_ID_PART : Fd := ⟨GLB_ID, 0, 16⟩
def GLB_ID_REV : Fd := ⟨GLB_ID, 16, 4⟩
/-- Table 13.11. -/
def GLB_CAP0 : Nat := 0x4
def GLB_CAP0_CLUSTERS : Fd := ⟨GLB_CAP0, 0, 8⟩
def GLB_CAP0_HEARTHS : Fd := ⟨GLB_CAP0, 8, 8⟩
def GLB_CAP0_PORTS : Fd := ⟨GLB_CAP0, 16, 8⟩
def GLB_CAP0_NET : Fd := ⟨GLB_CAP0, 24, 4⟩
def GLB_CAP0_TWIN : Fd := ⟨GLB_CAP0, 28, 4⟩
/-- Table 13.11. -/
def GLB_CAP1 : Nat := 0x8
def GLB_CAP1_SLOTS_M1 : Fd := ⟨GLB_CAP1, 0, 16⟩
def GLB_CAP1_STREAMS_M1 : Fd := ⟨GLB_CAP1, 16, 16⟩
/-- Table 13.11. -/
def GLB_CAP2 : Nat := 0xC
def GLB_CAP2_ASRC_M1 : Fd := ⟨GLB_CAP2, 0, 10⟩
def GLB_CAP2_CHAINS_M1 : Fd := ⟨GLB_CAP2, 10, 8⟩
def GLB_CAP2_FLUES : Fd := ⟨GLB_CAP2, 18, 6⟩
def GLB_CAP2_SRAM_MIB : Fd := ⟨GLB_CAP2, 24, 8⟩
/-- Table 13.11. -/
def GLB_SCRATCH : Nat := 0x10
/-- Table 14.3. -/
def MBX_MSG (m : Nat) (w : Nat) : Nat := 0x180000 + 0x100 * m + 0x4 * w
/-- Table 14.3. -/
def MBX_HDR0 (m : Nat) : Nat := 0x180040 + 0x100 * m
def MBX_HDR0_SID (m : Nat) : Fd := ⟨MBX_HDR0 m, 0, 12⟩
def MBX_HDR0_EPOCH (m : Nat) : Fd := ⟨MBX_HDR0 m, 16, 16⟩
/-- Table 14.3. -/
def MBX_HDR1 (m : Nat) : Nat := 0x180044 + 0x100 * m
def MBX_HDR1_SEQ (m : Nat) : Fd := ⟨MBX_HDR1 m, 0, 16⟩
def MBX_HDR1_LEN (m : Nat) : Fd := ⟨MBX_HDR1 m, 16, 5⟩
def MBX_HDR1_CODE (m : Nat) : Fd := ⟨MBX_HDR1 m, 24, 8⟩
/-- Table 14.3. -/
def MBX_CTRL (m : Nat) : Nat := 0x180048 + 0x100 * m
def MBX_CTRL_SEND (m : Nat) : Fd := ⟨MBX_CTRL m, 0, 1⟩
def MBX_CTRL_LEN (m : Nat) : Fd := ⟨MBX_CTRL m, 1, 5⟩
def MBX_CTRL_CODE (m : Nat) : Fd := ⟨MBX_CTRL m, 8, 8⟩
/-- Table 14.3. -/
def MBX_STATUS (m : Nat) : Nat := 0x18004C + 0x100 * m
def MBX_STATUS_FULL (m : Nat) : Fd := ⟨MBX_STATUS m, 0, 1⟩
def MBX_STATUS_PENDING (m : Nat) : Fd := ⟨MBX_STATUS m, 1, 1⟩
def MBX_STATUS_TAKEN (m : Nat) : Fd := ⟨MBX_STATUS m, 2, 1⟩
def MBX_STATUS_TIMEOUT (m : Nat) : Fd := ⟨MBX_STATUS m, 3, 1⟩
def MBX_STATUS_FLUSHED (m : Nat) : Fd := ⟨MBX_STATUS m, 4, 1⟩
def MBX_STATUS_REFUSED (m : Nat) : Fd := ⟨MBX_STATUS m, 5, 1⟩
/-- Table 14.3. -/
def MBX_TMO (m : Nat) : Nat := 0x180050 + 0x100 * m
def MBX_TMO_TMO_US (m : Nat) : Fd := ⟨MBX_TMO m, 0, 20⟩
/-- Table 14.3. -/
def MBX_CORE_RX (q : Nat) : Nat := 0x181054 + 0x100 * q
def MBX_CORE_RX_ADDR (q : Nat) : Fd := ⟨MBX_CORE_RX q, 0, 18⟩
/-- Table 14.3. -/
def MBX_CORE_TX (q : Nat) : Nat := 0x181058 + 0x100 * q
def MBX_CORE_TX_ADDR (q : Nat) : Fd := ⟨MBX_CORE_TX q, 0, 18⟩
/-- Table 15.7. -/
def MTX_REMAP : Nat := 0x3C0000
def MTX_REMAP_REMAP : Fd := ⟨MTX_REMAP, 0, 1⟩
/-- Table 15.7. -/
def MTX_SCRUB_CFG : Nat := 0x3C0010
def MTX_SCRUB_CFG_PERIOD_S : Fd := ⟨MTX_SCRUB_CFG, 0, 8⟩
def MTX_SCRUB_CFG_EN : Fd := ⟨MTX_SCRUB_CFG, 8, 1⟩
/-- Table 15.7. -/
def MTX_SCRUB_STAT : Nat := 0x3C0014
def MTX_SCRUB_STAT_LAG : Fd := ⟨MTX_SCRUB_STAT, 0, 1⟩
def MTX_SCRUB_STAT_PASSES : Fd := ⟨MTX_SCRUB_STAT, 16, 16⟩
/-- Table 15.7. -/
def MTX_ECC_CNT (m : Nat) : Nat := 0x3C0100 + 0x4 * m
def MTX_ECC_CNT_CE (m : Nat) : Fd := ⟨MTX_ECC_CNT m, 0, 16⟩
def MTX_ECC_CNT_UE (m : Nat) : Fd := ⟨MTX_ECC_CNT m, 16, 16⟩
/-- Table 15.7. -/
def MTX_UE_ADDR : Nat := 0x3C0200
/-- Table 15.7. -/
def MTX_UE_INFO : Nat := 0x3C0208
def MTX_UE_INFO_MASTER : Fd := ⟨MTX_UE_INFO, 0, 8⟩
def MTX_UE_INFO_MEM : Fd := ⟨MTX_UE_INFO, 8, 6⟩
def MTX_UE_INFO_UE_VALID : Fd := ⟨MTX_UE_INFO, 15, 1⟩
/-- Table 15.7. -/
def MTX_ECC_INJ : Nat := 0x3C0300
def MTX_ECC_INJ_MEM : Fd := ⟨MTX_ECC_INJ, 0, 6⟩
def MTX_ECC_INJ_ARM : Fd := ⟨MTX_ECC_INJ, 6, 1⟩
def MTX_ECC_INJ_DOUBLE : Fd := ⟨MTX_ECC_INJ, 7, 1⟩
/-- Table 16.5. -/
def FLT_CTRL : Nat := 0x40000
def FLT_CTRL_FORCE_SAFE : Fd := ⟨FLT_CTRL, 0, 1⟩
def FLT_CTRL_UNLATCH : Fd := ⟨FLT_CTRL, 1, 1⟩
/-- Table 16.5. -/
def FLT_STATUS : Nat := 0x40004
def FLT_STATUS_STATE : Fd := ⟨FLT_STATUS, 0, 2⟩
def FLT_STATUS_ENTRY : Fd := ⟨FLT_STATUS, 2, 3⟩
def FLT_STATUS_PARITY_ERR : Fd := ⟨FLT_STATUS, 5, 1⟩
def FLT_STATUS_REC_CNT : Fd := ⟨FLT_STATUS, 8, 4⟩
def FLT_STATUS_QUIET : Fd := ⟨FLT_STATUS, 12, 20⟩
/-- Table 16.5. -/
def FLT_QUIET : Nat := 0x40008
def FLT_QUIET_Q : Fd := ⟨FLT_QUIET, 0, 20⟩
/-- Table 16.5. -/
def FLT_REC : Nat := 0x4000C
def FLT_REC_REC_MAX : Fd := ⟨FLT_REC, 0, 4⟩
def FLT_REC_REC_W : Fd := ⟨FLT_REC, 4, 28⟩
/-- Table 16.5. -/
def FLT_ESC : Nat := 0x40010
def FLT_ESC_ESC_W : Fd := ⟨FLT_ESC, 0, 20⟩
/-- Table 16.5. -/
def FLT_ACK : Nat := 0x40014
def FLT_ACK_SRC : Fd := ⟨FLT_ACK, 0, 10⟩
/-- Table 16.5. -/
def FLT_FIRST_ADDR : Nat := 0x40020
/-- Table 16.5. -/
def FLT_FIRST_INFO : Nat := 0x40028
def FLT_FIRST_INFO_SRC : Fd := ⟨FLT_FIRST_INFO, 0, 10⟩
def FLT_FIRST_INFO_CLASS : Fd := ⟨FLT_FIRST_INFO, 10, 2⟩
def FLT_FIRST_INFO_MASTER : Fd := ⟨FLT_FIRST_INFO, 12, 8⟩
def FLT_FIRST_INFO_ACCESS : Fd := ⟨FLT_FIRST_INFO, 20, 3⟩
def FLT_FIRST_INFO_VALID : Fd := ⟨FLT_FIRST_INFO, 31, 1⟩
/-- Table 16.5. -/
def FLT_FIRST_N : Nat := 0x40030
/-- Table 16.5. -/
def FLT_FIRST_C : Nat := 0x40038
/-- Table 16.5. -/
def FLT_PEND (i : Nat) : Nat := 0x40100 + 0x4 * i
/-- Table 16.5. -/
def FLT_GRP_LVL (i : Nat) : Nat := 0x40200 + 0x4 * i
/-- Table 16.5. -/
def FLT_SRC_CFG (s : Nat) : Nat := 0x41000 + 0x4 * s
def FLT_SRC_CFG_CLASS (s : Nat) : Fd := ⟨FLT_SRC_CFG s, 0, 2⟩
def FLT_SRC_CFG_EN (s : Nat) : Fd := ⟨FLT_SRC_CFG s, 2, 1⟩
def FLT_SRC_CFG_RUNG (s : Nat) : Fd := ⟨FLT_SRC_CFG s, 3, 3⟩
def FLT_SRC_CFG_N (s : Nat) : Fd := ⟨FLT_SRC_CFG s, 6, 4⟩
def FLT_SRC_CFG_W (s : Nat) : Fd := ⟨FLT_SRC_CFG s, 10, 16⟩
/-- Table 16.5. -/
def FLT_SRC_GRACE (s : Nat) : Nat := 0x42000 + 0x4 * s
def FLT_SRC_GRACE_GRACE (s : Nat) : Fd := ⟨FLT_SRC_GRACE s, 0, 16⟩
/-- Table 16.5. -/
def FLT_SRC_CNT (s : Nat) : Nat := 0x43000 + 0x4 * s
def FLT_SRC_CNT_COUNT (s : Nat) : Fd := ⟨FLT_SRC_CNT s, 0, 16⟩
def FLT_SRC_CNT_CUR (s : Nat) : Fd := ⟨FLT_SRC_CNT s, 16, 4⟩
/-- Table 17.10. -/
def RST_CMD : Nat := 0x20000
def RST_CMD_KIND : Fd := ⟨RST_CMD, 0, 3⟩
def RST_CMD_UCLASS : Fd := ⟨RST_CMD, 3, 2⟩
def RST_CMD_UNIT : Fd := ⟨RST_CMD, 5, 6⟩
def RST_CMD_KEY : Fd := ⟨RST_CMD, 16, 16⟩
/-- Table 17.10. -/
def RST_STATUS : Nat := 0x20004
def RST_STATUS_W_ACT : Fd := ⟨RST_STATUS, 0, 1⟩
def RST_STATUS_E_ACT : Fd := ⟨RST_STATUS, 1, 1⟩
def RST_STATUS_M_ACT : Fd := ⟨RST_STATUS, 2, 1⟩
def RST_STATUS_RSTN_IN : Fd := ⟨RST_STATUS, 3, 1⟩
/-- Table 17.10. -/
def RST_CAUSE : Nat := 0x20008
def RST_CAUSE_POR : Fd := ⟨RST_CAUSE, 0, 1⟩
def RST_CAUSE_SUPPLY : Fd := ⟨RST_CAUSE, 1, 1⟩
def RST_CAUSE_RSTN_EXT : Fd := ⟨RST_CAUSE, 2, 1⟩
def RST_CAUSE_W_HOST : Fd := ⟨RST_CAUSE, 3, 1⟩
def RST_CAUSE_W_TWIN : Fd := ⟨RST_CAUSE, 4, 1⟩
def RST_CAUSE_W_WDOG : Fd := ⟨RST_CAUSE, 5, 1⟩
def RST_CAUSE_W_CLK : Fd := ⟨RST_CAUSE, 6, 1⟩
def RST_CAUSE_E_HOST : Fd := ⟨RST_CAUSE, 7, 1⟩
def RST_CAUSE_E_POWER : Fd := ⟨RST_CAUSE, 8, 1⟩
def RST_CAUSE_M_HOST : Fd := ⟨RST_CAUSE, 9, 1⟩
def RST_CAUSE_M_WDOG : Fd := ⟨RST_CAUSE, 10, 1⟩
def RST_CAUSE_M_UPDATE : Fd := ⟨RST_CAUSE, 11, 1⟩
def RST_CAUSE_U_HOST : Fd := ⟨RST_CAUSE, 12, 1⟩
def RST_CAUSE_U_ESCAL : Fd := ⟨RST_CAUSE, 13, 1⟩
def RST_CAUSE_U_CLK : Fd := ⟨RST_CAUSE, 14, 1⟩
/-- Table 17.11. -/
def CLK_GOOD : Nat := 0x30000
def CLK_GOOD_GOOD : Fd := ⟨CLK_GOOD, 0, 16⟩
/-- Table 17.11. -/
def CLK_LOST : Nat := 0x30004
def CLK_LOST_LOST : Fd := ⟨CLK_LOST, 0, 16⟩
/-- Table 17.11. -/
def CLK_PWR_CTRL : Nat := 0x30010
def CLK_PWR_CTRL_REQ : Fd := ⟨CLK_PWR_CTRL, 0, 2⟩
/-- Table 17.11. -/
def CLK_PWR_STATUS : Nat := 0x30014
def CLK_PWR_STATUS_STATE : Fd := ⟨CLK_PWR_STATUS, 0, 3⟩
def CLK_PWR_STATUS_REFUSED : Fd := ⟨CLK_PWR_STATUS, 3, 1⟩
/-- Table 17.11. -/
def CLK_PD_EN0 : Nat := 0x30020
/-- Table 17.11. -/
def CLK_PD_EN1 : Nat := 0x30024
def CLK_PD_EN1_EN : Fd := ⟨CLK_PD_EN1, 0, 4⟩
/-- Table 17.11. -/
def CLK_PD_ST1 : Nat := 0x3002C
def CLK_PD_ST1_ON : Fd := ⟨CLK_PD_ST1, 0, 4⟩
/-- Table 17.11. -/
def CLK_SUP_STATUS : Nat := 0x30030
def CLK_SUP_STATUS_WARN : Fd := ⟨CLK_SUP_STATUS, 0, 7⟩
def CLK_SUP_STATUS_STRETCH : Fd := ⟨CLK_SUP_STATUS, 7, 1⟩
/-- Table 17.11. -/
def CLK_SUP_CNT : Nat := 0x30034
def CLK_SUP_CNT_WARN_CNT : Fd := ⟨CLK_SUP_CNT, 0, 16⟩
def CLK_SUP_CNT_STRETCH_US : Fd := ⟨CLK_SUP_CNT, 16, 16⟩
/-- Table 18.9. -/
def MGT_BOOT_STATUS : Nat := 0x3E0000
def MGT_BOOT_STATUS_STAGE : Fd := ⟨MGT_BOOT_STATUS, 0, 3⟩
def MGT_BOOT_STATUS_ACTIVE : Fd := ⟨MGT_BOOT_STATUS, 3, 1⟩
def MGT_BOOT_STATUS_TRIAL : Fd := ⟨MGT_BOOT_STATUS, 4, 1⟩
def MGT_BOOT_STATUS_FAILS : Fd := ⟨MGT_BOOT_STATUS, 5, 2⟩
def MGT_BOOT_STATUS_BOOT_OK : Fd := ⟨MGT_BOOT_STATUS, 7, 1⟩
def MGT_BOOT_STATUS_REASON : Fd := ⟨MGT_BOOT_STATUS, 8, 8⟩
def MGT_BOOT_STATUS_BOOTSEL : Fd := ⟨MGT_BOOT_STATUS, 16, 2⟩
/-- Table 18.9. -/
def MGT_BOOT_CNT : Nat := 0x3E0004
/-- Table 18.9. -/
def MGT_HOSTIMG : Nat := 0x3E0008
/-- Table 18.9. -/
def MGT_HOSTIMG_LEN : Nat := 0x3E0010
def MGT_HOSTIMG_LEN_LEN : Fd := ⟨MGT_HOSTIMG_LEN, 0, 22⟩
/-- Table 18.9. -/
def MGT_BOOT_CTRL : Nat := 0x3E0014
def MGT_BOOT_CTRL_GO : Fd := ⟨MGT_BOOT_CTRL, 0, 1⟩
def MGT_BOOT_CTRL_CLR_FAIL : Fd := ⟨MGT_BOOT_CTRL, 1, 1⟩
/-- Table 18.9. -/
def MGT_FW_VER : Nat := 0x3E0018
/-- Table 18.9. -/
def MGT_THERM_CFG : Nat := 0x3E0020
def MGT_THERM_CFG_WARN : Fd := ⟨MGT_THERM_CFG, 0, 8⟩
def MGT_THERM_CFG_CRIT : Fd := ⟨MGT_THERM_CFG, 8, 8⟩
/-- Table 18.9. -/
def MGT_THERM_MAX : Nat := 0x3E0024
def MGT_THERM_MAX_TEMP : Fd := ⟨MGT_THERM_MAX, 0, 16⟩
def MGT_THERM_MAX_SENSOR : Fd := ⟨MGT_THERM_MAX, 16, 4⟩
/-- Table 18.10. -/
def SEC_LIFE : Nat := 0x3F0000
def SEC_LIFE_STATE : Fd := ⟨SEC_LIFE, 0, 2⟩
def SEC_LIFE_PEND : Fd := ⟨SEC_LIFE, 2, 1⟩
def SEC_LIFE_ADV : Fd := ⟨SEC_LIFE, 8, 2⟩
def SEC_LIFE_KEY : Fd := ⟨SEC_LIFE, 16, 16⟩
/-- Table 18.10. -/
def SEC_DEVID : Nat := 0x3F0008
/-- Table 18.10. -/
def SEC_DBG_REQ : Nat := 0x3F0010
def SEC_DBG_REQ_LEVEL : Fd := ⟨SEC_DBG_REQ, 0, 2⟩
def SEC_DBG_REQ_MODE : Fd := ⟨SEC_DBG_REQ, 2, 1⟩
def SEC_DBG_REQ_NEWCHAL : Fd := ⟨SEC_DBG_REQ, 3, 1⟩
/-- Table 18.10. -/
def SEC_DBG_STATUS : Nat := 0x3F0014
def SEC_DBG_STATUS_LEVEL : Fd := ⟨SEC_DBG_STATUS, 0, 2⟩
def SEC_DBG_STATUS_FAILS : Fd := ⟨SEC_DBG_STATUS, 4, 4⟩
def SEC_DBG_STATUS_LOCKOUT : Fd := ⟨SEC_DBG_STATUS, 8, 1⟩
def SEC_DBG_STATUS_LAST : Fd := ⟨SEC_DBG_STATUS, 9, 3⟩
/-- Table 18.10. -/
def SEC_SVN : Nat := 0x3F0018
def SEC_SVN_OTP_SVN : Fd := ⟨SEC_SVN, 0, 8⟩
def SEC_SVN_FW_SVN : Fd := ⟨SEC_SVN, 8, 8⟩
def SEC_SVN_COMMIT : Fd := ⟨SEC_SVN, 16, 16⟩
/-- Table 18.10. -/
def SEC_CHAL (i : Nat) : Nat := 0x3F0020 + 0x4 * i
/-- Table 18.10. -/
def SEC_RESP (i : Nat) : Nat := 0x3F0040 + 0x4 * i
/-- Table 10.4. -/
def TMB_DOM_SET_SEC (x : Nat) : Nat := 0x60118 + 0x40 * x
/-- Table 10.4. -/
def TMB_DOM_SET_NS (x : Nat) : Nat := 0x60120 + 0x40 * x
def TMB_DOM_SET_NS_NS (x : Nat) : Fd := ⟨TMB_DOM_SET_NS x, 0, 30⟩
/-- Table 10.4. -/
def TMB_DOM_SET_FRAC (x : Nat) : Nat := 0x60124 + 0x40 * x
def TMB_DOM_SET_FRAC_FRAC (x : Nat) : Fd := ⟨TMB_DOM_SET_FRAC x, 0, 16⟩
/-- Table 10.4. -/
def TMB_DOM_SNAP_SEC (x : Nat) : Nat := 0x60130 + 0x40 * x
/-- Table 10.4. -/
def TMB_DOM_SNAP_NS (x : Nat) : Nat := 0x60138 + 0x40 * x
/-- Table 10.4. -/
def TMB_DOM_SNAP_FRAC (x : Nat) : Nat := 0x6013C + 0x40 * x
/-- Table 10.4. -/
def TMB_MEDIA_SNAP_SEC : Nat := 0x60220
/-- Table 10.4. -/
def TMB_MEDIA_SNAP_NS : Nat := 0x60228
/-- Table 10.4. -/
def TMB_MEDIA_SNAP_FRAC : Nat := 0x6022C
/-- Table 17.11. -/
def CLK_PD_ST0 : Nat := 0x30028

/-- The registers of chapter 1. -/
def regTable1 : List RegDef :=
  [⟨0x170000, [], .no, [⟨0, 1, .rw, 0x0, 7⟩]⟩,
   ⟨0x170004, [], .no, [⟨0, 2, .rw, 0x1, 7⟩]⟩,
   ⟨0x170008, [], .no, [⟨0, 1, .w1s, 0x0, 3⟩, ⟨1, 1, .wo, 0x0, 0⟩]⟩,
   ⟨0x17000C, [], .no, [⟨0, 1, .ro, 0x0, 3⟩, ⟨1, 1, .ro, 0x0, 3⟩, ⟨2, 1, .ro, 0x0, 7⟩, ⟨3, 2, .ro, 0x1, 7⟩, ⟨5, 1, .ro, 0x0, 3⟩, ⟨16, 13, .ro, 0x0, 3⟩]⟩,
   ⟨0x170010, [], .lo, [⟨0, 32, .ro, 0x0, 3⟩]⟩,
   ⟨0x170014, [], .hi, [⟨0, 32, .ro, 0x0, 3⟩]⟩,
   ⟨0x170018, [], .lo, [⟨0, 32, .ro, 0x0, 3⟩]⟩,
   ⟨0x17001C, [], .hi, [⟨0, 32, .ro, 0x0, 3⟩]⟩,
   ⟨0x170020, [], .lo, [⟨0, 32, .ro, 0x0, 3⟩]⟩,
   ⟨0x170024, [], .hi, [⟨0, 32, .ro, 0x0, 3⟩]⟩,
   ⟨0x170028, [], .no, [⟨0, 32, .rc, 0x0, 7⟩]⟩,
   ⟨0x178000, [(0x4, 8192)], .no, [⟨0, 2, .rw, 0x1, 7⟩, ⟨2, 1, .rw, 0x0, 7⟩, ⟨3, 1, .rw, 0x0, 7⟩, ⟨16, 12, .rw, 0x0, 7⟩]⟩]

/-- The registers of chapter 2. -/
def regTable2 : List RegDef :=
  [⟨0x200000, [(0x10000, 26)], .no, [⟨0, 1, .ro, 0x0, 1⟩, ⟨1, 1, .ro, 0x0, 1⟩, ⟨8, 8, .ro, 0x0, 1⟩, ⟨16, 8, .ro, 0x0, 1⟩]⟩,
   ⟨0x201000, [(0x10000, 26), (0x100, 8)], .no, [⟨0, 1, .wo, 0x0, 0⟩, ⟨1, 1, .wo, 0x0, 0⟩, ⟨2, 1, .wo, 0x0, 0⟩, ⟨3, 1, .rw, 0x0, 1⟩, ⟨4, 1, .rw, 0x0, 1⟩]⟩,
   ⟨0x201004, [(0x10000, 26), (0x100, 8)], .no, [⟨0, 3, .ro, 0x0, 1⟩, ⟨3, 1, .ro, 0x0, 1⟩, ⟨4, 1, .w1c, 0x0, 1⟩, ⟨5, 1, .w1c, 0x0, 1⟩, ⟨6, 1, .w1c, 0x0, 1⟩, ⟨7, 1, .w1c, 0x0, 1⟩, ⟨16, 16, .rc, 0x0, 1⟩]⟩,
   ⟨0x201008, [(0x10000, 26), (0x100, 8)], .no, [⟨0, 4, .ro, 0x0, 1⟩, ⟨4, 4, .ro, 0x0, 1⟩, ⟨16, 12, .ro, 0x0, 1⟩]⟩,
   ⟨0x20100C, [(0x10000, 26), (0x100, 8)], .no, [⟨0, 18, .ro, 0x0, 1⟩, ⟨18, 1, .ro, 0x0, 1⟩, ⟨19, 1, .ro, 0x0, 1⟩]⟩,
   ⟨0x201010, [(0x10000, 26), (0x100, 8)], .no, [⟨0, 12, .ro, 0x0, 1⟩, ⟨31, 1, .ro, 0x0, 1⟩]⟩,
   ⟨0x201014, [(0x10000, 26), (0x100, 8)], .no, [⟨0, 32, .ro, 0x0, 1⟩]⟩,
   ⟨0x201018, [(0x10000, 26), (0x100, 8)], .no, [⟨0, 32, .ro, 0x0, 1⟩]⟩]

/-- The registers of chapter 4. -/
def regTable4 : List RegDef :=
  [⟨0x202000, [(0x10000, 26)], .no, [⟨0, 3, .ro, 0x0, 1⟩, ⟨8, 5, .ro, 0x1F, 1⟩, ⟨16, 4, .ro, 0x0, 1⟩, ⟨24, 4, .ro, 0x0, 1⟩]⟩,
   ⟨0x202004, [(0x10000, 26)], .no, [⟨0, 32, .ro, 0x0, 1⟩]⟩,
   ⟨0x202100, [(0x10000, 26), (0x4, 8)], .no, [⟨0, 10, .rc, 0x0, 1⟩, ⟨10, 10, .rc, 0x0, 1⟩, ⟨20, 10, .rc, 0x0, 1⟩]⟩]

/-- The registers of chapter 5. -/
def regTable5 : List RegDef :=
  [⟨0x160000, [], .no, [⟨0, 1, .ro, 0x0, 3⟩, ⟨1, 1, .ro, 0x0, 3⟩, ⟨2, 1, .ro, 0x0, 3⟩, ⟨4, 4, .ro, 0x0, 3⟩]⟩,
   ⟨0x160004, [], .no, [⟨0, 1, .rw, 0x0, 7⟩, ⟨1, 3, .rw, 0x0, 7⟩]⟩,
   ⟨0x160008, [], .no, [⟨0, 20, .ro, 0x0, 3⟩]⟩,
   ⟨0x16000C, [], .no, [⟨0, 15, .ro, 0x0, 3⟩]⟩,
   ⟨0x160010, [], .no, [⟨0, 15, .ro, 0x0, 3⟩, ⟨16, 15, .ro, 0x0, 3⟩, ⟨31, 1, .wo, 0x0, 0⟩]⟩,
   ⟨0x160014, [], .no, [⟨0, 32, .rc, 0x0, 3⟩]⟩,
   ⟨0x160018, [], .no, [⟨0, 32, .rc, 0x0, 3⟩]⟩,
   ⟨0x16001C, [], .no, [⟨0, 32, .rc, 0x0, 3⟩]⟩,
   ⟨0x160020, [], .no, [⟨0, 32, .rc, 0x0, 3⟩]⟩,
   ⟨0x160024, [], .no, [⟨0, 32, .rc, 0x0, 3⟩]⟩,
   ⟨0x160028, [], .lo, [⟨0, 32, .ro, 0x0, 3⟩]⟩,
   ⟨0x16002C, [], .hi, [⟨0, 32, .ro, 0x0, 3⟩]⟩]

/-- The registers of chapter 6. -/
def regTable6 : List RegDef :=
  [⟨0x100000, [(0x1000, 48)], .no, [⟨0, 3, .rw, 0x0, 1⟩, ⟨3, 2, .rw, 0x1, 1⟩, ⟨5, 1, .rw, 0x1, 1⟩]⟩,
   ⟨0x10000C, [(0x1000, 48)], .no, [⟨0, 16, .rw, 0x0, 1⟩]⟩,
   ⟨0x100004, [(0x1000, 48)], .no, [⟨0, 1, .rw, 0x0, 1⟩, ⟨1, 12, .rw, 0x8, 1⟩, ⟨13, 10, .rw, 0xFF, 1⟩, ⟨23, 2, .rw, 0x0, 1⟩, ⟨25, 1, .rw, 0x0, 1⟩]⟩,
   ⟨0x100008, [(0x1000, 48)], .no, [⟨0, 2, .rw, 0x2, 1⟩, ⟨2, 1, .rw, 0x1, 1⟩, ⟨3, 1, .rw, 0x0, 1⟩, ⟨4, 1, .rw, 0x0, 1⟩, ⟨5, 5, .rw, 0x7, 1⟩, ⟨10, 2, .rw, 0x2, 1⟩, ⟨12, 2, .rw, 0x2, 1⟩, ⟨14, 4, .rw, 0x0, 1⟩, ⟨18, 4, .rw, 0x0, 1⟩]⟩,
   ⟨0x100010, [(0x1000, 48)], .no, [⟨0, 3, .ro, 0x0, 1⟩, ⟨3, 1, .ro, 0x0, 1⟩, ⟨4, 4, .ro, 0x0, 1⟩, ⟨8, 1, .w1c, 0x0, 1⟩]⟩,
   ⟨0x100014, [(0x1000, 48)], .no, [⟨0, 32, .ro, 0x0, 1⟩]⟩,
   ⟨0x100018, [(0x1000, 48)], .no, [⟨0, 2, .ro, 0x0, 1⟩, ⟨2, 1, .ro, 0x0, 1⟩, ⟨3, 2, .ro, 0x0, 1⟩, ⟨5, 2, .ro, 0x0, 1⟩, ⟨7, 1, .ro, 0x0, 1⟩]⟩,
   ⟨0x100020, [(0x1000, 48)], .no, [⟨0, 16, .rc, 0x0, 1⟩, ⟨16, 16, .rc, 0x0, 1⟩]⟩,
   ⟨0x100024, [(0x1000, 48)], .no, [⟨0, 16, .rc, 0x0, 1⟩, ⟨16, 16, .rc, 0x0, 1⟩]⟩,
   ⟨0x100028, [(0x1000, 48)], .no, [⟨0, 16, .rc, 0x0, 1⟩, ⟨16, 16, .rc, 0x0, 1⟩]⟩,
   ⟨0x100030, [(0x1000, 48), (0x4, 4)], .no, [⟨0, 32, .ro, 0x0, 1⟩]⟩,
   ⟨0x100100, [(0x1000, 48), (0x20, 2), (0x4, 6)], .no, [⟨0, 32, .ro, 0x0, 1⟩]⟩,
   ⟨0x100140, [(0x1000, 48), (0x20, 2), (0x4, 6)], .no, [⟨0, 32, .rw, 0x0, 1⟩]⟩,
   ⟨0x100400, [(0x1000, 48), (0x4, 128)], .no, [⟨0, 13, .rw, 0x0, 1⟩, ⟨13, 1, .rw, 0x0, 1⟩, ⟨14, 2, .rw, 0x0, 1⟩, ⟨16, 9, .rw, 0x0, 1⟩, ⟨25, 1, .rw, 0x0, 1⟩]⟩,
   ⟨0x150000, [(0x4, 512)], .no, [⟨0, 2, .rw, 0x1, 3⟩, ⟨16, 16, .rw, 0x960, 3⟩]⟩,
   ⟨0x150800, [(0x4, 512)], .no, [⟨0, 3, .ro, 0x0, 1⟩, ⟨3, 1, .w1c, 0x0, 1⟩, ⟨4, 1, .w1c, 0x0, 1⟩]⟩,
   ⟨0x151000, [(0x4, 48)], .no, [⟨0, 6, .rw, 0x4, 3⟩]⟩,
   ⟨0x151100, [(0x4, 48)], .no, [⟨0, 32, .ro, 0x0, 1⟩]⟩]

/-- The registers of chapter 7. -/
def regTable7 : List RegDef :=
  [⟨0x140000, [(0x4, 192)], .no, [⟨0, 13, .rw, 0x0, 3⟩, ⟨13, 2, .rw, 0x1, 3⟩, ⟨15, 4, .rw, 0x5, 3⟩, ⟨19, 1, .rw, 0x0, 3⟩, ⟨20, 1, .rw, 0x1, 3⟩, ⟨21, 5, .rw, 0xD, 3⟩, ⟨26, 1, .rw, 0x0, 3⟩, ⟨27, 1, .rw, 0x1, 3⟩, ⟨28, 2, .rw, 0x0, 3⟩]⟩,
   ⟨0x140400, [(0x4, 192)], .no, [⟨0, 1, .ro, 0x0, 1⟩, ⟨1, 1, .ro, 0x0, 1⟩, ⟨2, 1, .ro, 0x0, 1⟩, ⟨3, 1, .ro, 0x0, 1⟩, ⟨9, 23, .ro, 0x0, 1⟩]⟩,
   ⟨0x140800, [(0x4, 192)], .no, [⟨0, 32, .ro, 0x0, 1⟩]⟩,
   ⟨0x140C00, [(0x4, 192)], .no, [⟨0, 16, .rc, 0x0, 1⟩, ⟨16, 16, .rc, 0x0, 1⟩]⟩]

/-- The registers of chapter 8. -/
def regTable8 : List RegDef :=
  [⟨0x100800, [(0x1000, 48)], .no, [⟨0, 2, .rw, 0x0, 1⟩, ⟨2, 8, .rw, 0x3F, 1⟩, ⟨10, 8, .rw, 0x32, 1⟩, ⟨18, 1, .rw, 0x0, 1⟩, ⟨19, 4, .rw, 0x2, 1⟩, ⟨23, 8, .rw, 0x40, 1⟩, ⟨31, 1, .rw, 0x1, 1⟩]⟩,
   ⟨0x100804, [(0x1000, 48)], .no, [⟨0, 16, .rw, 0xF000, 1⟩, ⟨16, 16, .rw, 0x51F, 1⟩]⟩,
   ⟨0x100808, [(0x1000, 48)], .no, [⟨0, 7, .rw, 0x10, 1⟩, ⟨7, 5, .rw, 0x0, 1⟩, ⟨12, 4, .rw, 0x4, 1⟩, ⟨16, 8, .rw, 0x32, 1⟩, ⟨24, 1, .rw, 0x1, 1⟩]⟩,
   ⟨0x10080C, [(0x1000, 48)], .no, [⟨0, 13, .rw, 0x0, 1⟩, ⟨16, 13, .rw, 0x0, 1⟩, ⟨29, 1, .rw, 0x0, 1⟩]⟩,
   ⟨0x100810, [(0x1000, 48)], .no, [⟨0, 13, .rw, 0x0, 1⟩]⟩,
   ⟨0x100814, [(0x1000, 48)], .no, [⟨0, 32, .rw, 0x20000000, 1⟩]⟩,
   ⟨0x100818, [(0x1000, 48)], .no, [⟨0, 32, .rw, 0x10000000, 1⟩]⟩,
   ⟨0x100820, [(0x1000, 48), (0x4, 10)], .no, [⟨0, 32, .rw, 0x0, 1⟩]⟩,
   ⟨0x100850, [(0x1000, 48)], .no, [⟨0, 3, .ro, 0x0, 1⟩, ⟨3, 4, .ro, 0x0, 1⟩, ⟨7, 1, .ro, 0x0, 1⟩, ⟨8, 1, .ro, 0x0, 1⟩, ⟨9, 4, .ro, 0x0, 1⟩, ⟨13, 7, .ro, 0x0, 1⟩, ⟨20, 4, .ro, 0x0, 1⟩]⟩,
   ⟨0x100854, [(0x1000, 48)], .no, [⟨0, 32, .rc, 0x0, 1⟩]⟩,
   ⟨0x100858, [(0x1000, 48)], .no, [⟨0, 16, .rc, 0x0, 1⟩, ⟨16, 16, .rc, 0x0, 1⟩]⟩,
   ⟨0x10085C, [(0x1000, 48)], .no, [⟨0, 32, .ro, 0x0, 1⟩]⟩,
   ⟨0x130000, [(0x10, 6)], .no, [⟨0, 16, .rw, 0x0, 1⟩, ⟨16, 16, .rw, 0x1000, 1⟩]⟩,
   ⟨0x130004, [(0x10, 6)], .no, [⟨0, 12, .rw, 0x0, 1⟩, ⟨12, 12, .rw, 0x10, 1⟩, ⟨24, 8, .rw, 0x3C, 1⟩]⟩,
   ⟨0x130008, [(0x10, 6)], .no, [⟨0, 32, .ro, 0x0, 1⟩]⟩,
   ⟨0x13000C, [(0x10, 6)], .no, [⟨0, 32, .ro, 0x7FFFFFFF, 1⟩]⟩]

/-- The registers of chapter 9. -/
def regTable9 : List RegDef :=
  [⟨0x80000, [(0x10000, 6)], .no, [⟨0, 3, .rw, 0x0, 5⟩, ⟨3, 2, .rw, 0x0, 5⟩, ⟨5, 1, .rw, 0x1, 5⟩, ⟨6, 1, .rw, 0x0, 5⟩]⟩,
   ⟨0x80004, [(0x10000, 6)], .no, [⟨0, 1, .ro, 0x0, 5⟩, ⟨1, 1, .ro, 0x0, 5⟩, ⟨2, 1, .ro, 0x0, 5⟩, ⟨3, 1, .ro, 0x0, 5⟩, ⟨4, 2, .ro, 0x0, 5⟩]⟩,
   ⟨0x80008, [(0x10000, 6)], .lo, [⟨0, 32, .rw, 0x0, 5⟩]⟩,
   ⟨0x8000C, [(0x10000, 6)], .hi, [⟨0, 16, .rw, 0x0, 5⟩]⟩,
   ⟨0x80010, [(0x10000, 6)], .no, [⟨0, 14, .rw, 0x5F2, 5⟩]⟩,
   ⟨0x80014, [(0x10000, 6)], .no, [⟨0, 12, .rw, 0x0, 5⟩, ⟨12, 1, .rw, 0x1, 5⟩]⟩,
   ⟨0x80018, [(0x10000, 6)], .no, [⟨0, 1, .rw, 0x0, 5⟩, ⟨16, 16, .ro, 0x0, 5⟩]⟩,
   ⟨0x80020, [(0x10000, 6), (0x4, 2)], .no, [⟨0, 32, .w1c, 0x0, 5⟩]⟩,
   ⟨0x80028, [(0x10000, 6), (0x4, 2)], .no, [⟨0, 32, .w1c, 0x0, 5⟩]⟩,
   ⟨0x80030, [(0x10000, 6)], .no, [⟨0, 32, .rw, 0x0, 5⟩]⟩,
   ⟨0x80040, [(0x10000, 6), (0x4, 4)], .no, [⟨0, 32, .rw, 0x0, 5⟩]⟩,
   ⟨0x81000, [(0x10000, 6), (0x8, 64)], .lo, [⟨0, 32, .rc, 0x0, 5⟩]⟩,
   ⟨0x81004, [(0x10000, 6), (0x8, 64)], .hi, [⟨0, 8, .rc, 0x0, 5⟩]⟩,
   ⟨0x81200, [(0x10000, 6), (0x8, 64)], .lo, [⟨0, 32, .rc, 0x0, 5⟩]⟩,
   ⟨0x81204, [(0x10000, 6), (0x8, 64)], .hi, [⟨0, 8, .rc, 0x0, 5⟩]⟩,
   ⟨0x88000, [], .no, [⟨0, 22, .ro, 0x0, 1⟩]⟩,
   ⟨0x88004, [], .no, [⟨0, 14, .ro, 0x0, 1⟩, ⟨16, 14, .ro, 0x0, 1⟩]⟩,
   ⟨0x88010, [], .no, [⟨0, 1, .rw, 0x0, 5⟩, ⟨1, 1, .rw, 0x0, 5⟩, ⟨2, 5, .rw, 0x0, 5⟩, ⟨7, 5, .rw, 0x1, 5⟩, ⟨12, 8, .rw, 0x0, 5⟩, ⟨20, 3, .rw, 0x0, 5⟩, ⟨23, 4, .rw, 0x2, 5⟩, ⟨27, 5, .rw, 0x0, 5⟩]⟩,
   ⟨0x88014, [], .no, [⟨0, 9, .rw, 0x0, 5⟩]⟩,
   ⟨0x88018, [], .no, [⟨0, 1, .ro, 0x0, 1⟩, ⟨8, 8, .ro, 0x0, 1⟩]⟩,
   ⟨0x8801C, [], .no, [⟨0, 16, .rc, 0x0, 1⟩, ⟨16, 16, .rc, 0x0, 1⟩]⟩]

/-- The registers of chapter 10. -/
def regTable10 : List RegDef :=
  [⟨0x60000, [], .lo, [⟨0, 32, .ro, 0x0, 15⟩]⟩,
   ⟨0x60004, [], .hi, [⟨0, 32, .ro, 0x0, 15⟩]⟩,
   ⟨0x60008, [], .no, [⟨0, 1, .wo, 0x0, 0⟩]⟩,
   ⟨0x60010, [], .lo, [⟨0, 32, .ro, 0x0, 15⟩]⟩,
   ⟨0x60014, [], .hi, [⟨0, 32, .ro, 0x0, 15⟩]⟩,
   ⟨0x60100, [(0x40, 3)], .no, [⟨0, 1, .rw, 0x0, 15⟩, ⟨1, 1, .wo, 0x0, 0⟩, ⟨2, 1, .rw, 0x0, 15⟩, ⟨3, 1, .rw, 0x0, 15⟩, ⟨4, 1, .rw, 0x0, 15⟩, ⟨5, 1, .wo, 0x0, 0⟩, ⟨8, 1, .rw, 0x0, 15⟩]⟩,
   ⟨0x60104, [(0x40, 3)], .no, [⟨0, 1, .ro, 0x0, 15⟩, ⟨1, 1, .w1c, 0x0, 15⟩, ⟨2, 1, .w1c, 0x0, 15⟩, ⟨3, 1, .w1c, 0x0, 15⟩]⟩,
   ⟨0x60108, [(0x40, 3)], .lo, [⟨0, 32, .rw, 0x0, 15⟩]⟩,
   ⟨0x6010C, [(0x40, 3)], .hi, [⟨0, 32, .rw, 0x200, 15⟩]⟩,
   ⟨0x60110, [(0x40, 3)], .lo, [⟨0, 32, .rw, 0x0, 15⟩]⟩,
   ⟨0x60114, [(0x40, 3)], .hi, [⟨0, 32, .rw, 0x0, 15⟩]⟩,
   ⟨0x60128, [(0x40, 3)], .lo, [⟨0, 32, .rw, 0x0, 15⟩]⟩,
   ⟨0x6012C, [(0x40, 3)], .hi, [⟨0, 32, .rw, 0x0, 15⟩]⟩,
   ⟨0x60200, [], .no, [⟨0, 2, .ro, 0x3, 15⟩, ⟨2, 1, .ro, 0x0, 15⟩, ⟨3, 1, .w1c, 0x0, 15⟩, ⟨4, 1, .w1c, 0x0, 15⟩]⟩,
   ⟨0x60208, [], .lo, [⟨0, 32, .ro, 0x0, 15⟩]⟩,
   ⟨0x6020C, [], .hi, [⟨0, 32, .ro, 0x0, 15⟩]⟩,
   ⟨0x60210, [], .no, [⟨0, 12, .rw, 0xA, 15⟩, ⟨16, 16, .rw, 0x1388, 15⟩]⟩,
   ⟨0x60214, [], .no, [⟨0, 20, .rw, 0x3E8, 15⟩]⟩,
   ⟨0x60300, [], .no, [⟨0, 1, .rw, 0x0, 15⟩, ⟨1, 2, .rw, 0x3, 15⟩, ⟨3, 1, .rw, 0x0, 15⟩, ⟨4, 10, .rw, 0x64, 15⟩]⟩,
   ⟨0x60304, [], .no, [⟨0, 32, .rw, 0x0, 15⟩]⟩,
   ⟨0x60310, [], .no, [⟨0, 1, .rw, 0x0, 15⟩, ⟨1, 1, .rw, 0x0, 15⟩, ⟨2, 10, .rw, 0xA, 15⟩]⟩,
   ⟨0x60314, [], .no, [⟨0, 1, .w1c, 0x0, 15⟩, ⟨16, 16, .rc, 0x0, 15⟩]⟩,
   ⟨0x60318, [], .lo, [⟨0, 32, .ro, 0x0, 15⟩]⟩,
   ⟨0x6031C, [], .hi, [⟨0, 32, .ro, 0x0, 15⟩]⟩,
   ⟨0x80100, [(0x10000, 6)], .no, [⟨0, 32, .rw, 0x0, 5⟩]⟩,
   ⟨0x80104, [(0x10000, 6)], .no, [⟨0, 32, .rw, 0x0, 5⟩]⟩,
   ⟨0x80108, [(0x10000, 6)], .no, [⟨0, 32, .rw, 0x0, 5⟩]⟩,
   ⟨0x8010C, [(0x10000, 6)], .no, [⟨0, 16, .rc, 0x0, 5⟩]⟩,
   ⟨0x60118, [(0x40, 3)], .lo, [⟨0, 32, .rw, 0x0, 15⟩]⟩,
   ⟨0x6011C, [(0x40, 3)], .hi, [⟨0, 32, .rw, 0x0, 15⟩]⟩,
   ⟨0x60120, [(0x40, 3)], .no, [⟨0, 30, .rw, 0x0, 15⟩]⟩,
   ⟨0x60124, [(0x40, 3)], .no, [⟨0, 16, .rw, 0x0, 15⟩]⟩,
   ⟨0x60130, [(0x40, 3)], .lo, [⟨0, 32, .ro, 0x0, 15⟩]⟩,
   ⟨0x60134, [(0x40, 3)], .hi, [⟨0, 32, .ro, 0x0, 15⟩]⟩,
   ⟨0x60138, [(0x40, 3)], .no, [⟨0, 32, .ro, 0x0, 15⟩]⟩,
   ⟨0x6013C, [(0x40, 3)], .no, [⟨0, 32, .ro, 0x0, 15⟩]⟩,
   ⟨0x60220, [], .lo, [⟨0, 32, .ro, 0x0, 15⟩]⟩,
   ⟨0x60224, [], .hi, [⟨0, 32, .ro, 0x0, 15⟩]⟩,
   ⟨0x60228, [], .no, [⟨0, 32, .ro, 0x0, 15⟩]⟩,
   ⟨0x6022C, [], .no, [⟨0, 32, .ro, 0x0, 15⟩]⟩]

/-- The registers of chapter 11. -/
def regTable11 : List RegDef :=
  [⟨0x50000, [], .no, [⟨0, 1, .rw, 0x0, 15⟩, ⟨1, 1, .wo, 0x0, 0⟩, ⟨2, 1, .wo, 0x0, 0⟩, ⟨3, 1, .rw, 0x0, 15⟩, ⟨4, 4, .rw, 0x0, 15⟩]⟩,
   ⟨0x50004, [], .no, [⟨0, 4, .ro, 0xF, 15⟩, ⟨4, 3, .ro, 0x0, 15⟩, ⟨7, 1, .ro, 0x0, 15⟩, ⟨8, 1, .ro, 0x0, 15⟩, ⟨9, 1, .ro, 0x0, 15⟩, ⟨10, 1, .ro, 0x0, 15⟩, ⟨16, 10, .ro, 0x0, 15⟩]⟩,
   ⟨0x50008, [], .no, [⟨0, 10, .rw, 0xA, 15⟩, ⟨10, 10, .rw, 0xA, 15⟩, ⟨20, 12, .rw, 0x3E8, 15⟩]⟩,
   ⟨0x5000C, [], .no, [⟨0, 16, .rw, 0x3E8, 15⟩, ⟨16, 8, .rw, 0x5, 15⟩]⟩,
   ⟨0x50010, [], .no, [⟨0, 10, .rw, 0x12C, 15⟩, ⟨10, 9, .rw, 0x64, 15⟩, ⟨19, 12, .rw, 0x3E8, 15⟩]⟩,
   ⟨0x50014, [], .no, [⟨0, 1, .rw, 0x0, 15⟩, ⟨1, 2, .rw, 0x0, 15⟩, ⟨3, 1, .rw, 0x0, 15⟩, ⟨8, 1, .rw, 0x0, 15⟩, ⟨9, 2, .rw, 0x0, 15⟩, ⟨11, 1, .rw, 0x0, 15⟩]⟩,
   ⟨0x50018, [], .no, [⟨0, 16, .rc, 0x0, 15⟩, ⟨16, 16, .rc, 0x0, 15⟩]⟩,
   ⟨0x50020, [], .lo, [⟨0, 32, .rw, 0x0, 15⟩]⟩,
   ⟨0x50024, [], .hi, [⟨0, 32, .rw, 0x0, 15⟩]⟩,
   ⟨0x50028, [], .lo, [⟨0, 32, .ro, 0x0, 15⟩]⟩,
   ⟨0x5002C, [], .hi, [⟨0, 32, .ro, 0x0, 15⟩]⟩,
   ⟨0x50030, [], .lo, [⟨0, 32, .ro, 0x0, 15⟩]⟩,
   ⟨0x50034, [], .hi, [⟨0, 32, .ro, 0x0, 15⟩]⟩,
   ⟨0x50038, [], .lo, [⟨0, 32, .ro, 0x0, 15⟩]⟩,
   ⟨0x5003C, [], .hi, [⟨0, 32, .ro, 0x0, 15⟩]⟩,
   ⟨0x50100, [(0x20, 16)], .no, [⟨0, 1, .rw, 0x0, 15⟩, ⟨1, 4, .rw, 0x0, 15⟩, ⟨5, 1, .rw, 0x0, 15⟩, ⟨6, 3, .rw, 0x6, 15⟩, ⟨9, 1, .rw, 0x0, 15⟩, ⟨10, 1, .rw, 0x0, 15⟩, ⟨16, 16, .rw, 0x0, 15⟩]⟩,
   ⟨0x50104, [(0x20, 16)], .no, [⟨0, 6, .rw, 0x0, 15⟩, ⟨6, 2, .rw, 0x1, 15⟩, ⟨16, 16, .rw, 0x0, 15⟩]⟩,
   ⟨0x50108, [(0x20, 16)], .no, [⟨0, 8, .rw, 0x0, 15⟩, ⟨8, 8, .rw, 0xFE, 15⟩]⟩,
   ⟨0x5010C, [(0x20, 16)], .no, [⟨0, 3, .ro, 0x0, 15⟩, ⟨3, 4, .ro, 0x0, 15⟩, ⟨7, 3, .ro, 0x7, 15⟩, ⟨10, 1, .ro, 0x0, 15⟩]⟩,
   ⟨0x50110, [(0x20, 16)], .no, [⟨0, 32, .ro, 0x0, 15⟩]⟩]

/-- The registers of chapter 12. -/
def regTable12 : List RegDef :=
  [⟨0x3A0000, [], .no, [⟨0, 16, .rw, 0x1000, 7⟩, ⟨16, 1, .rw, 0x1, 7⟩, ⟨17, 1, .rw, 0x1, 7⟩, ⟨18, 6, .rw, 0x8, 7⟩]⟩,
   ⟨0x3A0004, [], .no, [⟨0, 2, .ro, 0x0, 1⟩, ⟨2, 2, .ro, 0x0, 1⟩, ⟨4, 5, .ro, 0x1F, 1⟩, ⟨9, 2, .ro, 0x0, 1⟩, ⟨16, 16, .ro, 0x0, 1⟩]⟩,
   ⟨0x3A0008, [], .no, [⟨0, 8, .rc, 0x0, 1⟩, ⟨8, 8, .rc, 0x0, 1⟩, ⟨16, 8, .rc, 0x0, 1⟩, ⟨24, 8, .rc, 0x0, 1⟩]⟩,
   ⟨0x3A0100, [(0x4, 26)], .no, [⟨0, 3, .ro, 0x0, 15⟩, ⟨8, 5, .ro, 0x1F, 15⟩, ⟨16, 1, .ro, 0x0, 15⟩, ⟨24, 3, .ro, 0x0, 15⟩]⟩,
   ⟨0x3A0200, [(0x4, 26)], .no, [⟨0, 16, .ro, 0x0, 15⟩, ⟨16, 16, .ro, 0x0, 15⟩]⟩,
   ⟨0x3A0400, [(0x8, 26)], .lo, [⟨0, 32, .ro, 0x0, 15⟩]⟩,
   ⟨0x3A0404, [(0x8, 26)], .hi, [⟨0, 32, .ro, 0x0, 15⟩]⟩,
   ⟨0xE0000, [], .no, [⟨0, 1, .rw, 0x0, 15⟩, ⟨1, 1, .rw, 0x1, 15⟩, ⟨2, 6, .rw, 0x10, 15⟩, ⟨16, 16, .rw, 0x2EE0, 15⟩]⟩,
   ⟨0xE0004, [], .no, [⟨0, 1, .ro, 0x0, 7⟩, ⟨1, 3, .ro, 0x0, 7⟩, ⟨4, 2, .ro, 0x0, 7⟩, ⟨6, 1, .ro, 0x0, 7⟩, ⟨7, 1, .ro, 0x0, 7⟩, ⟨8, 4, .ro, 0x0, 7⟩]⟩,
   ⟨0xE0008, [], .no, [⟨0, 1, .wo, 0x0, 0⟩, ⟨1, 1, .wo, 0x0, 0⟩, ⟨2, 1, .wo, 0x0, 0⟩]⟩,
   ⟨0xE000C, [], .no, [⟨0, 16, .rc, 0x0, 7⟩, ⟨16, 16, .rc, 0x0, 7⟩]⟩,
   ⟨0xE0010, [], .no, [⟨0, 16, .rc, 0x0, 7⟩, ⟨16, 16, .rc, 0x0, 7⟩]⟩,
   ⟨0xE0014, [], .no, [⟨0, 27, .w1c, 0x0, 7⟩]⟩,
   ⟨0xE0018, [], .lo, [⟨0, 32, .ro, 0x0, 7⟩]⟩,
   ⟨0xE001C, [], .hi, [⟨0, 32, .ro, 0x0, 7⟩]⟩]

/-- The registers of chapter 13. -/
def regTable13 : List RegDef :=
  [⟨0x18000, [(16, 64)], .no, [⟨0, 32, .rw, 0x0, 7⟩]⟩,
   ⟨0x18004, [(16, 64)], .no, [⟨0, 32, .rw, 0x0, 7⟩]⟩,
   ⟨0x18008, [(16, 64)], .no, [⟨0, 32, .rw, 0x0, 7⟩]⟩,
   ⟨0x1800C, [(16, 64)], .no, [⟨0, 1, .rw, 0x1, 7⟩]⟩,
   ⟨0x19000, [(4, 2)], .no, [⟨0, 32, .ro, 0x0, 7⟩]⟩,
   ⟨0x10000, [], .no, [⟨0, 1, .rw, 0x0, 7⟩, ⟨1, 4, .rw, 0x0, 7⟩, ⟨5, 2, .rw, 0x1, 7⟩]⟩,
   ⟨0x10004, [], .no, [⟨0, 1, .ro, 0x0, 7⟩, ⟨1, 1, .ro, 0x0, 7⟩, ⟨2, 3, .ro, 0x0, 7⟩, ⟨5, 1, .w1c, 0x0, 7⟩, ⟨6, 1, .w1c, 0x0, 7⟩, ⟨7, 1, .ro, 0x0, 7⟩]⟩,
   ⟨0x10008, [], .lo, [⟨0, 32, .rw, 0x0, 7⟩]⟩,
   ⟨0x1000C, [], .hi, [⟨0, 32, .rw, 0x0, 7⟩]⟩,
   ⟨0x10010, [], .lo, [⟨0, 32, .rw, 0x0, 7⟩]⟩,
   ⟨0x10014, [], .hi, [⟨0, 32, .rw, 0x0, 7⟩]⟩,
   ⟨0x10020, [(0x10, 5)], .lo, [⟨0, 32, .rw, 0x0, 7⟩]⟩,
   ⟨0x10024, [(0x10, 5)], .hi, [⟨0, 32, .rw, 0x0, 7⟩]⟩,
   ⟨0x10028, [(0x10, 5)], .no, [⟨0, 17, .rw, 0x0, 7⟩]⟩,
   ⟨0x10080, [], .no, [⟨0, 16, .rw, 0x0, 7⟩, ⟨16, 13, .rw, 0x0, 7⟩]⟩,
   ⟨0x10084, [], .no, [⟨0, 16, .rc, 0x0, 7⟩, ⟨16, 16, .rc, 0x0, 7⟩]⟩,
   ⟨0x10088, [], .no, [⟨0, 16, .rc, 0x0, 7⟩, ⟨16, 16, .rc, 0x0, 7⟩]⟩,
   ⟨0x10100, [(0x4, 8)], .no, [⟨0, 6, .rw, 0x0, 7⟩, ⟨6, 1, .rw, 0x0, 7⟩]⟩,
   ⟨0x14000, [(0x4, 4096)], .no, [⟨0, 13, .rw, 0x0, 7⟩, ⟨13, 1, .rw, 0x0, 7⟩]⟩,
   ⟨0x0, [], .no, [⟨0, 16, .ro, 0x4096, 15⟩, ⟨16, 4, .ro, 0x0, 15⟩]⟩,
   ⟨0x4, [], .no, [⟨0, 8, .ro, 0x1A, 15⟩, ⟨8, 8, .ro, 0x18, 15⟩, ⟨16, 8, .ro, 0x30, 15⟩, ⟨24, 4, .ro, 0x6, 15⟩, ⟨28, 4, .ro, 0x2, 15⟩]⟩,
   ⟨0x8, [], .no, [⟨0, 16, .ro, 0x1FFF, 15⟩, ⟨16, 16, .ro, 0x3FF, 15⟩]⟩,
   ⟨0xC, [], .no, [⟨0, 10, .ro, 0x1FF, 15⟩, ⟨10, 8, .ro, 0xBF, 15⟩, ⟨18, 6, .ro, 0x30, 15⟩, ⟨24, 8, .ro, 0xE0, 15⟩]⟩,
   ⟨0x10, [], .no, [⟨0, 32, .rw, 0x0, 15⟩]⟩]

/-- The registers of chapter 14. -/
def regTable14 : List RegDef :=
  [⟨0x180000, [(0x100, 256), (0x4, 16)], .no, [⟨0, 32, .rw, 0x0, 1⟩]⟩,
   ⟨0x180040, [(0x100, 256)], .no, [⟨0, 12, .ro, 0x0, 1⟩, ⟨16, 16, .ro, 0x0, 1⟩]⟩,
   ⟨0x180044, [(0x100, 256)], .no, [⟨0, 16, .ro, 0x0, 1⟩, ⟨16, 5, .ro, 0x0, 1⟩, ⟨24, 8, .ro, 0x0, 1⟩]⟩,
   ⟨0x180048, [(0x100, 256)], .no, [⟨0, 1, .wo, 0x0, 0⟩, ⟨1, 5, .wo, 0x0, 0⟩, ⟨8, 8, .wo, 0x0, 0⟩]⟩,
   ⟨0x18004C, [(0x100, 256)], .no, [⟨0, 1, .ro, 0x0, 1⟩, ⟨1, 1, .ro, 0x0, 1⟩, ⟨2, 1, .w1c, 0x0, 1⟩, ⟨3, 1, .w1c, 0x0, 1⟩, ⟨4, 1, .w1c, 0x0, 1⟩, ⟨5, 1, .w1c, 0x0, 1⟩]⟩,
   ⟨0x180050, [(0x100, 256)], .no, [⟨0, 20, .rw, 0x186A0, 1⟩]⟩,
   ⟨0x181054, [(0x100, 208)], .no, [⟨0, 18, .rw, 0x0, 1⟩]⟩,
   ⟨0x181058, [(0x100, 208)], .no, [⟨0, 18, .rw, 0x0, 1⟩]⟩]

/-- The registers of chapter 15. -/
def regTable15 : List RegDef :=
  [⟨0x3C0000, [], .no, [⟨0, 1, .ro, 0x0, 6⟩]⟩,
   ⟨0x3C0010, [], .no, [⟨0, 8, .rw, 0xA, 7⟩, ⟨8, 1, .rw, 0x1, 7⟩]⟩,
   ⟨0x3C0014, [], .no, [⟨0, 1, .w1c, 0x0, 7⟩, ⟨16, 16, .ro, 0x0, 7⟩]⟩,
   ⟨0x3C0100, [(0x4, 26)], .no, [⟨0, 16, .rc, 0x0, 7⟩, ⟨16, 16, .rc, 0x0, 7⟩]⟩,
   ⟨0x3C0180, [(0x4, 16)], .no, [⟨0, 16, .rc, 0x0, 7⟩, ⟨16, 16, .rc, 0x0, 7⟩]⟩,
   ⟨0x3C01C0, [(0x4, 4)], .no, [⟨0, 16, .rc, 0x0, 7⟩, ⟨16, 16, .rc, 0x0, 7⟩]⟩,
   ⟨0x3C0200, [], .lo, [⟨0, 32, .ro, 0x0, 7⟩]⟩,
   ⟨0x3C0204, [], .hi, [⟨0, 8, .ro, 0x0, 7⟩]⟩,
   ⟨0x3C0208, [], .no, [⟨0, 8, .ro, 0x0, 7⟩, ⟨8, 6, .ro, 0x0, 7⟩, ⟨15, 1, .w1c, 0x0, 7⟩]⟩,
   ⟨0x3C0300, [], .no, [⟨0, 6, .rw, 0x0, 0⟩, ⟨6, 1, .rw, 0x0, 0⟩, ⟨7, 1, .rw, 0x0, 0⟩]⟩]

/-- The registers of chapter 16. -/
def regTable16 : List RegDef :=
  [⟨0x40000, [], .no, [⟨0, 1, .wo, 0x0, 0⟩, ⟨1, 1, .wo, 0x0, 0⟩]⟩,
   ⟨0x40004, [], .no, [⟨0, 2, .ro, 0x0, 15⟩, ⟨2, 3, .ro, 0x0, 15⟩, ⟨5, 1, .ro, 0x0, 15⟩, ⟨8, 4, .ro, 0x0, 15⟩, ⟨12, 20, .ro, 0x0, 15⟩]⟩,
   ⟨0x40008, [], .no, [⟨0, 20, .rw, 0x2EE0, 15⟩]⟩,
   ⟨0x4000C, [], .no, [⟨0, 4, .rw, 0x3, 15⟩, ⟨4, 28, .rw, 0xAFC80, 15⟩]⟩,
   ⟨0x40010, [], .no, [⟨0, 20, .rw, 0x1D4C0, 15⟩]⟩,
   ⟨0x40014, [], .no, [⟨0, 10, .wo, 0x0, 0⟩]⟩,
   ⟨0x40020, [], .lo, [⟨0, 32, .ro, 0x0, 15⟩]⟩,
   ⟨0x40024, [], .hi, [⟨0, 8, .ro, 0x0, 15⟩]⟩,
   ⟨0x40028, [], .no, [⟨0, 10, .ro, 0x0, 15⟩, ⟨10, 2, .ro, 0x0, 15⟩, ⟨12, 8, .ro, 0x0, 15⟩, ⟨20, 3, .ro, 0x0, 15⟩, ⟨31, 1, .w1c, 0x0, 15⟩]⟩,
   ⟨0x40030, [], .lo, [⟨0, 32, .ro, 0x0, 15⟩]⟩,
   ⟨0x40034, [], .hi, [⟨0, 32, .ro, 0x0, 15⟩]⟩,
   ⟨0x40038, [], .lo, [⟨0, 32, .ro, 0x0, 15⟩]⟩,
   ⟨0x4003C, [], .hi, [⟨0, 32, .ro, 0x0, 15⟩]⟩,
   ⟨0x40100, [(0x4, 32)], .no, [⟨0, 32, .ro, 0x0, 15⟩]⟩,
   ⟨0x40200, [(0x4, 4)], .no, [⟨0, 32, .ro, 0x0, 15⟩]⟩,
   ⟨0x41000, [(0x4, 1024)], .no, [⟨0, 2, .rw, 0x0, 15⟩, ⟨2, 1, .rw, 0x0, 15⟩, ⟨3, 3, .rw, 0x0, 15⟩, ⟨6, 4, .rw, 0x0, 15⟩, ⟨10, 16, .rw, 0x0, 15⟩]⟩,
   ⟨0x42000, [(0x4, 1024)], .no, [⟨0, 16, .rw, 0x0, 15⟩]⟩,
   ⟨0x43000, [(0x4, 1024)], .no, [⟨0, 16, .rc, 0x0, 15⟩, ⟨16, 4, .ro, 0x0, 15⟩]⟩]

/-- The registers of chapter 17. -/
def regTable17 : List RegDef :=
  [⟨0x20000, [], .no, [⟨0, 3, .wo, 0x0, 0⟩, ⟨3, 2, .wo, 0x0, 0⟩, ⟨5, 6, .wo, 0x0, 0⟩, ⟨16, 16, .wo, 0x0, 0⟩]⟩,
   ⟨0x20004, [], .no, [⟨0, 1, .ro, 0x0, 15⟩, ⟨1, 1, .ro, 0x0, 15⟩, ⟨2, 1, .ro, 0x0, 15⟩, ⟨3, 1, .ro, 0x1, 15⟩]⟩,
   ⟨0x20008, [], .no, [⟨0, 1, .w1c, 0x0, 15⟩, ⟨1, 1, .w1c, 0x0, 15⟩, ⟨2, 1, .w1c, 0x0, 15⟩, ⟨3, 1, .w1c, 0x0, 15⟩, ⟨4, 1, .w1c, 0x0, 15⟩, ⟨5, 1, .w1c, 0x0, 15⟩, ⟨6, 1, .w1c, 0x0, 15⟩, ⟨7, 1, .w1c, 0x0, 15⟩, ⟨8, 1, .w1c, 0x0, 15⟩, ⟨9, 1, .w1c, 0x0, 15⟩, ⟨10, 1, .w1c, 0x0, 15⟩, ⟨11, 1, .w1c, 0x0, 15⟩, ⟨12, 1, .w1c, 0x0, 15⟩, ⟨13, 1, .w1c, 0x0, 15⟩, ⟨14, 1, .w1c, 0x0, 15⟩]⟩,
   ⟨0x30000, [], .no, [⟨0, 16, .ro, 0x0, 15⟩]⟩,
   ⟨0x30004, [], .no, [⟨0, 16, .w1c, 0x0, 15⟩]⟩,
   ⟨0x30010, [], .no, [⟨0, 2, .rw, 0x0, 15⟩]⟩,
   ⟨0x30014, [], .no, [⟨0, 3, .ro, 0x0, 15⟩, ⟨3, 1, .w1c, 0x0, 15⟩]⟩,
   ⟨0x30020, [], .no, [⟨0, 32, .rw, 0xFFFFFFFF, 15⟩]⟩,
   ⟨0x30024, [], .no, [⟨0, 4, .rw, 0xF, 15⟩]⟩,
   ⟨0x3002C, [], .no, [⟨0, 4, .ro, 0x0, 15⟩]⟩,
   ⟨0x30030, [], .no, [⟨0, 7, .ro, 0x0, 15⟩, ⟨7, 1, .ro, 0x0, 15⟩]⟩,
   ⟨0x30034, [], .no, [⟨0, 16, .rc, 0x0, 15⟩, ⟨16, 16, .rc, 0x0, 15⟩]⟩,
   ⟨0x30028, [], .no, [⟨0, 32, .ro, 0x0, 15⟩]⟩]

/-- The registers of chapter 18. -/
def regTable18 : List RegDef :=
  [⟨0x3E0000, [], .no, [⟨0, 3, .ro, 0x0, 15⟩, ⟨3, 1, .ro, 0x0, 15⟩, ⟨4, 1, .ro, 0x0, 15⟩, ⟨5, 2, .ro, 0x0, 15⟩, ⟨7, 1, .ro, 0x0, 6⟩, ⟨8, 8, .ro, 0x0, 15⟩, ⟨16, 2, .ro, 0x0, 7⟩]⟩,
   ⟨0x3E0004, [], .no, [⟨0, 32, .ro, 0x0, 15⟩]⟩,
   ⟨0x3E0008, [], .lo, [⟨0, 32, .rw, 0x0, 15⟩]⟩,
   ⟨0x3E000C, [], .hi, [⟨0, 32, .rw, 0x0, 15⟩]⟩,
   ⟨0x3E0010, [], .no, [⟨0, 22, .rw, 0x0, 15⟩]⟩,
   ⟨0x3E0014, [], .no, [⟨0, 1, .wo, 0x0, 0⟩, ⟨1, 1, .wo, 0x0, 0⟩]⟩,
   ⟨0x3E0018, [], .no, [⟨0, 32, .ro, 0x0, 6⟩]⟩,
   ⟨0x3E0020, [], .no, [⟨0, 8, .rw, 0x64, 15⟩, ⟨8, 8, .rw, 0x6E, 15⟩]⟩,
   ⟨0x3E0024, [], .no, [⟨0, 16, .ro, 0x0, 15⟩, ⟨16, 4, .ro, 0x0, 15⟩]⟩,
   ⟨0x3F0000, [], .no, [⟨0, 2, .ro, 0x0, 15⟩, ⟨2, 1, .ro, 0x0, 15⟩, ⟨8, 2, .wo, 0x0, 0⟩, ⟨16, 16, .wo, 0x0, 0⟩]⟩,
   ⟨0x3F0008, [], .lo, [⟨0, 32, .ro, 0x0, 15⟩]⟩,
   ⟨0x3F000C, [], .hi, [⟨0, 32, .ro, 0x0, 15⟩]⟩,
   ⟨0x3F0010, [], .no, [⟨0, 2, .wo, 0x0, 0⟩, ⟨2, 1, .wo, 0x0, 0⟩, ⟨3, 1, .wo, 0x0, 0⟩]⟩,
   ⟨0x3F0014, [], .no, [⟨0, 2, .ro, 0x0, 7⟩, ⟨4, 4, .ro, 0x0, 7⟩, ⟨8, 1, .ro, 0x0, 7⟩, ⟨9, 3, .ro, 0x0, 7⟩]⟩,
   ⟨0x3F0018, [], .no, [⟨0, 8, .ro, 0x0, 15⟩, ⟨8, 8, .ro, 0x0, 6⟩, ⟨16, 16, .wo, 0x0, 0⟩]⟩,
   ⟨0x3F0020, [(0x4, 8)], .no, [⟨0, 32, .ro, 0x0, 0⟩]⟩,
   ⟨0x3F0040, [(0x4, 24)], .no, [⟨0, 32, .wo, 0x0, 0⟩]⟩]

/-- Every register that a table defines (R2). -/
def regTable : List RegDef :=
  regTable1 ++ regTable2 ++ regTable4 ++ regTable5 ++ regTable6 ++ regTable7 ++ regTable8 ++ regTable9 ++ regTable10 ++ regTable11 ++ regTable12 ++ regTable13 ++ regTable14 ++ regTable15 ++ regTable16 ++ regTable17 ++ regTable18

end Sys2Proof.Machine
end

