-- ==== Sys2Proof/Machine/Ops.lean ====
section
/-! DEFINITION. Machine/Ops.lean: the named operations over tables, bits, memory and registers that every meaning
uses. -/

namespace Sys2Proof

/-! ## Sparse tables -/

def Tbl.find {α : Type} : Tbl α → Nat → Option α
  | [], _ => none
  | (k, v) :: t, i => if k = i then some v else Tbl.find t i

/-- The value at key `i`; `d` is what an absent key holds. -/
def Tbl.get {α : Type} (d : α) (t : Tbl α) (i : Nat) : α := (Tbl.find t i).getD d

/-- Insert an entry before the first larger key. -/
def Tbl.insert {α : Type} : Tbl α → Nat → α → Tbl α
  | [], i, v => [(i, v)]
  | (k, w) :: t, i, v => if i < k then (i, v) :: (k, w) :: t else (k, w) :: Tbl.insert t i v

/-- Store `v` at key `i`, keeping the canonical form: keys strictly rising, no entry equal to `d`. -/
def Tbl.put {α : Type} [DecidableEq α] (d : α) (t : Tbl α) (i : Nat) (v : α) : Tbl α :=
  let rest := t.filter fun e => e.1 != i
  if v = d then rest else Tbl.insert rest i v

/-- The entries whose key lies outside [lo, hi): every key in the range reads as absent afterwards. -/
def Tbl.clear {α : Type} (t : Tbl α) (lo hi : Nat) : Tbl α :=
  t.filter fun e => !(decide (lo ≤ e.1) && decide (e.1 < hi))

/-- The canonical form: keys strictly rising and above `lo`, and no entry equal to what its key reads as when absent. -/
def Tbl.wfFrom {α : Type} [DecidableEq α] (d : Nat → α) : Option Nat → Tbl α → Bool
  | _, [] => true
  | lo, (k, v) :: t =>
    (match lo with | none => true | some l => decide (l < k)) && decide (v ≠ d k) && Tbl.wfFrom d (some k) t

end Sys2Proof

namespace Sys2Proof.Machine

/-! ## Outcomes, bits and numbers -/

/-- The outcome of a command: its effect, or a refusal where its operands name what the part does not have. -/
def done (ok : Bool) (s : State) : Host.Outcome State Fault Refusal :=
  if ok then .next s else .refused .illFormed

/-- Bits [lo + w − 1 : lo] of `v` (R8). -/
def bits (v lo w : Nat) : Nat := v / 2 ^ lo % 2 ^ w

def bit (v i : Nat) : Bool := bits v i 1 == 1

/-- `v` with bits [lo + w − 1 : lo] replaced by the low bits of `x`. -/
def putBits (v lo w x : Nat) : Nat :=
  v % 2 ^ lo + (x % 2 ^ w) * 2 ^ lo + v / 2 ^ (lo + w) * 2 ^ (lo + w)

/-- The signed number that the low `w` bits of `v` spell. -/
def sgn (w v : Nat) : Int := (BitVec.ofNat w v).toInt

/-- The low `w` bits of a number in two's complement. -/
def uns (w : Nat) (v : Int) : Nat := (BitVec.ofInt w v).toNat

/-- Clip to a signed word of `w` bits. -/
def clip (w : Nat) (v : Int) : Int :=
  if v > 2 ^ (w - 1) - 1 then 2 ^ (w - 1) - 1 else if v < -(2 ^ (w - 1)) then -(2 ^ (w - 1)) else v

def clips (w : Nat) (v : Int) : Bool := decide (clip w v ≠ v)

def clampN (lo hi v : Nat) : Nat := if v < lo then lo else if v > hi then hi else v

/-- floor(v / 2^sh) of a signed number. -/
def asr (v : Int) (sh : Nat) : Int := v / (2 ^ sh : Int)

/-- floor((v + 2^(sh − 1)) / 2^sh), or `v` for sh = 0: rounding half up, as R86 does. -/
def rnd (v : Int) (sh : Nat) : Int := if sh = 0 then v else asr (v + 2 ^ (sh - 1)) sh

def ceilDiv (a b : Nat) : Nat := (a + b - 1) / b

def b2n (b : Bool) : Nat := if b then 1 else 0

def modList {α : Type} (l : List α) (i : Nat) (f : α → α) : List α := l.modify i f

/-- The little-endian bytes of `v` (R9). -/
def leBytes (n v : Nat) : List Byte := (List.range n).map fun (i : Nat) => BitVec.ofNat 8 (v / 256 ^ i)

def leNat : List Byte → Nat
  | [] => 0
  | b :: t => b.toNat + 256 * leNat t

/-! ## Memory -/

/-- The canonical form of a memory: an unlisted byte reads as zero. -/
def Memory.wf (m : Memory) : Bool := Tbl.wfFrom (fun _ => (0 : Byte)) none m

def Memory.rd (m : Memory) (a : Nat) : Byte := Tbl.get 0 m a

def Memory.wr (m : Memory) (a : Nat) (v : Byte) : Memory := Tbl.put 0 m a v

def Memory.rdN (m : Memory) (a n : Nat) : List Byte := (List.range n).map fun (i : Nat) => Memory.rd m (a + i)

def Memory.wrN (m : Memory) (a : Nat) : List Byte → Memory
  | [] => m
  | b :: t => Memory.wrN (Memory.wr m a b) (a + 1) t

/-- A 32-bit little-endian word at byte address `a`. -/
def Memory.rd32 (m : Memory) (a : Nat) : W32 := BitVec.ofNat 32 (leNat (Memory.rdN m a 4))

def Memory.wr32 (m : Memory) (a : Nat) (v : W32) : Memory := Memory.wrN m a (leBytes 4 v.toNat)

def Memory.rd64 (m : Memory) (a : Nat) : W64 := BitVec.ofNat 64 (leNat (Memory.rdN m a 8))

/-- Zero every byte of [lo, hi). -/
def Memory.zero (m : Memory) (lo hi : Nat) : Memory := Tbl.clear m lo hi

/-- Copy `n` bytes from `src` to `dst`. -/
def Memory.copy (m : Memory) (src dst n : Nat) : Memory :=
  (m.filter fun e => decide (src ≤ e.1) && decide (e.1 < src + n)).foldl
    (fun acc e => Memory.wr acc (e.1 - src + dst) e.2) (Memory.zero m dst (dst + n))

/-! ## Register words (R1 to R7) -/

/-- The OTP values of FLT_SRC_CFG (Table 16.1, R384): class, rung, N and W by source. -/
def sourceCfg (src : Nat) : Nat :=
  let g := src / 16
  let o := src % 16
  let cfg (cls rung n w : Nat) : Nat := cls + 4 + 8 * rung + 64 * n + 1024 * w
  let none := 1024
  let inList (l : List Nat) : Option Nat := l[o]?
  let plain (l : List Nat) : Nat := match inList l with
    | some c => cfg c 0 0 1
    | Option.none => none
  if g = 0 then
    if o = 0 then cfg 3 4 0 1
    else if o = 3 then cfg 1 0 8 12000
    else if o = 5 then cfg 3 3 0 1
    else if o = 6 then cfg 3 4 0 1
    else plain [3, 1, 0, 1, 1, 3, 3, 0, 3]
  else if g = 1 then plain [2, 0, 2, 0]
  else if g ≤ 27 then
    if o < 8 then cfg 1 0 15 12000
    else if o = 8 ∨ o = 11 then cfg 2 1 0 1
    else if o = 10 then cfg 0 0 15 12000
    else plain [1, 1, 1, 1, 1, 1, 1, 1, 2, 1, 0, 2, 2, 2, 1, 2]
  else if g = 28 then plain [1, 0, 1, 0]
  else if g = 29 then plain [1]
  else if g ≤ 41 then
    if o % 4 = 3 then cfg 2 1 0 1 else if o % 4 = 2 then cfg 0 0 0 1 else cfg 1 0 0 1
  else if g ≤ 47 then (if o % 2 = 0 then cfg 1 0 0 1 else cfg 2 0 0 1)
  else if g ≤ 53 then (if o = 3 then cfg 2 1 0 1 else plain [1, 0, 1, 2, 1])
  else if g = 54 then plain [1, 1]
  else if g = 55 then plain [1, 1, 0, 1, 1, 1, 1]
  else if g = 56 then plain [1, 2, 2, 2, 1]
  else if g = 57 then plain [1, 2]
  else if g = 58 then (if o = 4 then cfg 0 0 15 12000 else plain [1, 1, 2, 1, 0, 2, 1, 0])
  else if g = 59 then plain [1, 1, 0]
  else if g = 60 then plain [2, 0, 1, 0]
  else if g = 61 then plain [1]
  else none

/-- The OTP values of FLT_SRC_GRACE (Table 16.1): 1,000 µs where the table says so, else 0. -/
def sourceGrace (src : Nat) : Nat :=
  let g := src / 16
  let o := src % 16
  if 2 ≤ g ∧ g ≤ 27 ∧ (o = 8 ∨ o = 11) then 1000
  else if 30 ≤ g ∧ g ≤ 41 ∧ o % 4 = 3 then 1000
  else if 48 ≤ g ∧ g ≤ 53 ∧ o = 3 then 1000
  else 0

/-- The indices of offset `o` in the arrays of `dims`, which nest from the outermost in. -/
def dimMatch : Nat → List (Nat × Nat) → Bool
  | o, [] => o == 0
  | o, (stride, count) :: t => decide (o / stride < count) && dimMatch (o % stride) t

/-- Whether `r` holds the word at BAR0 offset `off`. -/
def RegDef.covers (r : RegDef) (off : Nat) : Bool :=
  decide (r.base ≤ off) && dimMatch (off - r.base) r.dims

/-- The table entry of BAR0 offset `off` (R2). -/
def regAt (off : Nat) : Option RegDef := regTable.find? fun r => r.covers off

def fieldsAt (off : Nat) : List FieldDef := match regAt off with
  | some r => r.fields
  | none => []

/-- Reset words that an index or OTP fixes; the rest follow from the tables (R6). -/
def resetSpecial (off : Nat) : Option Nat :=
  if 0x41000 ≤ off ∧ off < 0x42000 then some (sourceCfg ((off - 0x41000) / 4))
  else if 0x42000 ≤ off ∧ off < 0x43000 then some (sourceGrace ((off - 0x42000) / 4))
  else if off = 0x60180 then some 1
  else if off = REF_CAND_CFG 15 then some (1 + 7 * 64)
  else if REF_CAND_STATUS 0 ≤ off ∧ off < 0x50300 ∧ off % 0x20 = 0xC then
    some (if 8 ≤ (off - 0x50100) / 0x20 ∧ (off - 0x50100) / 0x20 ≤ 14 then 6 * 128 else 7 * 128)
  else none

/-- The word that a register holds after a reset that clears all of it (R6). -/
def resetWord (off : Nat) : W32 := BitVec.ofNat 32 (match resetSpecial off with
  | some v => v
  | none => (fieldsAt off).foldl (fun a f => putBits a f.lo f.w f.reset) 0)

/-- The stored word of a register. -/
def State.rd (s : State) (off : Nat) : W32 := Tbl.get (resetWord off) s.regs off

def State.wr (s : State) (off : Nat) (v : W32) : State :=
  { s with regs := Tbl.put (resetWord off) s.regs off v }

/-- A register field as a number, and its update by the part. -/
def State.fget (s : State) (f : Fd) : Nat := bits (s.rd f.off).toNat f.lo f.w

def State.fset (s : State) (f : Fd) (v : Nat) : State :=
  s.wr f.off (BitVec.ofNat 32 (putBits (s.rd f.off).toNat f.lo f.w v))

/-- Whether a one-bit field is set. -/
def State.on (s : State) (f : Fd) : Bool := s.fget f == 1

/-- Add `d` to a counter field that holds at its highest value. -/
def State.count (s : State) (f : Fd) (d : Nat) : State :=
  s.fset f (min (s.fget f + d) (2 ^ f.w - 1))

/-- A whole word as a field. -/
def word (off : Nat) : Fd := ⟨off, 0, 32⟩

/-- The 64-bit value of a register pair, by its _LO offset (R4). -/
def State.get64 (s : State) (off : Nat) : Nat := (s.rd off).toNat + 2 ^ 32 * (s.rd (off + 4)).toNat

def State.set64 (s : State) (off v : Nat) : State :=
  (s.wr off (BitVec.ofNat 32 v)).wr (off + 4) (BitVec.ofNat 32 (v / 2 ^ 32))

/-! ## Sub-states by index -/

def State.core (s : State) (cl j : Nat) : Core := Tbl.get {} s.cores (8 * cl + j)
def State.setCore (s : State) (cl j : Nat) (x : Core) : State :=
  { s with cores := Tbl.put {} s.cores (8 * cl + j) x }
def State.cluster (s : State) (cl : Nat) : Cluster := Tbl.get {} s.clusters cl
def State.setCluster (s : State) (cl : Nat) (x : Cluster) : State :=
  { s with clusters := Tbl.put {} s.clusters cl x }
def State.port (s : State) (p : Nat) : Port := Tbl.get {} s.ports p
def State.setPort (s : State) (p : Nat) (x : Port) : State := { s with ports := Tbl.put {} s.ports p x }
def State.asrcCh (s : State) (a : Nat) : Asrc := Tbl.get {} s.asrc a
def State.setAsrc (s : State) (a : Nat) (x : Asrc) : State := { s with asrc := Tbl.put {} s.asrc a x }
def State.chain (s : State) (c : Nat) : Chain := Tbl.get {} s.chains c
def State.setChain (s : State) (c : Nat) (x : Chain) : State := { s with chains := Tbl.put {} s.chains c x }
def State.flue (s : State) (p : Nat) : Flue := Tbl.get {} s.flues p
def State.setFlue (s : State) (p : Nat) (x : Flue) : State := { s with flues := Tbl.put {} s.flues p x }
def State.group (s : State) (g : Nat) : FlueGroup := Tbl.get {} s.groups g
def State.setGroup (s : State) (g : Nat) (x : FlueGroup) : State := { s with groups := Tbl.put {} s.groups g x }
def State.net (s : State) (p : Nat) : Net := Tbl.get {} s.nets p
def State.setNet (s : State) (p : Nat) (x : Net) : State := { s with nets := Tbl.put {} s.nets p x }
def State.rxs (s : State) (i : Nat) : Stream := Tbl.get {} s.rx i
def State.setRxs (s : State) (i : Nat) (x : Stream) : State := { s with rx := Tbl.put {} s.rx i x }
def State.txs (s : State) (i : Nat) : Stream := Tbl.get {} s.tx i
def State.setTxs (s : State) (i : Nat) (x : Stream) : State := { s with tx := Tbl.put {} s.tx i x }
def State.dom (s : State) (x : Nat) : Dom := Tbl.get {} s.tmb.doms x
def State.setDom (s : State) (x : Nat) (d : Dom) : State :=
  { s with tmb := { s.tmb with doms := Tbl.put {} s.tmb.doms x d } }
def State.cand (s : State) (i : Nat) : Cand := Tbl.get {} s.ref.cands i
def State.setCand (s : State) (i : Nat) (x : Cand) : State :=
  { s with ref := { s.ref with cands := Tbl.put {} s.ref.cands i x } }
def State.mbox (s : State) (m : Nat) : Mbox := Tbl.get {} s.mail.boxes m
def State.setMbox (s : State) (m : Nat) (x : Mbox) : State :=
  { s with mail := { s.mail with boxes := Tbl.put {} s.mail.boxes m x } }

/-- Apply `f` for each element of a list in turn. -/
def State.each {α : Type} (s : State) (l : List α) (f : State → α → State) : State := l.foldl f s

def State.when (s : State) (c : Bool) (f : State → State) : State := if c then f s else s

/-! ## Clocks and modes that many rules read -/

/-- Sample index n (R13), tick index k, tick length T in force and the rate family in force (R16, R18). -/
def State.n (s : State) : Nat := s.get64 SCH_N
def State.k (s : State) : Nat := s.get64 SCH_K
def State.tlen (s : State) : Nat := 4 * 2 ^ s.fget SCH_STATUS_TICK_ACT
def State.running (s : State) : Bool := s.on SCH_STATUS_ENGINE_RUN
def State.nValid (s : State) : Bool := s.on SCH_STATUS_N_VALID
def State.family (s : State) : Nat := s.fget SCH_STATUS_FAMILY_ACT

/-- The clock-good indication of clock `b` has qualified (R409). -/
def good (s : State) (b : Nat) : Bool := s.on ⟨CLK_GOOD, b, 1⟩

/-- n at count C (Table 1.10): the tick's first sample and the M edges since it at the rate of the DCO (R290), within the
tick. -/
def State.nNow (s : State) : Nat :=
  if ¬ s.nValid then s.n
  else
    let fs : Int := if s.family = 0 then 96000 else 88200
    let e := ((s.tmb.c : Int) - s.sch.ck) * fs * (2 ^ 48 + sgn 64 (s.get64 REF_DCO_FFO)) / (500000000 * 2 ^ 48)
    s.n + min (s.tlen - 1 - s.n % s.tlen) e.toNat

/-- Draw a fresh free value: `f` applied to the count of values drawn so far. -/
def State.draw {α : Type} (s : State) (f : Nat → α) : α × State := (f s.drawn, { s with drawn := s.drawn + 1 })

end Sys2Proof.Machine
end

