-- ==== Sys2Proof/Machine/Report.lean ====
section
/-! DEFINITION. Machine/Report.lean: how a source raises an event (R383 to R388) and how records wait for the event
ring (R346). Taking a rung is Machine/Fault.lean. -/

namespace Sys2Proof.Machine

/-- Source number of offset `o` in group `g` (R383). -/
def srcOf (g o : Nat) : Nat := 16 * g + o

/-- DETAIL in the plain form and in the address form (Table 16.2). -/
def plain (sub unit arg16 arg32 : Nat) : Nat :=
  sub % 256 + 256 * (unit % 256) + 65536 * (arg16 % 65536) + 2 ^ 32 * (arg32 % 2 ^ 32)

def addrForm (addr master access m : Nat) : Nat :=
  addr % 2 ^ 40 + 2 ^ 40 * (master % 256) + 2 ^ 48 * (access % 256) + 2 ^ 56 * (m % 256)

/-- Whether an offset lies in the span of `n` bytes from `lo`. -/
def inSpan (off lo n : Nat) : Bool := decide (lo ≤ off) && decide (off < lo + n)

/-- Sources of the address form: those marked A in Table 16.1. -/
def isAddrForm (src : Nat) : Bool :=
  let g := src / 16
  let o := src % 16
  (decide (2 ≤ g) && decide (g ≤ 27) && (o == 10 || o == 11 || o == 15)) || (g == 58 && decide (o ≤ 5))

/-- The load groups of R225. -/
def isLoadGroup (g : Nat) : Bool := decide (42 ≤ g) && decide (g ≤ 47)

/-- A source whose unit is in reset or powered off raises nothing, except CLK_LOST (R383). -/
def sourceDown (s : State) (src : Nat) : Bool :=
  let g := src / 16
  let o := src % 16
  if 2 ≤ g ∧ g ≤ 27 then s.pwr.clusters.contains (g - 2)
  else if g = 28 ∨ g = 29 then s.pwr.engineRst
  else if 30 ≤ g ∧ g ≤ 41 then s.pwr.ports.contains (4 * (g - 30) + o / 4)
  else if isLoadGroup g then s.pwr.ports.contains (8 * (g - 42) + o / 2)
  else if 48 ≤ g ∧ g ≤ 53 then s.pwr.nets.contains (g - 48)
  else if g = 56 then s.pwr.twinRst
  else if g = 59 then s.pwr.hifRst
  else if src = 60 * 16 then s.pwr.mgmtRst
  else false

/-- The class, RUNG and EN that a source acts by: FLT_SRC_CFG, but CFG_PARITY is raised whatever its word holds
(R384, R397). -/
def srcEn (s : State) (src : Nat) : Bool := src == 0 || s.on (FLT_SRC_CFG_EN src)
def srcClass (s : State) (src : Nat) : Nat := if src = 0 then 3 else s.fget (FLT_SRC_CFG_CLASS src)
def srcRung (s : State) (src : Nat) : Nat :=
  if src = 0 then 4
  else if isLoadGroup (src / 16) ∨ s.fget (FLT_SRC_CFG_RUNG src) > 4 then 0
  else s.fget (FLT_SRC_CFG_RUNG src)

/-- The position of the oldest record of the lowest class in the event queue (R346). -/
def dropAt (q : List EventRec) : Nat :=
  let low := q.foldl (fun m r => min m r.cls) 4
  q.findIdx (fun r => r.cls == low)

/-- Table 13.6. -/
def evtBytes (r : EventRec) (phase : Nat) : List Byte :=
  leBytes 2 r.src ++ leBytes 1 r.cls ++ leBytes 1 (phase + 2 * b2n r.raised + 4 * b2n r.first) ++ leBytes 4 r.seq.toNat ++
  leBytes 8 r.n.toNat ++ leBytes 8 r.c.toNat ++ leBytes 8 r.detail.toNat

/-! ## Log entries (R348, R425, Table 18.2) -/

/-- The firmware runs. -/
def firmwareUp (s : State) : Bool :=
  (s.fget MGT_BOOT_STATUS_STAGE == 3 || s.fget MGT_BOOT_STATUS_STAGE == 4) && !s.pwr.mgmtRst && !s.mgmt.halted

/-- The CODE of an entry: of its level's range, where Table 18.2 names no more than the range a free value by subject. -/
def logCode (level subject : Nat) : Nat :=
  let v := (Config.logCode subject).toNat
  if level = 0 then 1 + v % 255 else 256 * level + v

/-- A log entry: to the always-on log, from LEVEL 3 on to the flash log, and from the set level on to the log ring. -/
def writeLog (s : State) (level code : Nat) (args : List Byte) : State :=
  let m := s.mgmt
  let seq : W32 := match m.aoLog.getLast? with
    | some r => r.seq + 1
    | none => 1
  let r : LogRec := { seq := seq, level := level, code := code, n := BitVec.ofNat 64 s.nNow, args := args }
  let ring := decide (m.ringLevel ≤ level) && !s.pwr.hifRst && s.on HIF_CTRL_EN
  { s with
    mgmt := { m with
      aoLog := (m.aoLog ++ [r]).drop (m.aoLog.length + 1 - 4096)
      flashLog := if 3 ≤ level then (m.flashLog ++ [r]).drop (m.flashLog.length + 1 - 65536) else m.flashLog }
    hif := if ring then { s.hif with logs := s.hif.logs ++ [r] } else s.hif }

/-- The firmware copies the records of class MINOR and above. -/
def copyRecord (s : State) (r : EventRec) : State :=
  s.when (decide (1 ≤ r.cls) && firmwareUp s) (writeLog · 5 (logCode 5 r.src) (evtBytes r 0))

/-- Put a record on the event queue of 1,024 records (R346); while HIF_CTRL.EN is 0 it is discarded (R352). -/
def enqueueEvent (s : State) (r : EventRec) : State :=
  if s.pwr.hifRst then s
  else if ¬ s.on HIF_CTRL_EN then s.count HIF_CNT0_EVT_DROP 1
  else if s.hif.events.length < 1024 then { s with hif := { s.hif with events := s.hif.events ++ [r] } }
  else
    let i := dropAt s.hif.events
    let s := s.count HIF_CNT0_EVT_DROP 1
    match s.hif.events[i]? with
    | some o => if o.cls ≤ r.cls then { s with hif := { s.hif with events := s.hif.events.eraseIdx i ++ [r] } } else s
    | none => s

/-- The counting rule (R386): the count and window after an event, and whether the event is raised one class. -/
def countRule (s : State) (src : Nat) : State × Bool :=
  let n := s.fget (FLT_SRC_CFG_N src)
  if n = 0 then (s, false)
  else
    let opened := Tbl.get 0 s.flt.window src
    let cur := if opened = 0 then 1 else s.fget (FLT_SRC_CNT_CUR src) + 1
    let w := if opened = 0 then max 1 (s.fget (FLT_SRC_CFG_W src)) + 1 else opened
    if cur ≥ n then
      ({ s.fset (FLT_SRC_CNT_CUR src) 0 with flt := { s.flt with window := Tbl.put 0 s.flt.window src 0 } }, true)
    else
      ({ s.fset (FLT_SRC_CNT_CUR src) cur with flt := { s.flt with window := Tbl.put 0 s.flt.window src w } }, false)

/-- The first-error capture (R387). -/
def captureFirst (s : State) (src cls detail : Nat) : State :=
  let s := s.set64 FLT_FIRST_ADDR (if isAddrForm src then bits detail 0 40 else 0)
  let s := s.fset FLT_FIRST_INFO_SRC src
  let s := s.fset FLT_FIRST_INFO_CLASS cls
  let s := s.fset FLT_FIRST_INFO_MASTER (if isAddrForm src then bits detail 40 8 else 0xFF)
  let s := s.fset FLT_FIRST_INFO_ACCESS (if isAddrForm src then bits detail 48 8 else 0)
  let s := s.fset FLT_FIRST_INFO_VALID 1
  let s := s.set64 FLT_FIRST_N s.nNow
  s.set64 FLT_FIRST_C s.tmb.c

/-- Set the pending bit of a source and start its grace timer (R388); one already pending keeps its timer. -/
def startGrace (s : State) (src cls : Nat) : State :=
  let i := FLT_PEND (src / 32)
  let f : Fd := ⟨i, src % 32, 1⟩
  if s.on f then s
  else
    let us := if cls = 3 then 0 else s.fget (FLT_SRC_GRACE_GRACE src)
    { s.fset f 1 with flt := { s.flt with grace := Tbl.put 0 s.flt.grace src (s.tmb.c + 500 * us) } }

/-- Local evidence against the unit of a source group (R311): an ECC exception, an uncorrectable error or R309, and any
event of class MAJOR or CRITICAL. -/
def noteEvidence (s : State) (g : Nat) : State :=
  if s.ember.evNow.contains g then s else { s with ember := { s.ember with evNow := g :: s.ember.evNow } }

def eccSource (src : Nat) : Bool :=
  let o := src % 16
  decide (2 ≤ src / 16) && decide (src / 16 ≤ 27) && (o == 8 || o == 11 || o == 15)

/-- The quiet count starts anew with the next tick (R395). -/
def restartQuiet (s : State) : State :=
  { s.fset FLT_STATUS_QUIET 0 with flt := { s.flt with noisy := true } }

/-- An event of source `src` (R383 to R388), with no look at parity. -/
def raiseOnce (s : State) (src detail : Nat) : State :=
  if sourceDown s src ∧ src ≠ srcOf 1 0 then s
  else
    let s := s.count (FLT_SRC_CNT_COUNT src) 1
    let s := s.when (eccSource src) (noteEvidence · (src / 16))
    if ¬ srcEn s src then s
    else
      let (s, up) := countRule s src
      let cls := if up then min 3 (srcClass s src + 1) else srcClass s src
      let first := decide (1 ≤ cls) && !s.on FLT_FIRST_INFO_VALID
      let s := s.when first (captureFirst · src cls detail)
      let seq := s.flt.seq + 1
      let s := { s with flt := { s.flt with seq := seq } }
      let r : EventRec := ⟨src, cls, up, first, seq, BitVec.ofNat 64 s.nNow, BitVec.ofNat 64 s.tmb.c, BitVec.ofNat 64 detail⟩
      let s := copyRecord (enqueueEvent s r) r
      let s := s.when (decide (2 ≤ cls) && !isLoadGroup (src / 16)) (noteEvidence · (src / 16))
      let quiet := decide (2 ≤ cls) && !isLoadGroup (src / 16) && src != 1 && src != 8
      let s := s.when (quiet && s.fget FLT_STATUS_STATE == 1) restartQuiet
      s.when (decide (2 ≤ cls) && decide (1 ≤ srcRung s src)) (startGrace · src cls)

/-- A source raises an event. The parity of its configuration words is checked at their use (R397). -/
def raise (s : State) (src detail : Nat) : State :=
  let s' := raiseOnce s src detail
  if s.flt.badParity.contains (FLT_SRC_CFG src) ∨ s.flt.badParity.contains (FLT_SRC_GRACE src) then
    raiseOnce (s'.fset FLT_STATUS_PARITY_ERR 1) 0 0
  else s'

/-- REG_ACCESS with its SUB (R385): 1 undefined address, 2 wrong size or alignment, 3 ignored write. -/
def regAccess (s : State) (sub off : Nat) : State := raise s (srcOf 0 2) (plain sub 0 0 off)

/-- Word `k` = 0 … 31 of a 32-word fade (06). -/
def fadeWord (x : Int) (k : Nat) (fadeIn : Bool) : Int :=
  rnd (x * (if fadeIn then k + 1 else 31 - k : Nat)) 5

end Sys2Proof.Machine
end

