-- ==== Sys2Proof/Machine/Ecc.lean ====
section
/-! DEFINITION. Machine/Ecc.lean: the internal address map (R374) and memory accesses with their check bits
(R376 to R378, R382). The check bits of a 64-bit word are modelled by what a read finds: `mtx.ue` and `mtx.ce` list the
words that read as uncorrectable and as corrected. -/

namespace Sys2Proof.Machine

def mgmtBase : Nat := 0x0100000000
def clusterBase (c : Nat) : Nat := 0x1000000000 + c * 0x01000000
def delayBase : Nat := 0x2000000000
def netBase : Nat := 0x2800000000
def mixBase : Nat := 0x2C00000000
def slotStoreBase : Nat := 0x2E00000000
def regBase : Nat := 0x3000000000

/-- Whether an offset of a cluster window is populated (Table 2.2). -/
def clusterPopulated (o : Nat) : Bool :=
  if o < 0x400000 then decide (o % 0x80000 < 0x70000) else decide (o < 0x480000)

/-- The memory index m of an address (R381), or none where no memory is populated (Table 15.3). -/
def memIndex (a : Nat) : Option Nat :=
  if a < 0x400000 then some 0x33
  else if mgmtBase ≤ a ∧ a < mgmtBase + 0x400000 then some 0x33
  else if 0x1000000000 ≤ a ∧ a < clusterBase 26 then
    (if clusterPopulated (a % 0x01000000) then some ((a - 0x1000000000) / 0x01000000) else none)
  else if delayBase ≤ a ∧ a < delayBase + 0x6000000 then some (0x20 + a / 64 % 16)
  else if netBase ≤ a ∧ a < netBase + 0xC00000 then some 0x30
  else if mixBase ≤ a ∧ a < mixBase + 0x400000 then some 0x31
  else if slotStoreBase ≤ a ∧ a < slotStoreBase + 0x400000 then some 0x32
  else none

def memIdx (a : Nat) : Nat := (memIndex a).getD 0xFF

/-- The ECC counters of memory m (R381). -/
def eccCnt (m : Nat) : Nat := MTX_ECC_CNT m

/-- The source group whose twin class reads for a master (R378, R323). -/
def readerGroup (master : Nat) : Option Nat :=
  if master < 26 then some (master + 2)
  else if master = 0x20 then some 28
  else if master = 0x21 then some 48
  else if master = 0x22 then some 30
  else none

/-- A read that meets an uncorrectable word at `a` (R378): the count, the capture and the source that the reader raises. -/
def noteUE (s : State) (a master access src : Nat) (detail : Nat) : State :=
  let m := memIdx a
  let s := s.count ⟨eccCnt m, 16, 16⟩ 1
  let s := s.when (!s.on MTX_UE_INFO_UE_VALID) fun s =>
    ((((s.set64 MTX_UE_ADDR a).fset MTX_UE_INFO_MASTER master).fset MTX_UE_INFO_MEM m).fset MTX_UE_INFO_UE_VALID 1)
  let s := s.when (decide (m < 26)) (noteEvidence · (m + 2))
  let shared := m == 0x32 || (decide (0x20 ≤ m) && decide (m < 0x30))
  let s := match readerGroup master with
    | some g => s.when shared (noteEvidence · g)
    | none => s
  raise s src (if isAddrForm src then addrForm a master access m else detail)

/-- A read that meets a corrected word (R378). -/
def noteCE (s : State) (a master access : Nat) : State :=
  let m := memIdx a
  let s := s.count ⟨eccCnt m, 0, 16⟩ 1
  raise s (if m < 26 then srcOf (m + 2) 10 else srcOf 58 4) (addrForm a master access m)

/-- The 64-bit words that a range of bytes touches, by address. -/
def words64 (a n : Nat) : List Nat :=
  if n = 0 then [] else (List.range ((a + n - 1) / 8 - a / 8 + 1)).map fun (i : Nat) => 8 * (a / 8 + i)

def State.hasUE (s : State) (a n : Nat) : Bool := (words64 a n).any fun w => s.mtx.ue.contains w

/-- Any read but a core's own: corrected words are counted, an uncorrectable word is reported, and whether one was met
(R378). -/
def checkRead (s : State) (a n master access : Nat) : State × Bool :=
  let ws := words64 a n
  let s := s.each (ws.filter fun w => s.mtx.ce.contains w && !s.mtx.ue.contains w) fun s w => noteCE s w master access
  let s := s.each (ws.filter fun w => s.mtx.ue.contains w) fun s w =>
    noteUE s w master access (if memIdx w < 26 then srcOf (memIdx w + 2) 11 else srcOf 58 5) 0
  (s, ws.any fun w => s.mtx.ue.contains w)

/-- The check bits of one 64-bit word after a write (R377): a full write leaves it good, or as an armed injection says
(R381); a narrower one keeps an uncorrectable word uncorrectable. The armed injection inverts data bit 0, and bit 1. -/
def markWord (s : State) (w : Nat) (full : Bool) : State :=
  if ¬ full then { s with mtx := { s.mtx with ce := s.mtx.ce.filter (· ≠ w) } }
  else
    let s := { s with mtx := { s.mtx with ue := s.mtx.ue.filter (· ≠ w), ce := s.mtx.ce.filter (· ≠ w) } }
    if s.on MTX_ECC_INJ_ARM ∧ s.fget MTX_ECC_INJ_MEM = memIdx w then
      let s' := s.fset MTX_ECC_INJ_ARM 0
      if s.on MTX_ECC_INJ_DOUBLE then
        { s' with
          mem := Memory.wr s.mem w (Memory.rd s.mem w ^^^ 3#8)
          mtx := { s.mtx with ue := w :: s.mtx.ue } }
      else { s' with mtx := { s.mtx with ce := w :: s.mtx.ce } }
    else s

/-- Store bytes at an internal address, with their check bits. -/
def storeBytes (s : State) (a : Nat) (bs : List Byte) : State :=
  let n := bs.length
  let s := { s with mem := Memory.wrN s.mem a bs }
  s.each (words64 a n) fun s w => markWord s w (decide (a ≤ w) && decide (w + 8 ≤ a + n))

def store32 (s : State) (a : Nat) (v : W32) : State := storeBytes s a (leBytes 4 v.toNat)

/-- Zero a range with valid check bits (R44, R141). -/
def zeroRange (s : State) (lo hi : Nat) : State :=
  { s with
    mem := Memory.zero s.mem lo hi
    mtx := { s.mtx with
      ue := s.mtx.ue.filter fun w => !(decide (lo ≤ w) && decide (w < hi))
      ce := s.mtx.ce.filter fun w => !(decide (lo ≤ w) && decide (w < hi)) } }

end Sys2Proof.Machine
end

