-- ==== Sys2Proof/Machine/Slots.lean ====
section
/-! DEFINITION. Machine/Slots.lean: the slot store and its LIVE flags (R19 to R24, R36, R462). -/

namespace Sys2Proof.Machine

/-- The exponent of a DOMAIN code. The slot with the reserved code 3 is disabled and the spec gives it no word count; its
consumers and its producer count words as in the M domain, the reset value (DESIGN CHOICE, log entry 33). -/
def domExp (dom : Nat) : Nat := if dom = 3 then 1 else dom

/-- Words per tick of T M samples in domain 0 L, 1 M, 2 F (R19). -/
def domWords (t dom : Nat) : Nat := t * 2 ^ domExp dom / 2

/-- The domain index of the first word of the tick whose first sample is `n` (R15). -/
def domIndex (n dom : Nat) : Nat := n * 2 ^ domExp dom / 2

/-- A producer identifier that Table 1.3 lists (R24). -/
def producerOk (p : Nat) : Bool :=
  (decide (0x100 ≤ p) && decide (p ≤ 0x12F)) || (decide (0x200 ≤ p) && decide (p ≤ 0x8BF)) || p == 0x900 ||
  (decide (0xA00 ≤ p) && decide (p ≤ 0xDFF)) || (decide (0xE00 ≤ p) && decide (p ≤ 0xE17)) ||
  (decide (0xF00 ≤ p) && decide (p ≤ 0xF2F))

/-- Whether the slot carries anything: EN set, a domain that is not reserved and a listed producer (R24). -/
def State.slotOn (s : State) (i : Nat) : Bool :=
  s.on (SCH_SLOT_CFG_EN i) && s.fget (SCH_SLOT_CFG_DOMAIN i) != 3 && producerOk (s.fget (SCH_SLOT_CFG_PRODUCER i))

/-- The buffers that producers write and consumers read in this tick (R20). -/
def State.wbuf (s : State) : Nat := (s.k + s.sch.bufOff) % 2
def State.rbuf (s : State) : Nat := 1 - s.wbuf

def slotAddr (b slot i : Nat) : Nat := slotStoreBase + b * 0x200000 + 256 * slot + 4 * i

/-! ## Patch fades (R149, R150) -/

def isSetTick : HostOp → Bool
  | .setTick _ => true
  | _ => false

/-- The first sample of the tick at whose start a tick-exact command takes effect, with the T in force there (R30): a
SET_TICK that is scheduled brings its own at its boundary. -/
def boundaryOf (s : State) (nx : Nat) : Nat :=
  let at' := fun t => t * ceilDiv nx t
  match s.sch.held.find? fun h => h.sched && isSetTick h.op with
  | some h => match h.op with
    | .setTick code => at' (if nx ≤ h.nx then s.tlen else 4 * 2 ^ code.toNat)
    | _ => at' s.tlen
  | none => at' s.tlen

def cfgProducer (w : W32) : Nat := bits w.toNat 16 12
def cfgData (w : W32) : Bool := bit w.toNat 3

/-- What the scheduled SLOT_CFG commands write to a slot: boundary and word, in ring order. -/
def pendingCfg (s : State) (slot : Nat) : List (Nat × W32) :=
  s.sch.held.filterMap fun h => match h.sched, h.op with
    | true, .slotCfg first _ _ =>
      if first.toNat ≤ slot then (h.words[slot - first.toNat]?).map fun w => (boundaryOf s h.nx, w) else none
    | _, _ => none

/-- The word in force from boundary `b` on, from `cur` now: at one boundary the later command in ring order governs (R31). -/
def cfgFrom (cur : W32) (l : List (Nat × W32)) (b : Nat) : W32 :=
  (l.foldl (fun (a : Nat × W32) e => if a.1 ≤ e.1 ∧ e.1 ≤ b then e else a) (0, cur)).2

/-- The length P of a patch fade, if patch fades are on (R149). -/
def patchLen (s : State) : Option Nat :=
  let code := s.fget MIX_PATCH_CFG_LEN
  if s.on MIX_PATCH_CFG_EN ∧ code ≠ 7 then some (16 * 2 ^ code) else none

/-- The boundary of the next change of a slot's producer, if the words before it fade. -/
def fadeOutAt (s : State) (slot : Nat) : Option Nat :=
  let cur := s.rd (SCH_SLOT_CFG slot)
  let l := pendingCfg s slot
  match ((l.map (·.1)).filter fun b => cfgProducer (cfgFrom cur l b) != cfgProducer cur).min? with
  | none => none
  | some b => if cfgData (cfgFrom cur l b) ∨ cfgData (cfgFrom cur l (b - 1)) then none else some b

/-- A word as the write path of the slot store changes it while a patch fade runs (R149): `i` is its slot position. A slot
with DATA set carries it unchanged (R23, R150). -/
def fadePatch (s : State) (who slot i : Nat) (v : W32) : W32 :=
  match patchLen s with
  | none => v
  | some p =>
    let dom := s.fget (SCH_SLOT_CFG_DOMAIN slot)
    let scale := fun (v : W32) (a : Nat) => BitVec.ofInt 32 ((v.toInt * a + p / 2) / p)
    if s.on (SCH_SLOT_CFG_DATA slot) then v
    else
      let v := (s.mix.patches.filter fun m => m.slot == slot && m.new == who).foldl (fun v m =>
        let ib := domIndex m.b dom
        if ib ≤ i ∧ i < ib + p then scale v (i - ib + 1) else v) v
      match fadeOutAt s slot with
      | none => v
      | some b =>
        let ib := domIndex b dom
        if ib ≤ i + p ∧ i < ib then scale v (ib - 1 - i) else v

/-- Word `i` of a slot written by unit `who` in this tick (R21). -/
def writeSlot (s : State) (who slot i : Nat) (v : W32) : State :=
  if s.fget (SCH_SLOT_CFG_PRODUCER slot) ≠ who then raise s (srcOf 29 0) 0
  else
    let m := Tbl.get 0 s.sch.written slot
    let v := fadePatch s who slot (domIndex s.n (s.fget (SCH_SLOT_CFG_DOMAIN slot)) + i) v
    let t := store32 s (slotAddr s.wbuf slot i) v
    { t with
      sch := { t.sch with written := Tbl.put 0 t.sch.written slot (m ||| (1#64 <<< i)) } }

/-- The words `vs` of a slot, from word 0 on. -/
def writeSlotAll (s : State) (who slot : Nat) (vs : List W32) : State :=
  if s.fget (SCH_SLOT_CFG_PRODUCER slot) ≠ who then raise s (srcOf 29 0) 0
  else
    let i0 := domIndex s.n (s.fget (SCH_SLOT_CFG_DOMAIN slot))
    let vs := vs.zipIdx.map fun e => fadePatch s who slot (i0 + e.2) e.1
    let s' := storeBytes s (slotAddr s.wbuf slot 0) (vs.flatMap fun v => leBytes 4 v.toNat)
    let m := Tbl.get 0 s'.sch.written slot ||| BitVec.ofNat 64 (2 ^ vs.length - 1)
    { s' with sch := { s'.sch with written := Tbl.put 0 s'.sch.written slot m } }

/-- Make room for this tick's words: the buffer that producers write starts empty (R22). -/
def openSlots (s : State) : State :=
  { s with
    mem := Memory.zero s.mem (slotAddr s.wbuf 0 0) (slotAddr s.wbuf 0 0 + 0x200000)
    sch := { s.sch with written := [] } }

/-- LIVE at the end of the tick: the slot is enabled and its producer wrote every word (R22). -/
def liveAtEnd (s : State) (slot : Nat) : Bool :=
  let w := domWords s.tlen (s.fget (SCH_SLOT_CFG_DOMAIN slot))
  s.slotOn slot && decide (bits (Tbl.get 0 s.sch.written slot).toNat 0 w = 2 ^ w - 1)

/-- The slots whose configuration word is not the reset word; every other slot is disabled. -/
def configuredSlots (s : State) : List Nat :=
  (s.regs.filter fun e => decide (SCH_SLOT_CFG 0 ≤ e.1) && decide (e.1 < SCH_SLOT_CFG 8192)).map fun e =>
    (e.1 - SCH_SLOT_CFG 0) / 4

def closeSlots (s : State) : State :=
  let b := s.wbuf
  let live := (configuredSlots s).foldl (fun t i => Tbl.put false t (8192 * b + i) (liveAtEnd s i))
    (Tbl.clear s.sch.live (8192 * b) (8192 * b + 8192))
  { s with sch := { s.sch with live := live } }

/-- The slots of a producer read as zeros with LIVE clear from now on (R119, R403). -/
def dropSlots (s : State) (who : Nat) : State :=
  { s with sch := { s.sch with live := s.sch.live.filter fun e => s.fget (SCH_SLOT_CFG_PRODUCER (e.1 % 8192)) != who } }

/-- LIVE of a slot as a consumer of this tick sees it (R22, R462, R417). -/
def State.slotLive (s : State) (slot : Nat) : Bool :=
  s.slotOn slot && Tbl.get false s.sch.live (8192 * s.rbuf + slot) && !s.sch.domNew.contains slot && !s.sch.blank

/-- The words of a slot as a consumer of this tick receives them (R20, R22, R36); an uncorrectable word is taken as
zero (R378). -/
def readSlot (s : State) (slot : Nat) : List W32 :=
  let dom := s.fget (SCH_SLOT_CFG_DOMAIN slot)
  let w := domWords s.tlen dom
  if ¬ s.slotLive slot then List.replicate w 0
  else
    let rdw := fun i =>
      if s.hasUE (slotAddr s.rbuf slot i) 4 then 0 else Memory.rd32 s.mem (slotAddr s.rbuf slot i)
    match s.sch.oldT with
    | none => (List.range w).map rdw
    | some t =>
      let wo := domWords t dom
      if w ≥ wo then List.replicate (w - wo) 0 ++ (List.range wo).map rdw
      else (List.range w).map fun (i : Nat) => rdw (wo - w + i)

/-- The reports that a consumer's read of a slot makes (R378); `master` reads. -/
def noteSlotRead (s : State) (master slot : Nat) : State :=
  if ¬ s.slotLive slot then s
  else (checkRead s (slotAddr s.rbuf slot 0) (4 * domWords s.tlen (s.fget (SCH_SLOT_CFG_DOMAIN slot))) master 1).1

end Sys2Proof.Machine
end

