-- ==== Sys2Proof/Machine/Crc.lean ====
section
/-! DEFINITION. Machine/Crc.lean: the two cyclic redundancy checks of the part: CRC-32C (R104, R322, R426) and the CRC-64
of signatures (R305). -/

namespace Sys2Proof.Machine

def crc32cBit (c : W32) : W32 := if c.getLsbD 0 then (c >>> 1) ^^^ 0x82F63B78#32 else c >>> 1

def crc32cByte (c : W32) (b : Byte) : W32 :=
  let c := c ^^^ b.setWidth 32
  crc32cBit (crc32cBit (crc32cBit (crc32cBit (crc32cBit (crc32cBit (crc32cBit (crc32cBit c)))))))

/-- CRC-32C in its usual form: reflected, started at ones, inverted at the end (log entry 11). -/
def crc32c (bs : List Byte) : W32 := ~~~(bs.foldl crc32cByte 0xFFFFFFFF#32)

def crc64Bit (c : W64) : W64 := if c.msb then (c <<< 1) ^^^ 0x42F0E1EBA9EA3693#64 else c <<< 1

def crc64Byte (c : W64) (b : Byte) : W64 :=
  let c := c ^^^ (b.setWidth 64 <<< 56)
  crc64Bit (crc64Bit (crc64Bit (crc64Bit (crc64Bit (crc64Bit (crc64Bit (crc64Bit c)))))))

/-- The CRC-64 of R305: not reflected, started at 0, no final inversion. -/
def crc64 (bs : List Byte) : W64 := bs.foldl crc64Byte 0

def wordBytes (vs : List W32) : List Byte := vs.flatMap fun v => leBytes 4 v.toNat

end Sys2Proof.Machine
end

