-- ==== Sys2Proof/Machine/Cmd.lean ====
section
/-! DEFINITION. Machine/Cmd.lean: what the host commands share: completions (R344, Table 13.5), held commands (R29),
host memory accesses (R343, R349) and the effective point of a command (R30). -/

namespace Sys2Proof.Machine

/-! ## Status codes (Table 13.5) -/

def stOk : Result := {}
def stIdle : Result := { idle := true }
def stAborted : Result := { status := 3 }
def stConflict : Result := { status := 5 }
def stInvalid (r : Nat) : Result := { status := 6, reason := r }
def stNotReady : Result := { status := 7 }
def stHostErr : Result := { status := 9 }

def Result.ok (r : Result) : Bool := r.status == 0
/-- The command took effect. -/
def Result.applied (r : Result) : Bool := r.ok && !r.idle

/-- The EXEC_AT that means as soon as possible (R26). -/
def asap : W64 := 0xFFFFFFFFFFFFFFFF

/-! ## Completions -/

/-- Put a completion on the queue of those waiting for the tick end (R344). While EN is 0 it is discarded (R352). -/
def complete (s : State) (h : Hdr) (status reason : Nat) (applied : Bool) (lateOut : Nat) (effN : Nat) : State :=
  if s.pwr.hifRst ∨ ¬ s.on HIF_CTRL_EN then s
  else { s with hif := { s.hif with
    cpls := s.hif.cpls ++ [⟨h, status, reason, applied, lateOut, if applied then BitVec.ofNat 32 effN else 0⟩] } }

/-- Complete a command that took effect, or that its target refused; a late one completes LATE (R27, R343). -/
def finishCmd (s : State) (h : Hdr) (late : Bool) (r : Result) (effN : Nat) : State :=
  if late then (complete s h 1 0 r.applied r.status effN).count (word SCH_LATE_CNT) 1
  else complete s h r.status r.reason r.applied 0 effN

/-! ## Held commands (R29) -/

/-- SCH_STATUS.PEND_CMDS is the number of held commands. -/
def setHeld (s : State) (l : List Held) : State :=
  { s.fset SCH_STATUS_PEND_CMDS l.length with sch := { s.sch with held := l } }

/-- Whether a command that satisfies `p` is scheduled and has not taken effect. -/
def State.scheduled (s : State) (p : HostOp → Bool) : Bool := s.sch.held.any fun h => h.sched && p h.op

/-- The sample-exact commands of the running tick whose sample n has reached complete. -/
def endPlanned (s : State) (n : Nat) : State :=
  let passed := fun (h : Held) => h.planned.isSome && decide (h.nx ≤ n)
  match s.sch.held.filter passed with
  | [] => s
  | l =>
    let s := setHeld s (s.sch.held.filter fun h => !passed h)
    s.each l fun s h => match h.planned with
      | some r => finishCmd s h.hdr h.late r h.nx
      | none => s

/-- Discard every held command that satisfies `p`; each completes ABORTED. -/
def abortHeld (s : State) (p : Held → Bool) : State :=
  let gone := s.sch.held.filter p
  let s := setHeld s (s.sch.held.filter fun h => !p h)
  s.each gone fun s h => complete s h.hdr 3 0 false 0 0

/-! ## Host memory -/

/-- The function cannot reach one of the `n` bytes at host address `a`. -/
def State.hostBad (s : State) (a n : Nat) : Bool :=
  decide (2 ^ 64 < a + n) || s.hif.bad.any fun r => decide (r.1 < a + n) && decide (a < r.2)

/-- A source or destination buffer that fails (R343): the count, and HOSTERR. -/
def hostFail (s : State) : State := s.count HIF_CNT1_DMA_FAIL 1

def hostWords (s : State) (a n : Nat) : List W32 := (List.range n).map fun (i : Nat) => Memory.rd32 s.hostMem (a + 4 * i)

/-- The words that a SLOT_CFG reads when it is scheduled. -/
def heldWords (s : State) (o : HostOp) : List W32 :=
  match o with
  | .slotCfg _ count src => hostWords s src.toNat count.toNat
  | _ => []

def hostStore (s : State) (a : Nat) (bs : List Byte) : State := { s with hostMem := Memory.wrN s.hostMem a bs }

/-! ## Effective points (R30) -/

inductive CmdClass where
  | sample | tick | own | takenIn
  deriving DecidableEq, Repr

/-- Table 13.4. -/
def cmdClass (o : HostOp) : CmdClass :=
  match o with
  | .nop | .mixDamp .. | .portStop .. | .portMute .. | .decFreeze .. | .streamStart .. | .streamStop .. => .sample
  | .slotCfg .. | .swapProgram .. | .unloadProgram .. | .paramSwap .. => .tick
  | .setTick .. | .mixSwap | .portStart .. | .flueEnable .. | .flueDisable .. | .twinSwap => .own
  | .loadImage .. | .discardImage .. | .paramWrite .. | .mixWrite .. | .flueClear .. | .streamWrite ..
  | .streamStats .. => .takenIn
  | .unknown => .sample

/-- Whether the pair takes every decision of R320 in common: SETTLING, IN_STEP or DISPUTED. -/
def pairJoined (s : State) : Bool := decide (2 ≤ s.fget TWN_STATUS_PAIR) && decide (s.fget TWN_STATUS_PAIR ≤ 4)
def inStepPair (s : State) : Bool := s.fget TWN_STATUS_PAIR == 3
/-- The chip holds the LEAD role (R315, R317). -/
def State.lead (s : State) : Bool := !s.on TWN_CFG_EN || s.fget TWN_STATUS_ROLE == 0

/-- The M rate of the family in force, in Hz. -/
def fsM (s : State) : Nat := if s.family = 0 then 96000 else 88200

/-- The FCLK count at count `c` of C: 4,096 a sample from the tick's first sample, at the rate of the DCO (R290). -/
def fclkAt (s : State) (c : Nat) : Nat :=
  let e := ((c : Int) - s.sch.ck) * 4096 * fsM s * (2 ^ 48 + sgn 64 (s.get64 REF_DCO_FFO)) / (500000000 * 2 ^ 48)
  4096 * s.n + e.toNat

def fclkNow (s : State) : Nat := fclkAt s s.tmb.c

/-- The instant at FCLK count `f` is reached, to within the count of C at which it falls. -/
def State.reached (s : State) (f : Nat) : Bool := decide (f ≤ fclkAt s (s.tmb.c + 1))

/-- C at which FCLK count `f` is reached, at the nominal rate. -/
def cAtFclk (s : State) (f : Nat) : Nat := s.tmb.c + ceilDiv ((f - fclkNow s) * 500000000) (4096 * fsM s)

/-- The chip drives the balls of its units (R315, R317, R324, R328): the LEAD, and a SHADOW in a handover from FCLK count H − 1 on. A
detached chip has the role SHADOW and drives none (R326); the LEAD whose peer it was drives on. -/
def State.drivesBalls (s : State) : Bool :=
  (s.lead && decide (s.twin.leadFrom ≤ s.tmb.c)) || (s.twin.driving && decide (s.twin.drivingH ≤ fclkNow s + 1))

end Sys2Proof.Machine
end

