-- ==== Sys2Proof/Machine/Filters.lean ====
section
/-! DEFINITION. Machine/Filters.lean: the half-band filters of Tables 5.6 and 7.2 and the stages built from them (R152,
R153). The coefficients are the values of R152 for odd k = 1, 3, …, D, worked out from its formula with 80 decimal digits;
those for −k are the same. -/

namespace Sys2Proof.Machine

/-- FLAT, decimating: 2^31 h(k). -/
def flatDec : List Int :=
  [682880290, -225807544, 133325010, -92959884, 70004793, -55002780, 44322851, -36274925, 29967072] ++
  [-24884443, 20708796, -17232198, 14312204, -11847003, 9760946, -7995739, 6504944, -5250443] ++
  [4200133, -3326403, 2605129, -2014996, 1537048, -1154384, 851946, -616371, 435869] ++
  [-300130, 200222, -128508, 78545, -44981, 23453, -10473, 3324]

/-- FLAT, interpolating: 2^32 h(k). -/
def flatInt : List Int :=
  [1365760580, -451615088, 266650020, -185919769, 140009586, -110005560, 88645701, -72549849, 59934144] ++
  [-49768886, 41417591, -34464397, 28624407, -23694007, 19521891, -15991477, 13009888, -10500887] ++
  [8400266, -6652806, 5210259, -4029992, 3074096, -2308767, 1703892, -1232742, 871739] ++
  [-600259, 400444, -257017, 157090, -89962, 46905, -20946, 6647]

/-- SHORT, decimating: 2^31 h(k). -/
def shortDec : List Int :=
  [679562482, -216090068, 117887229, -72843782, 46494945, -29485969, 18148440, -10635388, 5813052] ++
  [-2881578, 1235877, -413600, 73094]

/-- SHORT, interpolating: 2^32 h(k). -/
def shortInt : List Int :=
  [1359124964, -432180137, 235774457, -145687565, 92989890, -58971938, 36296880, -21270775, 11626104] ++
  [-5763156, 2471754, -827200, 146188]

/-- WIDE, decimating: 2^31 h(k). -/
def wideDec : List Int :=
  [669202232, -187907394, 79268113, -32526265, 11395348, -3030133, 488686, -15289]

/-- WIDE, interpolating: 2^32 h(k). -/
def wideInt : List Int :=
  [1338404463, -375814787, 158536226, -65052529, 22790697, -6060266, 977373, -30578]

/-- EARLY, decimating: 2^31 h(k). -/
def earlyDec : List Int :=
  [644337624, -132113522, 27596769, -2960237, 25482]

/-- LOOP, interpolating: 2^32 h(k). -/
def loopInt : List Int :=
  [1224128947, -154493981, 4066759]

/-- Words up to some index, latest first: `h[0]` has index `last`; before the list and at negative indices all is 0. -/
def histAt (h : List W32) (last i : Int) : Int :=
  if i < 0 ∨ last < i then 0 else ((h[(last - i).toNat]?).getD 0).toInt

/-- Extraction by R86 with s = 0 and SAT = 1. -/
def extract0 (a : Int) : W32 := BitVec.ofInt 32 (clip 32 (rnd a 31))

/-- The sum over odd k of c(k) (x(k) + x(−k)). -/
def oddSum (cs : List Int) (x : Int → Int) : Int :=
  (cs.zipIdx.map fun e => e.1 * (x (2 * e.2 + 1) + x (-(2 * e.2 + 1 : Int)))).sum

/-- A half-band filter: D, and its coefficients in either direction. -/
structure HalfBand where
  d : Int
  dec : List Int
  int : List Int
  deriving DecidableEq, Repr

def hbFlat : HalfBand := ⟨69, flatDec, flatInt⟩
def hbShort : HalfBand := ⟨25, shortDec, shortInt⟩
def hbWide : HalfBand := ⟨15, wideDec, wideInt⟩
def hbEarly : HalfBand := ⟨9, earlyDec, []⟩
/-- LOOPINT of R201. -/
def hbLoop : HalfBand := ⟨5, [], loopInt⟩

/-- Output `m` of a decimating stage (R153); `h` holds its input up to index `last`. -/
def decimate (f : HalfBand) (h : List W32) (last m : Int) : W32 :=
  extract0 (2 ^ 30 * histAt h last (2 * m - f.d) + oddSum f.dec fun k => histAt h last (2 * m - f.d + k))

/-- Output `i` of an interpolating stage (R153). -/
def interpolate (f : HalfBand) (h : List W32) (last i : Int) : W32 :=
  if (i - f.d) % 2 = 0 then BitVec.ofInt 32 (histAt h last ((i - f.d) / 2))
  else extract0 (oddSum f.int fun k => histAt h last ((i - f.d - k) / 2))

end Sys2Proof.Machine
end

