-- ==== Sys2Proof/Machine/Chains.lean ====
section
/-! DEFINITION. Machine/Chains.lean: decimation chains (07): their stages, the shift and DC stage, the unsettled flag, and
what a chain commits to its slot. A chain reserved for flue sense runs with the settings its flue gives. -/

namespace Sys2Proof.Machine

/-- The settings of a chain (Table 7.6). -/
structure ChainCfg where
  dom : Nat
  tap : Nat
  short : Bool
  dcEn : Bool
  k : Nat
  flag : Bool
  shift : Nat
  deriving DecidableEq, Repr

def chainCfg (s : State) (c : Nat) : ChainCfg :=
  let k := s.fget (DEC_CH_CFG_DC_K c)
  { dom := s.fget (DEC_CH_CFG_DOM c), tap := s.fget (DEC_CH_CFG_TAP c), short := s.on (DEC_CH_CFG_RESP c)
    dcEn := s.on (DEC_CH_CFG_DC_EN c), k := if 8 ≤ k ∧ k ≤ 20 then k else 13
    flag := s.on (DEC_CH_CFG_FLAG c), shift := s.fget (DEC_CH_CFG_SHIFT c) }

/-- The filter of stage j = 1 … TAP (R188). -/
def stageFilter (tap : Nat) (short : Bool) (j : Nat) : HalfBand :=
  if j = tap then (if short then hbShort else hbFlat) else if j + 1 = tap then hbWide else hbEarly

/-- U_j of R194, counted from stage 1. -/
def unsettledOf (tap : Nat) (short : Bool) : Nat → Nat
  | 0 => 1
  | j + 1 => (stageFilter tap short (j + 1)).d.toNat + ceilDiv (unsettledOf tap short j) 2

/-- Feed a word to stage `j` of the remaining `fuel` stages; the word that stage TAP delivers, if one is due. -/
def pushStage (tap : Nat) (short : Bool) : Nat → Nat → Chain → W32 → Chain × Option W32
  | 0, _, ch, w => (ch, some w)
  | fuel + 1, j, ch, w =>
    let i := (ch.count[j - 1]?).getD 0
    let h := (w :: (ch.hist[j - 1]?).getD []).take 140
    let ch := { ch with hist := ch.hist.set (j - 1) h, count := ch.count.set (j - 1) (i + 1) }
    if i % 2 = 1 then (ch, none)
    else pushStage tap short fuel (j + 1) ch (decimate (stageFilter tap short j) h i (i / 2))

/-- Clear the history of a chain; `c0` is the index of its next input word, counted from an output word. -/
def clearHist (ch : Chain) (tap c0 : Nat) : Chain :=
  { ch with
    hist := List.replicate tap []
    count := (List.range tap).map fun (j : Nat) => ceilDiv c0 (2 ^ j) }

/-- R falls or rises (Table 7.7). -/
def setRemain (s : State) (c r : Nat) : State :=
  (s.fset (DEC_CH_STATUS_REMAIN c) r).fset (DEC_CH_STATUS_UNSETTLED c) (b2n (decide (0 < r)))

/-- A trigger of the unsettled flag with its F (R193, R194). -/
def trigger (s : State) (c f : Nat) : State :=
  (setRemain s c (min (max (s.fget (DEC_CH_STATUS_REMAIN c)) f) (2 ^ 23 - 1))).count (DEC_CNT_TRIG c) 1

def firF (g : ChainCfg) : Nat := unsettledOf g.tap g.short g.tap

/-- The state of a chain at its start at sample `n`, before its trigger (R188, R191, R192): a freeze that is scheduled for a
sample before it is void. -/
def emptyChain (s : State) (c : Nat) (g : ChainCfg) (freeze : Bool) (c0 n : Nat) : State :=
  let ch := s.chain c
  let s := s.setChain c { clearHist ch g.tap c0 with
    est := 0, fade := none, frz := ch.frz.filter fun f => decide (n ≤ f.1), capture := [], lastOut := 0 }
  let s := (s.fset (DEC_CH_STATUS_RUN c) 1).fset (DEC_CH_STATUS_FROZEN c) (b2n freeze)
  (setRemain s c 0).wr (DEC_CH_DC c) 0

/-- The start of a chain (R188, R191, R192, R194). -/
def startChain (s : State) (c : Nat) (g : ChainCfg) (freeze : Bool) (c0 n : Nat) : State :=
  trigger (emptyChain s c g freeze c0 n) c (firF g + if g.dcEn && !freeze then 2 ^ (g.k + 2) else 0)

def stopChain (s : State) (c : Nat) : State :=
  (setRemain (s.setChain c { frz := (s.chain c).frz }) c 0).fset (DEC_CH_STATUS_RUN c) 0

/-- A freeze or a release (R192, R193). -/
def freezeTo (s : State) (c : Nat) (g : ChainCfg) (on : Bool) : State :=
  let was := s.on (DEC_CH_STATUS_FROZEN c)
  let s := s.fset (DEC_CH_STATUS_FROZEN c) (b2n on)
  s.when (was && !on && g.dcEn) fun s => trigger s c (2 ^ (g.k + 2))

/-- Scheduled freezes and releases take effect at the word of M index `m`. -/
def applyFreeze (s : State) (c : Nat) (g : ChainCfg) (m : Nat) : State :=
  let due := (s.chain c).frz.filter fun f => decide (f.1 ≤ m)
  if due = [] then s
  else
    let s := s.setChain c { s.chain c with frz := (s.chain c).frz.filter fun f => !decide (f.1 ≤ m) }
    s.each due fun s f => freezeTo s c g f.2

/-- R190, R191, R195: the slot word that the word `z0` of stage TAP becomes. -/
def chainTail (s : State) (c : Nat) (g : ChainCfg) (z0 : W32) : State × W32 :=
  let clipN := fun (s : State) (v : Int) => (s.when (clips 32 v) fun s => s.count (DEC_CNT_CLIP c) 1, clip 32 v)
  let (s, z1) := clipN s (z0.toInt * 2 ^ g.shift)
  let ch := s.chain c
  let (s, z2) := if g.dcEn then clipN s (z1 - asr (ch.est + 2 ^ 15) 16) else (s, z1)
  let e := if g.dcEn && !s.on (DEC_CH_STATUS_FROZEN c) then
    ch.est + asr (z1 * 2 ^ 16 - ch.est + 2 ^ (g.k - 1)) g.k else ch.est
  let e := sgn 49 (uns 49 e)
  let s := (s.setChain c { s.chain c with est := e }).wr (DEC_CH_DC c) (BitVec.ofInt 32 (clip 32 (asr (e + 2 ^ 15) 16)))
  let r := s.fget (DEC_CH_STATUS_REMAIN c)
  let y := if g.flag then 2 * clip 31 (asr (z2 + 1) 1) + (b2n (decide (0 < r)) : Int) else z2
  (s.when (decide (0 < r)) fun s => setRemain s c (r - 1), BitVec.ofInt 32 y)

/-- One input word of a chain (R187, R188): its output word, where one is due, waits to be committed. `m` is the M index
of that output word. -/
def chainInput (s : State) (c : Nat) (g : ChainCfg) (w : W32) (m : Nat) : State :=
  let r := pushStage g.tap g.short g.tap 1 (s.chain c) w
  let s := s.setChain c r.1
  match r.2 with
  | none => s
  | some z0 =>
    let s := applyFreeze s c g m
    let (s, y) := chainTail s c g z0
    let ch := s.chain c
    s.setChain c { ch with capture := ch.capture ++ [y], lastOut := y }

/-- R168: a bit as a word. -/
def bitWord (b : Bool) : W32 := if b then 0x40000000 else 0xC0000000

/-- The first domain index whose M index is `n` or later. -/
def firstIndex (n dom : Nat) : Nat := if dom = 0 then (n + 1) / 2 else domIndex n dom

/-- The M index of a domain index (R15). -/
def mIndex (i dom : Nat) : Nat := if dom = 0 then 2 * i else if dom = 1 then i else i / 2

/-- Commit the words of the tick of length `tp` that ended, the first at position `pos` of it; `none` is a word that is
not written. At a change of T the words keep the end of the tick, with zeros before them (R36). -/
def commitWords (s : State) (who slot dom tp pos : Nat) (vs : List (Option W32)) : State :=
  let wn := domWords s.tlen dom
  let wp := domWords tp dom
  let s := s.each (List.range (wn - wp)) fun s i => writeSlot s who slot i 0
  s.each vs.zipIdx fun s e => match e.1 with
    | none => s
    | some v =>
      let p := pos + e.2 + wn
      if wp ≤ p ∧ p < wp + wn then writeSlot s who slot (p - wp) v else s

/-- The conditions of R158 on a slot. -/
def slotFits (s : State) (slot who dom : Nat) (data : Bool) : Bool :=
  s.on (SCH_SLOT_CFG_EN slot) && s.fget (SCH_SLOT_CFG_PRODUCER slot) == who &&
  s.fget (SCH_SLOT_CFG_DOMAIN slot) == dom && s.on (SCH_SLOT_CFG_DATA slot) == data

/-- A run of words under a fade of kind 0 (out, then in), 1 (in) or 2 (out, then nothing): each word with the fade after it. -/
def fadeRun (f : Option (Nat × Nat)) : List W32 → List (Option W32) × Option (Nat × Nat)
  | [] => ([], f)
  | x :: t =>
    let (y, f') : Option W32 × Option (Nat × Nat) := match f with
      | none => (some x, none)
      | some (kind, k) =>
        if kind = 1 then
          (some (BitVec.ofInt 32 (fadeWord x.toInt k true)), if 31 ≤ k then none else some (1, k + 1))
        else if k < 32 then
          (some (BitVec.ofInt 32 (fadeWord x.toInt k false)), if kind = 0 ∧ k = 31 then some (1, 0) else some (kind, k + 1))
        else (none, some (kind, k))
    let r := fadeRun f' t
    (y :: r.1, r.2)

def execUnsettledEnd (chain : Nat) (s : State) : Host.Outcome State Fault Refusal :=
  done (decide (chain < 192)) (s.when (decide (s.fget (DEC_CH_STATUS_REMAIN chain) ≤ 1)) (setRemain · chain 0))

/-- A word of a chain under a fade, `u` being the unsettled flag that FLAG packs into bit 0: the fade works on the audio, and
the flag stays as it is (R195). -/
def keepFlag (flag : Bool) (x : W32) (y : Option W32) : Option W32 :=
  if flag then y.map fun v => BitVec.ofInt 32 (2 * clip 31 (asr (v.toInt + 1) 1) + x.toNat % 2) else y

/-- Cut a FIFO to its latest `n` entries, with `pad` before them where it holds fewer. -/
def refill {α : Type} (pad : α) (n : Nat) (q : List α) : List α := List.replicate (n - q.length) pad ++ q.drop (q.length - n)

/-- Take `n` entries from a FIFO, `pad` where it is empty. A slip's fade-out that ends among them resets the fill to 4 before
the fade-in (R160): what the rest of the tick takes stands before those 4. -/
def takeFifo {α : Type} (pad zero : α) (fade : Option (Nat × Nat)) (n : Nat) (q : List α) : List α × List α :=
  let pop := fun (n : Nat) (q : List α) => (q.take n ++ List.replicate (n - q.length) pad, q.drop n)
  match fade with
  | some (0, k) =>
    let m := 32 - k
    if n < m then pop n q
    else
      let a := pop m q
      let b := pop (n - m) (refill zero (4 + (n - m)) a.2)
      (a.1 ++ b.1, b.2)
  | _ => pop n q

/-- A DEC_FREEZE takes its place among those of the chain. -/
def insertFreeze (f : Nat × Bool) : List (Nat × Bool) → List (Nat × Bool)
  | [] => [f]
  | x :: t => if f.1 < x.1 then f :: x :: t else x :: insertFreeze f t

/-- DEC_FREEZE: its checks when scheduled, and its effect (R192). Words of a slave port wait in its FIFO, so that the chain looks
for the sample from the scheduling on. -/
def reservedChain (s : State) (c : Nat) : Bool := decide (c < 96) && s.fget (PRT_MODE_MODE (c / 2)) == 4

def schedDecFreeze (s : State) (c : Nat) (on : Bool) (nx : Nat) : State × Result :=
  if 191 < c then (s, stInvalid 0)
  else if reservedChain s c then (s, stConflict)
  else (s.setChain c { s.chain c with frz := insertFreeze (nx, on) (s.chain c).frz }, stOk)

/-- Its sample has come: what it does falls to the chain's next output word. -/
def effDecFreeze (s : State) : State × Result := (s, stOk)

end Sys2Proof.Machine
end

