-- ==== Sys2Proof/Machine/Ports.lean ====
section
/-! DEFINITION. Machine/Ports.lean: the settings of a port, the checks of PORT_START (R173) and what a port's channels are
(R157). The rates are compared as whole numbers: a rate of `a / b` Hz is the pair (a, b). -/

namespace Sys2Proof.Machine

/-! ## Modes, states and rates -/

def mTdm : Nat := 1
def mAes : Nat := 2
def mBit : Nat := 3
def mFlue : Nat := 4

def State.mode (s : State) (p : Nat) : Nat := s.fget (PRT_MODE_MODE p)
def State.pst (s : State) (p : Nat) : Nat := s.fget (PRT_STATUS_STATE p)
def stOff : Nat := 0
def stArmed : Nat := 1
def stLeadin : Nat := 2
def stRun : Nat := 3
def stLost : Nat := 4

/-- ACLK in the family in force, in Hz (R163). -/
def aclk (s : State) : Nat := if s.family = 0 then 98304000 else 90316800

def divD (s : State) (p : Nat) : Nat := s.fget (PRT_CLK_CFG_BCLK_DIV p)
def bpf (s : State) (p : Nat) : Nat := s.fget (PRT_CLK_CFG_BPF_M1 p) + 1
def tdmSlots (s : State) (p : Nat) : Nat := s.fget (PRT_TDM_CFG_SLOTS_M1 p) + 1
def slotWidth (s : State) (p : Nat) : Nat := match s.fget (PRT_TDM_CFG_SW p) with
  | 0 => 16
  | 1 => 24
  | 2 => 32
  | _ => 0
/-- DW: 24 for AES3 (R164). -/
def wordWidth (s : State) (p : Nat) : Nat :=
  if s.mode p = mAes then 24
  else match s.fget (PRT_TDM_CFG_DW p) with
    | 0 => 16
    | 1 => 20
    | 2 => 24
    | _ => 32

/-- The port makes its own clock: a TDM or BITSTREAM master. -/
def State.masters (s : State) (p : Nat) : Bool := s.on (PRT_CLK_CFG_MASTER p) && s.mode p != mAes
/-- The port drives a clock, so that a lead-in applies to it (R172). -/
def State.drives (s : State) (p : Nat) : Bool := s.masters p || s.mode p == mAes
/-- The port monitors a clock that it receives (R182). -/
def State.monitors (s : State) (p : Nat) : Bool :=
  (s.mode p == mTdm || s.mode p == mAes || s.mode p == mBit) && !s.masters p

/-- The domain whose rate is `a / b` Hz, to within `ppm`. -/
def domOfRate (s : State) (a b ppm : Nat) : Option Nat :=
  (List.range 3).find? fun d =>
    let r := fsM s * 2 ^ d * b
    decide (2 * a * 1000000 ≤ r * (1000000 + ppm)) && decide (r * (1000000 - ppm) ≤ 2 * a * 1000000)

/-- The rate of the frames that the port receives, and of those that it sends: ACLK or the measured rate; AES3 transmission
keeps the last one (R183). -/
def rxRate (s : State) (p : Nat) : Nat × Nat :=
  if s.masters p then (aclk s, divD s p * bpf s p) else (s.fget (word (PRT_RATE p)), 1)
def txRate (s : State) (p : Nat) : Nat × Nat :=
  if s.mode p ≠ mAes then rxRate s p
  else if ¬ s.on (PRT_CLK_CFG_TX_SRC p) then (aclk s, 128 * divD s p)
  else if s.fget (word (PRT_RATE p)) = 0 then ((s.port p).lastRate, 1)
  else rxRate s p

/-- The number of the first frame at or after M sample `n`, at the frame rate `r`. -/
def frameAt (s : State) (r : Nat × Nat) (n : Nat) : Nat := if r.2 = 0 then 0 else ceilDiv (n * r.1) (fsM s * r.2)

/-- The frames of the M samples from `n` to `m` − 1. -/
def framesIn (s : State) (r : Nat × Nat) (n m : Nat) : Nat := frameAt s r m - frameAt s r n

/-- What ball G of a TDM port drives (R163): ACLK over the number, or nothing. -/
def mclkDiv (s : State) (p : Nat) : Option Nat :=
  let d := s.fget (PRT_CLK_CFG_MCLK_DIV p)
  if s.mode p = mTdm ∧ d ≠ 0 then some (2 ^ d) else none

/-- The domain of DIRECT channels: exact for a clock from ACLK, within 1,000 ppm of a measured one (R160, R184). -/
def rateDom (s : State) (r : Nat × Nat) : Option Nat := domOfRate s r.1 r.2 (if r.2 = 1 then 1000 else 0)

/-- λ of R172. -/
def leadLen (s : State) (p : Nat) : Nat :=
  let r := txRate s p
  if ¬ s.drives p ∨ r.1 = 0 then 0 else ceilDiv (s.fget (PRT_LEADIN_LEADIN p) * fsM s * r.2) r.1

/-! ## Channels (R157) -/

/-- A channel that its mode gives the port, and whether it transmits. -/
def chanExists (s : State) (p c : Nat) : Bool :=
  if s.mode p = mTdm then decide (c < 128) && decide (c % 32 < tdmSlots s p)
  else (s.mode p == mAes || s.mode p == mBit) && decide (c < 4)
def chanTx (s : State) (p c : Nat) : Bool :=
  if s.mode p = mTdm then bit (s.fget (PRT_TDM_CFG_LANE_DIR p)) (c / 32)
  else s.mode p == mAes && decide (2 ≤ c)

/-- An enabled entry of the channel map. -/
structure Chan where
  c : Nat
  tx : Bool
  slot : Nat
  path : Nat
  idx : Nat
  data : Bool
  deriving DecidableEq, Repr

/-- The enabled entries of a port, in channel order: an entry's reset word has EN = 0, so that each enabled one is stored. -/
def chans (s : State) (p : Nat) : List Chan :=
  if s.mode p = 0 then []
  else (s.regs.filter fun e => decide (PRT_CH_MAP p 0 ≤ e.1) && decide (e.1 < PRT_CH_MAP p 128)).filterMap fun e =>
    let c := (e.1 - PRT_CH_MAP p 0) / 4
    let w := e.2.toNat
    if bit w 13 && chanExists s p c then some ⟨c, chanTx s p c, bits w 0 13, bits w 14 2, bits w 16 9, bit w 25⟩ else none

def rxChans (s : State) (p : Nat) : List Chan := (chans s p).filter fun e => !e.tx
def directRx (s : State) (p : Nat) : List Chan := (rxChans s p).filter fun e => e.path == 0
def asrcChans (s : State) (p : Nat) : List Chan := (chans s p).filter fun e => e.path == 1
def chainChans (s : State) (p : Nat) : List Chan := (rxChans s p).filter fun e => e.path == 2

/-- Event sources of a port: CLOCK 0, ASRC 1, INFO 2, UNIT 3 (Table 16.1). -/
def portSrc (p o : Nat) : Nat := srcOf (30 + p / 4) (4 * (p % 4) + o)

/-! ## PORT_START's checks (R173) -/

def frameOk (s : State) (p : Nat) : Bool :=
  s.mode p != mTdm ||
  (let f := s.fget (PRT_TDM_CFG_FMT p)
   f != 3 && slotWidth s p != 0 && decide (wordWidth s p ≤ slotWidth s p) &&
   (f == 2 || (tdmSlots s p == 2 && bpf s p % 2 == 0 && decide (2 * slotWidth s p ≤ bpf s p))))

def tapOk (t : Nat) : Bool := decide (1 ≤ t) && decide (t ≤ 8)

/-- A chain's output rate is its domain's: the bit rate `r` over 2^TAP, within `ppm` (R187). A TAP that is no number of stages is
no matter of the clock (Table 7.6). -/
def chainRateOk (s : State) (p ppm : Nat) (r : Nat × Nat) : Bool :=
  (chainChans s p).all fun e =>
    let g := chainCfg s e.idx
    !tapOk g.tap || domOfRate s r.1 (r.2 * 2 ^ g.tap) ppm == some g.dom

/-- R163, R164 and R168 on the clocks from ACLK. The limits that R164 gives for reception bound the transmit rate too (DESIGN
CHOICE, log entry 36). -/
def clockOk (s : State) (p : Nat) : Bool :=
  let d := divD s p
  if s.mode p = mTdm then
    !s.masters p || (decide (16 ≤ bpf s p) && decide (tdmSlots s p * slotWidth s p ≤ bpf s p) && decide (2 ≤ d) &&
      decide (8000 * (d * bpf s p) ≤ aclk s) && decide (aclk s ≤ 216000 * (d * bpf s p)))
  else if s.mode p = mAes then
    s.on (PRT_CLK_CFG_TX_SRC p) || (decide (1 ≤ d) && decide (31680 * (128 * d) ≤ aclk s) &&
      decide (aclk s ≤ 193920 * (128 * d)))
  else !s.masters p || ([4, 8, 16, 32].contains d && chainRateOk s p 0 (aclk s, d))

/-- Two enabled entries of any port name one ASRC channel, or one chain (R173). -/
def sharesPath (s : State) (p : Nat) (e : Chan) : Bool :=
  decide (1 ≤ e.path) && (List.range 48).any fun q =>
    (chans s q).any fun f => (q != p || f.c != e.c) && f.path == e.path && f.idx == e.idx

def pathOk (s : State) (p : Nat) : Bool :=
  (chans s p).all fun e =>
    let r := if e.tx then txRate s p else rxRate s p
    (e.path != 0 || s.mode p == mBit || r.2 == 1 || (rateDom s r).isSome) && (!e.data || e.path == 0) && e.path != 3 &&
    ((e.path == 2) == (s.mode p == mBit)) && !sharesPath s p e &&
    (e.path != 2 || (decide (e.idx ≤ 191) && !reservedChain s e.idx && tapOk (s.fget (DEC_CH_CFG_TAP e.idx))))

/-- The ratio f_in / f_out of an ASRC channel whose port runs from ACLK, or any of a measured one. -/
def asrcOk (s : State) (p : Nat) : Bool :=
  (asrcChans s p).all fun e =>
    let r := if e.tx then txRate s p else rxRate s p
    let f := fsM s * 2 ^ s.fget (ASR_CH_CFG_DOM e.idx) * r.2
    (r.2 == 1 || (decide (f ≤ 8 * r.1) && decide (2 * r.1 ≤ 4 * f))) &&
    decide (s.fget (ASR_CH_CFG_MUTE_LEN e.idx) ≤ 48000) && s.fget (ASR_CH_CFG_DOM e.idx) != 3

/-- The first reason found, or 0. -/
def portReject (s : State) (p : Nat) : Nat :=
  if s.mode p = 0 ∨ 4 ≤ s.mode p then 1
  else if ¬ frameOk s p then 2
  else if ¬ clockOk s p then 3
  else if ¬ pathOk s p then 4
  else if ¬ asrcOk s p then 5
  else 0

/-! ## Small state changes -/

def setPst (s : State) (p st : Nat) : State :=
  let s := s.fset (PRT_STATUS_STATE p) st
  s.setPort p { s.port p with driven := decide (st = stLeadin ∨ st = stRun ∨ (st = stLost ∧ s.drives p)) }

/-- Add `n` to SKIP; the first after a read is an event (R158). -/
def portSkip (s : State) (p n : Nat) : State :=
  if n = 0 then s
  else
    let s := s.count (PRT_CNT2_SKIP p) n
    if (s.port p).skipRead then raise (s.setPort p { s.port p with skipRead := false }) (portSrc p 2) 0 else s

/-- PRT_NA_MUTED bit of a channel. -/
def naBit (p c : Nat) : Fd := ⟨PRT_NA_MUTED p (c / 32), c % 32, 1⟩

/-- The decisions of Table 12.3 are the LEAD's while the pair runs joined, and take effect at the next tick start (R320);
`now` takes one at once. -/
def State.defers (s : State) : Bool := s.on TWN_CFG_EN && pairJoined s

def leadDecides (s : State) (add : TickRec → TickRec) (now : State → State) : State :=
  if ¬ s.defers then now s
  else if ¬ s.lead then s
  else
    let d := s.twin.decisions.getD { k := 0, fromLead := true, sigs := [], evidence := 0 }
    { s with twin := { s.twin with decisions := some (add d) } }

end Sys2Proof.Machine
end

