-- ==== Sys2Proof/Machine/Asrc.lean ====
section
/-! DEFINITION. Machine/Asrc.lean: the ASRC channels of Table 6.5 and their soft mute ramps (R176 to R179). R176 and Table 6.4
give the performance of the conversion and not its arithmetic, so that each converted word is a free value
(Config.asrcWord); everything done to that word is as the rules say. -/

namespace Sys2Proof.Machine

def aOff : Nat := 0
def aAcquire : Nat := 1
def aRampUp : Nat := 2
def aRun : Nat := 3
def aRampDown : Nat := 4
def aMuted : Nat := 5
def aHold : Nat := 6
def aSilent : Nat := 7

def State.ast (s : State) (a : Nat) : Nat := s.fget (ASR_CH_STATUS_STATE a)
def setAst (s : State) (a st : Nat) : State := s.fset (ASR_CH_STATUS_STATE a) st

/-- L of R178. -/
def muteLen (s : State) (a : Nat) : Nat :=
  s.fget (ASR_CH_CFG_MUTE_LEN a) * 2 ^ s.fget (ASR_CH_CFG_DOM a) / 2

/-- Ramp up over the soft mute length, from the value of a ramp that runs (R178). -/
def rampUp (s : State) (a : Nat) : State :=
  let x := s.asrcCh a
  let l := muteLen s a
  let k := match x.ramp with
    | none => 0
    | some (true, k, l0) => k * l / l0
    | some (false, k, l0) => (l0 - k) * l / l0
  if l ≤ k then setAst (s.setAsrc a { x with ramp := none }) a aRun
  else setAst (s.setAsrc a { x with ramp := some (true, k, l) }) a aRampUp

/-- Ramp down over `l` words to the state `after`, from the value of a ramp that runs. -/
def rampDown (s : State) (a l after : Nat) : State :=
  let x := s.asrcCh a
  let k := match x.ramp with
    | none => 0
    | some (true, k, l0) => l - k * l / l0
    | some (false, k, l0) => k * l / l0
  if l ≤ k then setAst (s.setAsrc a { x with ramp := none, fade := none }) a after
  else setAst (s.setAsrc a { x with ramp := some (false, k, l), after := after, fade := none }) a aRampDown

/-- The end of a ramp. -/
def rampOver (s : State) (a : Nat) : State :=
  let x := s.asrcCh a
  match x.ramp with
  | none => s
  | some (up, _, _) => setAst (s.setAsrc a { x with ramp := none }) a (if up then aRun else x.after)

/-- MUTE_RAMP_END: the ramp's last word is done. -/
def execMuteRampEnd (asrc : Nat) (s : State) : Host.Outcome State Fault Refusal :=
  done (decide (asrc < 512)) (match (s.asrcCh asrc).ramp with
    | some (_, k, l) => s.when (decide (l ≤ k + 1)) (rampOver · asrc)
    | none => s)

/-- A channel is locked, or its non-audio mute ends: RAMP_UP, or MUTED if it is muted. -/
def asrcOpen (s : State) (a : Nat) : State :=
  let s := s.setAsrc a { s.asrcCh a with ramp := none, fade := none }
  if (s.asrcCh a).muted then setAst s a aMuted else rampUp s a

/-- An unmute whose word has come. -/
def unmuteDue (s : State) (a i : Nat) : State :=
  let x := s.asrcCh a
  if x.upAt.any fun n => decide (n ≤ i) then
    (let s := s.setAsrc a { x with upAt := x.upAt.filter fun n => !decide (n ≤ i) }
     if s.ast a == aMuted || s.ast a == aRampDown && x.after == aMuted then rampUp s a else s)
  else s

/-- A scheduled ramp down whose word has come (R179); one that comes too late for any word ends at once, and one that no open
channel meets waits for its end. -/
def downDue (s : State) (a i : Nat) : State :=
  let x := s.asrcCh a
  let open' := s.ast a == aRun || s.ast a == aRampUp
  match x.rampAt.find? fun r => decide (r.1 ≤ i) && (open' || decide (r.2.1 ≤ i)) with
  | none => s
  | some r =>
    let s := s.setAsrc a { x with rampAt := x.rampAt.erase r }
    if open' then rampDown s a (r.2.1 - i) r.2.2 else s

/-- What is due before the word of domain index `i`. -/
def asrcDue (s : State) (a i : Nat) : State := downDue (unmuteDue s a i) a i

/-- The loop bandwidth of a clock group in steps of 0.5 Hz (Table 6.15). -/
def groupBw (s : State) (p : Nat) : Nat :=
  let c := s.fget (ASR_GRP_CFG_BW p)
  if c = 0 ∨ 40 < c then 4 else c

/-- One word of the ramp (R178): word k of L from `x`. -/
def rampWord (x : Int) (up : Bool) (k l : Nat) : W32 :=
  BitVec.ofInt 32 ((x * (if up then k + 1 else l - 1 - k : Nat) + l / 2) / l)

/-- The word of domain index `i` of a channel, where it has one (Table 6.5), from the word that `source` gives. -/
def asrcStep (source : State → W32 × State) (s : State) (a i : Nat) : State × Option W32 :=
  let s := asrcDue s a i
  let st := s.ast a
  if st = aOff ∨ st = aAcquire ∨ st = aSilent then (s, none)
  else if st = aMuted then (s, some 0)
  else
    let (w, s) := source s
    let x := s.asrcCh a
    if st = aHold then
      match x.fade with
      | some f => if f.k < 32 then
          (s.setAsrc a { x with fade := some { f with k := f.k + 1 } }, some (BitVec.ofInt 32 (fadeWord w.toInt f.k false)))
        else (s, some 0)
      | none => (s, some 0)
    else match x.ramp with
      | some (up, k, l) =>
        let s := s.setAsrc a { x with ramp := some (up, k + 1, l) }
        (s.when (decide (l ≤ k + 1)) (rampOver · a), some (rampWord w.toInt up k l))
      | none => match x.fade with
        | some f =>
          (s.setAsrc a { x with fade := if 31 ≤ f.k then none else some { f with k := f.k + 1 } },
            some (BitVec.ofInt 32 (fadeWord w.toInt f.k true)))
        | none => (s, some w)

/-- The domain index `i` lies between PORT_START and PORT_STOP of a port (R171). -/
def inRun (s : State) (p dom i : Nat) : Bool :=
  !((s.port p).startN.any fun m => decide (i < firstIndex m dom)) && !((s.port p).stopN.any fun m => decide (firstIndex m dom ≤ i))

/-- The words of a channel in a tick of length `t` at sample `n`, those of R171; `source` gives the word before the ramp by its
number in the tick. -/
def asrcWords (source : Nat → State → W32 × State) (s : State) (p a n t : Nat) : State × List (Option W32) :=
  let dom := s.fget (ASR_CH_CFG_DOM a)
  let i0 := domIndex n dom
  (List.range (domWords t dom)).foldl (fun (r : State × List (Option W32)) j =>
    if inRun s p dom (i0 + j) then
      (let w := asrcStep (source j) r.1 a (i0 + j)
       (w.1, r.2 ++ [w.2]))
    else (r.1, r.2 ++ [none])) (s, [])

/-- The ASRC receive channels of a port over the tick of length `tp` at sample `np` that ended. -/
def asrcTick (s : State) (p np tp : Nat) : State :=
  let bw := groupBw s p
  s.each ((asrcChans s p).filter fun e => !e.tx) fun s e =>
    let dom := s.fget (ASR_CH_CFG_DOM e.idx)
    let (s, vs) := asrcWords (fun _ s => s.draw (Config.asrcWord bw)) s p e.idx np tp
    if vs.all (·.isNone) ∨ s.on (naBit p e.c) then s
    else if slotFits s e.slot (0x600 + e.idx) dom false then commitWords s (0x600 + e.idx) e.slot dom tp 0 vs
    else portSkip s p 1

/-! ## Group events -/

/-- Lock of a port's clock group (R177, R178), and what the locked loop reports later (R176): the ratio. -/
def applyLock (s : State) (p : Nat) (ratio : W32) : State :=
  let as := (asrcChans s p).filter fun e => s.ast e.idx == aAcquire
  let tracks := (asrcChans s p).any fun e => aRampUp ≤ s.ast e.idx && s.ast e.idx ≤ aMuted
  if as = [] ∧ ¬ tracks then s
  else (s.wr (ASR_GRP_RATIO p) ratio).each as fun s e => asrcOpen s e.idx

def execAsrcLock (port : Nat) (ratio : W32) (s : State) : Host.Outcome State Fault Refusal :=
  done (decide (port < 48))
    (leadDecides s (fun d => { d with ratios := d.ratios ++ [(port, ratio)] }) fun s => applyLock s port ratio)

/-- No lock within 1 s (R177). -/
def execAcqFail (port : Nat) (s : State) : Host.Outcome State Fault Refusal :=
  let as := (asrcChans s port).filter fun e => s.ast e.idx == aAcquire
  done (decide (port < 48))
    (if as = [] then s
     else raise (s.each as fun s e => s.fset (ASR_CH_STATUS_ACQ_FAIL e.idx) 1) (portSrc port 1) 0)

/-- A channel state that the LEAD decides: RAMP_DOWN after a tracking error, SILENT after HOLD (R320). -/
def applyAsrcDec (s : State) (a st : Nat) : State :=
  if st = aRampDown then
    (if s.ast a = aRun then rampDown (s.fset (ASR_CH_STATUS_TRACK_ERR a) 1) a 32 aAcquire else s)
  else if st = aSilent then (if s.ast a = aHold then setAst s a aSilent else s)
  else s

def asrcDecide (s : State) (a st : Nat) : State :=
  leadDecides s (fun d => { d with asrcDec := d.asrcDec ++ [(a, st)] }) fun s => applyAsrcDec s a st

def execTrackErr (port : Nat) (s : State) : Host.Outcome State Fault Refusal :=
  done (decide (port < 48)) (s.each ((asrcChans s port).map (·.idx)) fun s a => asrcDecide s a aRampDown)

def execHoldExpiry (asrc : Nat) (s : State) : Host.Outcome State Fault Refusal :=
  done (decide (asrc < 512)) (asrcDecide s asrc aSilent)

/-- The clock of a receive channel is lost (R183): HOLD for a channel that gives words. The words of a MUTED one are zeros, and
so are those of its fade. -/
def asrcLoss (s : State) (a : Nat) : State :=
  if s.ast a = aOff ∨ s.ast a = aAcquire ∨ s.ast a = aSilent ∨ s.ast a = aHold then s
  else setAst (s.setAsrc a { s.asrcCh a with ramp := none, fade := some ⟨false, if s.ast a = aMuted then 32 else 0⟩ }) a aHold

/-- The clock is recovered at `rate` Hz (R179): on the held ratio if the rate is within 1,000 ppm of it. -/
def asrcRecover (s : State) (p a rate : Nat) : State :=
  let held := s.fget (word (ASR_GRP_RATIO p)) * fsM s
  let near := decide (rate * 2 ^ 29 * 1000000 ≤ held * 1001000) && decide (held * 999000 ≤ rate * 2 ^ 29 * 1000000)
  let x := s.asrcCh a
  if s.ast a = aHold ∧ near then
    (if x.muted then setAst (s.setAsrc a { x with fade := none }) a aMuted
     else setAst (s.setAsrc a { x with fade := some ⟨true, 0⟩ }) a aRun)
  else if s.ast a = aHold ∨ s.ast a = aSilent ∨ s.ast a = aOff then
    setAst (s.setAsrc a { x with fade := none, ramp := none }) a aAcquire
  else s

/-- A channel of a port that ends: OFF, with nothing scheduled. -/
def asrcOff (s : State) (a : Nat) : State := setAst (s.setAsrc a {}) a aOff

/-- A ramp down that ends before the word of sample `nx` (R179), seen at the tick start at sample `now`. -/
def planRampDown (s : State) (a nx now after : Nat) : State :=
  let dom := s.fget (ASR_CH_CFG_DOM a)
  let e := firstIndex nx dom
  s.setAsrc a { s.asrcCh a with
    rampAt := (s.asrcCh a).rampAt ++ [(max (e - muteLen s a) (firstIndex now dom), e, after)] }

/-- PORT_MUTE when scheduled, and at its sample. -/
def muteTarget (s : State) (p c : Nat) : Option Nat :=
  ((chans s p).find? fun e => e.c == c && e.path == 1).map (·.idx)

def schedPortMute (s : State) (p c nx now : Nat) (mute : Bool) : State × Result :=
  if 47 < p ∨ 127 < c then (s, stInvalid 0)
  else match muteTarget s p c with
    | none => (s, stConflict)
    | some a => (s.when mute fun s => planRampDown s a nx now aMuted, stOk)

def effPortMute (s : State) (p c nx : Nat) (mute : Bool) : State × Result :=
  match muteTarget s p c with
  | none => (s, stConflict)
  | some a =>
    let x := s.asrcCh a
    (s.setAsrc a { x with
      muted := mute
      upAt := if mute then x.upAt else x.upAt ++ [firstIndex nx (s.fget (ASR_CH_CFG_DOM a))] }, stOk)

end Sys2Proof.Machine
end

