-- ==== Sys2Proof/Machine/Flags.lean ====
section
/-! DEFINITION. Machine/Flags.lean: the scalar arithmetic of the C slot with its flags (R88, R89, Table 3.5), branch and
compare conditions (R92, CC of Table 3.2). -/

namespace Sys2Proof.Machine

/-- A scalar result with the flags it writes: `none` leaves a flag as it is (Table 3.5). -/
structure Alu where
  val : W32
  nz : Bool := true
  c : Option Bool := none
  v : Option Bool := none
  /-- the operation clipped: ST.SAT -/
  sat : Bool := false
  deriving DecidableEq, Repr

def aluAdd (a b : W32) : Alu :=
  { val := a + b, c := some (decide (2 ^ 32 ≤ a.toNat + b.toNat))
    v := some (decide ((a + b).toInt ≠ a.toInt + b.toInt)) }

/-- `a − b`: C is 1 when no borrow occurs. -/
def aluSub (a b : W32) : Alu :=
  { val := a - b, c := some (decide (b.toNat ≤ a.toNat)), v := some (decide ((a - b).toInt ≠ a.toInt - b.toInt)) }

def aluSatOf (x : Int) : Alu :=
  { val := BitVec.ofInt 32 (clip 32 x), v := some (clips 32 x), sat := clips 32 x }

def aluAdds (a b : W32) : Alu := aluSatOf (a.toInt + b.toInt)
def aluSubs (a b : W32) : Alu := aluSatOf (a.toInt - b.toInt)

/-- Results whose C is unchanged and V is 0. -/
def aluLogic (x : W32) : Alu := { val := x, v := some false }

def aluMin (a b : W32) : Alu := aluLogic (if a.toInt ≤ b.toInt then a else b)
def aluMax (a b : W32) : Alu := aluLogic (if a.toInt ≥ b.toInt then a else b)

/-- Shifts by `n` of 0 to 31: C takes the last bit shifted out, and is unchanged for 0. -/
def aluShl (a : W32) (n : Nat) : Alu :=
  { val := a <<< n, c := if n = 0 then none else some (a.getLsbD (32 - n)), v := some false }
def aluShr (a : W32) (n : Nat) : Alu :=
  { val := a >>> n, c := if n = 0 then none else some (a.getLsbD (n - 1)), v := some false }
def aluSar (a : W32) (n : Nat) : Alu :=
  { val := a.sshiftRight n, c := if n = 0 then none else some (a.getLsbD (n - 1)), v := some false }

def aluAbs (a : W32) : Alu :=
  { val := if a.toInt < 0 then -a else a, v := some (decide (a = 0x80000000#32)) }

/-- A result that leaves every flag as it is. -/
def aluPlain (x : W32) : Alu := { val := x, nz := false }

/-- Leading bits of a word equal to its sign bit, less one; 31 for 0 and −1 (R100). -/
def nrmOf (a : W32) : W32 :=
  let x := if a.msb then ~~~a else a
  if x = 0 then 31 else BitVec.ofNat 32 (30 - Nat.log2 x.toNat)

/-- The reciprocal seed (R101). -/
def aluRcps (a : W32) : Alu :=
  if 0x40000000 ≤ a.toNat ∧ a.toNat ≤ 0x7FFFFFFF then
    let i := bits a.toNat 22 8
    { val := BitVec.ofNat 32 ((2 ^ 41 + 513 + 2 * i) / (2 * (513 + 2 * i))), nz := false, v := some false }
  else { val := 0x7FFFFFFF, nz := false, v := some true }

/-- One divide step (R99): the new remainder and quotient registers, for divisor magnitude `d`. -/
def divStep (r q : W32) (d : Nat) : W32 × W32 :=
  let t := 2 * r.toNat + b2n q.msb
  if t ≥ d then (BitVec.ofNat 32 (t - d), (q <<< 1) ||| 1#32) else (BitVec.ofNat 32 t, q <<< 1)

/-- |x| as an unsigned 32-bit magnitude. -/
def magnitude (x : W32) : Nat := x.toInt.natAbs

/-- ST after a flag-setting operation (Table 2.6, Table 3.5), and after it has clipped. -/
def stFlags (st : W32) (r : Alu) : W32 :=
  let v := st.toNat
  let v := if r.nz then putBits (putBits v 0 1 (b2n r.val.msb)) 1 1 (b2n (r.val == 0)) else v
  let v := match r.c with
    | some b => putBits v 2 1 (b2n b)
    | none => v
  let v := match r.v with
    | some b => putBits v 3 1 (b2n b)
    | none => v
  BitVec.ofNat 32 (if r.sat then putBits v 4 1 1 else v)

/-- A write of ST (Table 2.6, Table 3.4): IH is not written, and while IH is set a 1 for IE is ignored. -/
def stWrite (old new : W32) : W32 :=
  let v := putBits new.toNat 7 1 (bits old.toNat 7 1)
  BitVec.ofNat 32 (if bit old.toNat 7 ∧ bit new.toNat 6 then putBits v 6 1 (bits old.toNat 6 1) else v)

/-- COND on the flags of ST (R92). -/
def condHolds (cond : Nat) (st : W32) : Bool :=
  let n := st.getLsbD 0
  let z := st.getLsbD 1
  let c := st.getLsbD 2
  let v := st.getLsbD 3
  match cond with
  | 0 => true
  | 1 => z
  | 2 => !z
  | 3 => n != v
  | 4 => n == v
  | 5 => z || n != v
  | 6 => !z && n == v
  | 7 => c
  | 8 => !c
  | 9 => c && !z
  | 10 => !c || z
  | 11 => n
  | 12 => !n
  | 13 => v
  | 14 => !v
  | _ => false

/-- The comparison CC (Table 3.2). -/
def ccHolds (cc : Nat) (a b : W32) : Bool :=
  match cc with
  | 0 => a == b
  | 1 => a != b
  | 2 => decide (a.toInt < b.toInt)
  | 3 => decide (a.toInt ≤ b.toInt)
  | 4 => decide (a.toInt > b.toInt)
  | 5 => decide (a.toInt ≥ b.toInt)
  | 6 => decide (a.toNat < b.toNat)
  | 7 => decide (a.toNat ≥ b.toNat)
  | _ => false

/-! ## Vector and accumulator arithmetic -/

/-- Extraction of an accumulator element with shift `s` (R86): the exact rounded value. -/
def extractExact (a : BitVec 72) (sh : Int) : Int := rnd a.toInt (31 - sh).toNat

def extractWord (a : BitVec 72) (sh : Int) (sat : Bool) : W32 :=
  BitVec.ofInt 32 (if sat then clip 32 (extractExact a sh) else extractExact a sh)

def extractClips (a : BitVec 72) (sh : Int) (sat : Bool) : Bool := sat && clips 32 (extractExact a sh)

/-- An accumulator element takes an exact value modulo 2^72; whether it overflowed (R85). -/
def accOf (x : Int) : BitVec 72 := BitVec.ofInt 72 x
def accOver (x : Int) : Bool := clips 72 x

/-- A 32-bit result of an exact value, clipped if `sat` (R88). -/
def vecOf (x : Int) (sat : Bool) : W32 := BitVec.ofInt 32 (if sat then clip 32 x else x)
def vecClips (x : Int) (sat : Bool) : Bool := sat && clips 32 x

end Sys2Proof.Machine
end

