-- ==== Sys2Proof/Machine/Operands.lean ====
section
/-! DEFINITION. Machine/Operands.lean: slot operations and their encoding (R78, R79, Tables 3.1 to 3.9), the static
bundle rules (R82), the registers of a core and what a consumer sees of them (R52, R55, Tables 2.8 and 3.11), and
addressing (R90, R91, Table 3.6). -/

namespace Sys2Proof.Machine

/-! ## Slot operations -/

/-- C-slot operations (Table 3.7). -/
inductive COp where
  | nop
  | add (sd sa sb : BitVec 4) | sub (sd sa sb : BitVec 4) | adds (sd sa sb : BitVec 4) | subs (sd sa sb : BitVec 4)
  | and (sd sa sb : BitVec 4) | or (sd sa sb : BitVec 4) | xor (sd sa sb : BitVec 4)
  | shl (sd sa sb : BitVec 4) | shr (sd sa sb : BitVec 4) | sar (sd sa sb : BitVec 4)
  | min (sd sa sb : BitVec 4) | max (sd sa sb : BitVec 4) | cmp (sa sb : BitVec 4) | mull (sd sa sb : BitVec 4)
  | addi (sd sa : BitVec 4) (imm : BitVec 14) | cmpi (sa : BitVec 4) (imm : BitVec 14)
  | andi (sd sa : BitVec 4) (imm : BitVec 14)
  | shli (sd sa : BitVec 4) (imm : BitVec 5) | shri (sd sa : BitVec 4) (imm : BitVec 5)
  | sari (sd sa : BitVec 4) (imm : BitVec 5)
  | movi (sd : BitVec 4) (imm : BitVec 16) | movhi (sd : BitVec 4) (imm : BitVec 16)
  | movr (dst src : BitVec 6)
  | neg (sd sa : BitVec 4) | abs (sd sa : BitVec 4) | not (sd sa : BitVec 4)
  | nrm (sd sa : BitVec 4) | rcps (sd sa : BitVec 4)
  | divsU (sqr sq sv : BitVec 4) | divsS (sqr sq sv : BitVec 4)
  | cmpp (pd : BitVec 2) (cc sa sb : BitVec 4)
  | pand (pd pa pb : BitVec 2) | por (pd pa pb : BitVec 2) | pxor (pd pa pb : BitVec 2) | pnot (pd pa : BitVec 2)
  | pseti (pd : BitVec 2) (imm : BitVec 16)
  | br (cond : BitVec 4) (target : BitVec 12) | bri (cond sa : BitVec 4) | call (target : BitVec 12)
  | ret | rte | endTask
  | rep (len : BitVec 10) (byReg : Bool) (cnt : BitVec 10) | irep (len : BitVec 10) (byReg : Bool) (cnt : BitVec 10)
  | waite (mask : BitVec 16) | xsig (core : BitVec 3) | brk | trap
  deriving DecidableEq, Repr

/-- X-slot and Y-slot operations (Table 3.8). -/
inductive MOp where
  | nop
  | ldW (m : MemF) | ldD (m : MemF) | ldV (m : MemF) | ldbW (m : MemF) | ldbD (m : MemF)
  | stW (m : MemF) | stD (m : MemF) | stV (m : MemF)
  | strV (acc : BitVec 2) (sh : BitVec 5) (sat : Bool) (ptr kr : BitVec 3)
  | addp (m : MemF)
  deriving DecidableEq, Repr

/-- Accumulate modes OPM and multiply forms of the MAC class (Table 3.2, Table 3.9). -/
inductive AccMode where
  | set | add | sub
  deriving DecidableEq, Repr

inductive MacForm where
  | real | complex | conj
  deriving DecidableEq, Repr

/-- V-slot operations (Table 3.9). -/
inductive VOp where
  | nop
  | mac (f : MacForm) (m : AccMode) (acc : BitVec 2) (va vb : BitVec 4)
  | bfly (pair : Bool) (va vb vw : BitVec 4)
  | ext (vd : BitVec 4) (acc : BitVec 2) (sh : BitVec 5) (sat : Bool)
  | accld (acc : BitVec 2) (va : BitVec 4) (sh : BitVec 5)
  | accz (acc : BitVec 2) | accadd (accd accs : BitVec 2)
  | vadd (vd va vb : BitVec 4) (sat : Bool) | vsub (vd va vb : BitVec 4) (sat : Bool)
  | vneg (vd va : BitVec 4) (sat : Bool) | vabs (vd va : BitVec 4) (sat : Bool)
  | vmin (vd va vb : BitVec 4) | vmax (vd va vb : BitVec 4)
  | vand (vd va vb : BitVec 4) | vor (vd va vb : BitVec 4) | vxor (vd va vb : BitVec 4)
  | vshl (vd va : BitVec 4) (sat : Bool) (imm : BitVec 5) | vsar (vd va : BitVec 4) (sat : Bool) (imm : BitVec 5)
  | vshr (vd va : BitVec 4) (imm : BitVec 5)
  | vmov (vd va : BitVec 4) | vsel (vd va vb : BitVec 4) (psel : BitVec 2)
  | vbrd (vd sa : BitVec 4) | vget (sd va e : BitVec 4)
  | vperm (vd va vb pat : BitVec 4) | vcmp (pd : BitVec 2) (cc va vb : BitVec 4)
  deriving DecidableEq, Repr

/-- A bundle after decoding: per slot its predication and operation, or nothing where the word is undefined. -/
structure Dec where
  c : Option (Pred × COp)
  x : Option (Pred × MOp)
  y : Option (Pred × MOp)
  v : Option (Pred × VOp)
  deriving DecidableEq, Repr

/-! ## Decoding slot words (Tables 3.1, 3.2, 3.7, 3.8, 3.9) -/

def slotPred (w : W32) : Pred := ⟨w.getLsbD 25, w.getLsbD 24, w.extractLsb' 22 2⟩
def slotOp (w : W32) : Nat := bits w.toNat 26 6
/-- Bits [lo + n − 1 : lo] shown as 0 in the format. -/
def zeroAt (w : W32) (lo n : Nat) : Bool := bits w.toNat lo n == 0

def whenZ {α : Type} (ok : Bool) (x : α) : Option α := if ok then some x else none

def memField (w : W32) : MemF := ⟨w.extractLsb' 16 6, w.extractLsb' 13 3, w.extractLsb' 11 2, w.extractLsb' 0 11⟩

def decodeCOp (w : W32) : Option COp :=
  let d : BitVec 4 := w.extractLsb' 18 4
  let a : BitVec 4 := w.extractLsb' 14 4
  let b : BitVec 4 := w.extractLsb' 10 4
  let a3 := fun f : COp => whenZ (zeroAt w 0 10) f
  let u := fun f : COp => whenZ (zeroAt w 0 14) f
  let i14 : BitVec 14 := w.extractLsb' 0 14
  let i5 : BitVec 5 := w.extractLsb' 0 5
  let i16 : BitVec 16 := w.extractLsb' 0 16
  let pd : BitVec 2 := w.extractLsb' 20 2
  let pa : BitVec 2 := w.extractLsb' 18 2
  let pb : BitVec 2 := w.extractLsb' 16 2
  match slotOp w with
  | 0x00 => whenZ (zeroAt w 0 22) .nop
  | 0x01 => a3 (.add d a b)
  | 0x02 => a3 (.sub d a b)
  | 0x03 => a3 (.adds d a b)
  | 0x04 => a3 (.subs d a b)
  | 0x05 => a3 (.and d a b)
  | 0x06 => a3 (.or d a b)
  | 0x07 => a3 (.xor d a b)
  | 0x08 => a3 (.shl d a b)
  | 0x09 => a3 (.shr d a b)
  | 0x0A => a3 (.sar d a b)
  | 0x0B => a3 (.min d a b)
  | 0x0C => a3 (.max d a b)
  | 0x0D => whenZ (zeroAt w 0 10 && d == 0) (.cmp a b)
  | 0x0E => a3 (.mull d a b)
  | 0x10 => some (.addi d a i14)
  | 0x11 => whenZ (d == 0) (.cmpi a i14)
  | 0x12 => some (.andi d a i14)
  | 0x13 => whenZ (zeroAt w 5 9) (.shli d a i5)
  | 0x14 => whenZ (zeroAt w 5 9) (.shri d a i5)
  | 0x15 => whenZ (zeroAt w 5 9) (.sari d a i5)
  | 0x18 => whenZ (zeroAt w 16 2) (.movi d i16)
  | 0x19 => whenZ (zeroAt w 16 2) (.movhi d i16)
  | 0x1A => whenZ (zeroAt w 0 10) (.movr (w.extractLsb' 16 6) (w.extractLsb' 10 6))
  | 0x1C => u (.neg d a)
  | 0x1D => u (.abs d a)
  | 0x1E => u (.not d a)
  | 0x1F => u (.nrm d a)
  | 0x20 => u (.rcps d a)
  | 0x21 => a3 (.divsU d a b)
  | 0x22 => a3 (.divsS d a b)
  | 0x24 => whenZ (zeroAt w 0 8) (.cmpp pd (w.extractLsb' 16 4) (w.extractLsb' 12 4) (w.extractLsb' 8 4))
  | 0x25 => whenZ (zeroAt w 0 16) (.pand pd pa pb)
  | 0x26 => whenZ (zeroAt w 0 16) (.por pd pa pb)
  | 0x27 => whenZ (zeroAt w 0 16) (.pxor pd pa pb)
  | 0x28 => whenZ (zeroAt w 0 18) (.pnot pd pa)
  | 0x29 => whenZ (zeroAt w 16 4) (.pseti pd i16)
  | 0x30 => whenZ (zeroAt w 12 6) (.br d (w.extractLsb' 0 12))
  | 0x31 => whenZ (zeroAt w 0 14) (.bri d a)
  | 0x32 => whenZ (zeroAt w 12 10) (.call (w.extractLsb' 0 12))
  | 0x33 => whenZ (zeroAt w 0 22) .ret
  | 0x34 => whenZ (zeroAt w 0 22) .rte
  | 0x35 => whenZ (zeroAt w 0 22) .endTask
  | 0x36 => whenZ (zeroAt w 20 1) (.rep (w.extractLsb' 10 10) (w.getLsbD 21) (w.extractLsb' 0 10))
  | 0x37 => whenZ (zeroAt w 20 1) (.irep (w.extractLsb' 10 10) (w.getLsbD 21) (w.extractLsb' 0 10))
  | 0x38 => whenZ (zeroAt w 16 6) (.waite i16)
  | 0x39 => whenZ (zeroAt w 3 19) (.xsig (w.extractLsb' 0 3))
  | 0x3A => whenZ (zeroAt w 0 22) .brk
  | 0x3B => whenZ (zeroAt w 0 22) .trap
  | _ => none

def decodeMOp (w : W32) : Option MOp :=
  let m := memField w
  match slotOp w with
  | 0x00 => whenZ (zeroAt w 0 22) .nop
  | 0x01 => some (.ldW m)
  | 0x02 => some (.ldD m)
  | 0x03 => some (.ldV m)
  | 0x04 => some (.ldbW m)
  | 0x05 => some (.ldbD m)
  | 0x09 => some (.stW m)
  | 0x0A => some (.stD m)
  | 0x0B => some (.stV m)
  | 0x0C => whenZ (zeroAt w 0 8)
      (.strV (w.extractLsb' 20 2) (w.extractLsb' 15 5) (w.getLsbD 14) (w.extractLsb' 11 3) (w.extractLsb' 8 3))
  | 0x0F => some (.addp m)
  | _ => none

def decodeVOp (w : W32) : Option VOp :=
  let d : BitVec 4 := w.extractLsb' 18 4
  let a : BitVec 4 := w.extractLsb' 14 4
  let b : BitVec 4 := w.extractLsb' 10 4
  let i5 : BitVec 5 := w.extractLsb' 0 5
  let sat := w.getLsbD 9
  let acc : BitVec 2 := w.extractLsb' 20 2
  let z58 := zeroAt w 5 4
  let zb := b == 0
  let zs := !sat
  let zi := zeroAt w 0 5
  let mac := fun f => if zeroAt w 0 10 then
      match bits w.toNat 18 2 with
      | 0 => some (.mac f .set acc a b)
      | 1 => some (.mac f .add acc a b)
      | 2 => some (.mac f .sub acc a b)
      | _ => none
    else none
  match slotOp w with
  | 0x00 => whenZ (zeroAt w 0 22) .nop
  | 0x01 => mac .real
  | 0x02 => mac .complex
  | 0x03 => mac .conj
  | 0x04 => whenZ (zeroAt w 18 3 && zeroAt w 0 6) (.bfly (w.getLsbD 21) a b (w.extractLsb' 6 4))
  | 0x08 => whenZ (zeroAt w 0 10) (.ext d (w.extractLsb' 16 2) (w.extractLsb' 11 5) (w.getLsbD 10))
  | 0x09 => whenZ (zeroAt w 0 11) (.accld acc (w.extractLsb' 16 4) (w.extractLsb' 11 5))
  | 0x0A => whenZ (zeroAt w 0 20) (.accz acc)
  | 0x0B => whenZ (zeroAt w 0 18) (.accadd acc (w.extractLsb' 18 2))
  | 0x10 => whenZ (z58 && zi) (.vadd d a b sat)
  | 0x11 => whenZ (z58 && zi) (.vsub d a b sat)
  | 0x12 => whenZ (z58 && zi && zb) (.vneg d a sat)
  | 0x13 => whenZ (z58 && zi && zb) (.vabs d a sat)
  | 0x14 => whenZ (z58 && zi && zs) (.vmin d a b)
  | 0x15 => whenZ (z58 && zi && zs) (.vmax d a b)
  | 0x16 => whenZ (z58 && zi && zs) (.vand d a b)
  | 0x17 => whenZ (z58 && zi && zs) (.vor d a b)
  | 0x18 => whenZ (z58 && zi && zs) (.vxor d a b)
  | 0x19 => whenZ (z58 && zb) (.vshl d a sat i5)
  | 0x1A => whenZ (z58 && zb) (.vsar d a sat i5)
  | 0x1B => whenZ (z58 && zb && zs) (.vshr d a i5)
  | 0x1C => whenZ (z58 && zb && zs && zi) (.vmov d a)
  | 0x1D => whenZ (zeroAt w 0 8) (.vsel d a b (w.extractLsb' 8 2))
  | 0x1E => whenZ (zeroAt w 0 14) (.vbrd d a)
  | 0x1F => whenZ (zeroAt w 4 10) (.vget d a (w.extractLsb' 0 4))
  | 0x20 => whenZ (zeroAt w 4 6) (.vperm d a b (w.extractLsb' 0 4))
  | 0x21 => whenZ (zeroAt w 0 8) (.vcmp acc (w.extractLsb' 16 4) (w.extractLsb' 12 4) (w.extractLsb' 8 4))
  | _ => none

def decodeBundle (b : Bundle) : Dec :=
  ⟨(decodeCOp b.c).map fun o => (slotPred b.c, o), (decodeMOp b.x).map fun o => (slotPred b.x, o),
   (decodeMOp b.y).map fun o => (slotPred b.y, o), (decodeVOp b.v).map fun o => (slotPred b.v, o)⟩

/-! ## Reserved field values (R80, R82, Table 3.4) -/

def predOk (p : Pred) : Bool := p.pe || (!p.pn && p.ps == 0)

def legalC (o : COp) : Bool :=
  match o with
  | .movr dst src => decide (dst.toNat < 0x3A) && decide (src.toNat ≤ 0x3A)
  | .cmpp _ cc _ _ => decide (cc.toNat < 8)
  | .br cond _ => cond != 15
  | .bri cond _ => cond != 15
  | .rep _ byReg cnt => !byReg || decide (cnt.toNat < 16)
  | .irep _ byReg cnt => !byReg || decide (cnt.toNat < 16)
  | .waite mask => mask != 0
  | _ => true

/-- AM 0b00 and 0b11 show bits [7:0] as zero (Table 3.6). -/
def memOk (m : MemF) : Bool := m.am == 1 || m.am == 2 || bits m.amf.toNat 0 8 == 0

def legalM (o : MOp) : Bool :=
  match o with
  | .nop => true
  | .ldW m | .stW m => memOk m && decide (m.reg.toNat ≤ 0x33)
  | .ldD m | .stD m => memOk m && decide (m.reg.toNat ≤ 0x0E) && m.reg.toNat % 2 == 0
  | .ldV m | .stV m | .ldbW m | .ldbD m => memOk m && decide (m.reg.toNat < 16)
  | .strV _ _ _ _ _ => true
  | .addp m => memOk m && m.reg == 0 && m.am != 2

def legalV (o : VOp) : Bool :=
  match o with
  | .vperm _ _ _ pat => decide (pat.toNat < 8)
  | .vcmp _ cc _ _ => decide (cc.toNat < 8)
  | _ => true

/-! ## Registers a slot writes (R82): a code of Table 3.4, 0x40 + r for v, 0x80 + a for acc -/

def writesC (o : COp) : List Nat :=
  match o with
  | .add d _ _ | .sub d _ _ | .adds d _ _ | .subs d _ _ | .and d _ _ | .or d _ _ | .xor d _ _ | .shl d _ _
  | .shr d _ _ | .sar d _ _ | .min d _ _ | .max d _ _ | .mull d _ _ => [d.toNat]
  | .addi d _ _ | .andi d _ _ => [d.toNat]
  | .shli d _ _ | .shri d _ _ | .sari d _ _ => [d.toNat]
  | .movi d _ | .movhi d _ => [d.toNat]
  | .movr d _ => [d.toNat]
  | .neg d _ | .abs d _ | .not d _ | .nrm d _ | .rcps d _ => [d.toNat]
  | .divsU r q _ | .divsS r q _ => [r.toNat, q.toNat]
  | .cmpp pd _ _ _ => [0x30 + pd.toNat]
  | .pand pd _ _ | .por pd _ _ | .pxor pd _ _ => [0x30 + pd.toNat]
  | .pnot pd _ | .pseti pd _ => [0x30 + pd.toNat]
  | .call _ => [0x37]
  | _ => []

def ptrCode (bus : Bus) (i : Nat) : Nat :=
  match bus with
  | .x => 0x10 + i
  | .y => 0x18 + i

def ptrWrite (bus : Bus) (m : MemF) : List Nat := if m.am = 2 then [] else [ptrCode bus m.ptr.toNat]

def writesM (bus : Bus) (o : MOp) : List Nat :=
  match o with
  | .nop => []
  | .ldW m => m.reg.toNat :: ptrWrite bus m
  | .ldD m => m.reg.toNat :: (m.reg.toNat + 1) :: ptrWrite bus m
  | .ldV m | .ldbW m | .ldbD m => (0x40 + m.reg.toNat) :: ptrWrite bus m
  | .stW m | .stD m | .stV m | .addp m => ptrWrite bus m
  | .strV _ _ _ ptr _ => [ptrCode bus ptr.toNat]

def writesV (o : VOp) : List Nat :=
  match o with
  | .nop => []
  | .mac _ _ acc _ _ => [0x80 + acc.toNat]
  | .bfly pair _ _ _ => if pair then [0x82, 0x83] else [0x80, 0x81]
  | .accld acc _ _ | .accz acc | .accadd acc _ => [0x80 + acc.toNat]
  | .ext vd _ _ _ | .vadd vd _ _ _ | .vsub vd _ _ _ | .vneg vd _ _ | .vabs vd _ _ | .vmin vd _ _ | .vmax vd _ _
  | .vand vd _ _ | .vor vd _ _ | .vxor vd _ _ | .vshl vd _ _ _ | .vsar vd _ _ _ | .vshr vd _ _ | .vmov vd _
  | .vsel vd _ _ _ | .vbrd vd _ | .vperm vd _ _ _ => [0x40 + vd.toNat]
  | .vget sd _ _ => [sd.toNat]
  | .vcmp pd _ _ _ => [0x30 + pd.toNat]

/-- The slots of a bundle that break R82, a bit each: 1 C, 2 X, 4 Y, 8 V. The enable bits play no part: R80 says that a
disabled operation sets no exception and R82 speaks of the bundle, and the model takes an illegal bundle as one whatever its
predicates hold (DESIGN CHOICE, log entry 29). -/
def illegalSlots (d : Dec) : Nat :=
  let bad (ok : Bool) (b : Nat) : Nat := if ok then 0 else b
  let okC := match d.c with
    | some (p, o) => predOk p && legalC o
    | none => false
  let okX := match d.x with
    | some (p, o) => predOk p && legalM o
    | none => false
  let okY := match d.y with
    | some (p, o) => predOk p && legalM o
    | none => false
  let okV := match d.v with
    | some (p, o) => predOk p && legalV o
    | none => false
  let wc := (d.c.map fun e => writesC e.2).getD []
  let wx := (d.x.map fun e => writesM .x e.2).getD []
  let wy := (d.y.map fun e => writesM .y e.2).getD []
  let wv := (d.v.map fun e => writesV e.2).getD []
  let meets (a b : List Nat) : Bool := a.any fun r => b.contains r
  let c := bad okC 1 ||| bad (!(meets wc wx || meets wc wy || meets wc wv)) 1
  let x := bad okX 2 ||| bad (!(meets wx wc || meets wx wy || meets wx wv)) 2
  let y := bad okY 4 ||| bad (!(meets wy wc || meets wy wx || meets wy wv)) 4
  let v := bad okV 8 ||| bad (!(meets wv wc || meets wv wx || meets wv wy)) 8
  c ||| x ||| y ||| v

/-! ## What a consumer sees (R55, Tables 2.7, 2.8, 3.11) -/

/-- Where a consumer reads: C slot, addresses and store data; the predicate of a bundle, or of a predicated branch;
vector operands; an accumulator for a MAC, or for an extraction. -/
inductive Reader where
  | c | pd | br | v | mac | accx
  deriving DecidableEq, Repr

/-- Minimum distance in bundles at which a consumer sees a result (Tables 2.8, 3.11). -/
def distance (p : PClass) (r : Reader) : Nat :=
  match p, r with
  | .pred, .pd | .pred, .br => 2
  | .pred, _ => 1
  | .load, .v => 2
  | .load, _ => 4
  | .vload, .v => 2
  | .vload, _ => 4
  | .valu, .v => 1
  | .valu, _ => 4
  | .vget, .v => 2
  | .vget, _ => 4
  | .vcmp, .pd => 5
  | .vcmp, .br => 3
  | .vcmp, .v => 2
  | .vcmp, _ => 4
  | .mac, .mac => 1
  | .mac, .accx => 2
  | .mac, _ => 5
  | .ext, .v => 2
  | .ext, _ => 5
  | .strv, _ => 4

/-- Cycles after AG at whose end a class's result reaches its register (Table 2.7). -/
def readyAt : PClass → Nat
  | .pred => 0
  | .load | .vload | .valu | .vget | .vcmp => 3
  | .mac | .ext | .strv => 4

/-- Of two results to one register, the one that completes later, or in the same cycle the later bundle's (R83). -/
def later (a : Option Flight) (f : Flight) : Option Flight :=
  match a with
  | none => some f
  | some g => if readyAt f.cls + g.age ≥ readyAt g.cls + f.age then some f else some g

/-- The value on its way to `d` that reader `r` sees. -/
def Core.inFlight (c : Core) (r : Reader) (d : Dst) : Option (BitVec 72) :=
  ((c.flights.filter fun f => decide (f.dst = d) && decide (distance f.cls r ≤ f.age)).foldl later none).map (·.val)

/-! ## Registers by code (Table 3.4) -/

/-- The register file's own word. -/
def Core.base (c : Core) (code : Nat) : W32 :=
  if code < 0x10 then Tbl.get 0 c.s code
  else if code < 0x18 then (Tbl.get 0 c.x (code - 0x10)).setWidth 32
  else if code < 0x20 then (Tbl.get 0 c.y (code - 0x18)).setWidth 32
  else if code < 0x28 then (Tbl.get 0 c.k (code - 0x20)).signExtend 32
  else if code < 0x30 then (Tbl.get 0 c.q (code - 0x28)).setWidth 32
  else if code < 0x34 then (Tbl.get 0 c.p (code - 0x30)).setWidth 32
  else if code = 0x34 then c.lc0.setWidth 32
  else if code = 0x35 then c.lc1.setWidth 32
  else if code = 0x36 then c.st
  else if code = 0x37 then c.ra.setWidth 32
  else if code = 0x38 then c.epc.setWidth 32
  else if code = 0x39 then c.est
  else c.ic

/-- Store a word to the register file with the width of Table 3.4; ST as `stWrite` is the caller's. -/
def Core.setBase (c : Core) (code : Nat) (v : W32) : Core :=
  if code < 0x10 then { c with s := Tbl.put 0 c.s code v }
  else if code < 0x18 then { c with x := Tbl.put 0 c.x (code - 0x10) (v.setWidth 18) }
  else if code < 0x20 then { c with y := Tbl.put 0 c.y (code - 0x18) (v.setWidth 18) }
  else if code < 0x28 then { c with k := Tbl.put 0 c.k (code - 0x20) (v.setWidth 18) }
  else if code < 0x30 then { c with q := Tbl.put 0 c.q (code - 0x28) (v.setWidth 16) }
  else if code < 0x34 then { c with p := Tbl.put 0 c.p (code - 0x30) (v.setWidth 16) }
  else if code = 0x34 then { c with lc0 := v.setWidth 17 }
  else if code = 0x35 then { c with lc1 := v.setWidth 17 }
  else if code = 0x36 then { c with st := v }
  else if code = 0x37 then { c with ra := v.setWidth 12 }
  else if code = 0x38 then { c with epc := v.setWidth 12 }
  else if code = 0x39 then { c with est := v }
  else c

/-- A predicate register as reader `r` sees it, bit by bit. -/
def Core.pred (c : Core) (r : Reader) (i : Nat) : BitVec 16 :=
  BitVec.ofNat 16 ((List.range 16).foldl (fun n b =>
    n + 2 ^ b * (match c.inFlight r (.p (16 * i + b)) with
      | some x => x.toNat % 2
      | none => b2n ((Tbl.get 0 c.p i).getLsbD b))) 0)

/-- ST as a C-slot reader sees it: sticky bits count once their operation is visible (R83). -/
def Core.status (c : Core) : W32 :=
  c.st ||| (if (c.inFlight .c .sat).isSome then 0x10#32 else 0) ||| (if (c.inFlight .c .aov).isSome then 0x20#32 else 0)

/-- A word of a 32-bit load as a read of the register that it goes to returns it (Table 3.4). -/
def asRead (code : Nat) (v : W32) : W32 :=
  if code < 0x10 then v
  else if code < 0x20 then (v.setWidth 18).setWidth 32
  else if code < 0x28 then (v.setWidth 18).signExtend 32
  else if code < 0x30 then (v.setWidth 16).setWidth 32
  else v

/-- A register by its code, as reader `r` sees it. -/
def Core.reg (c : Core) (r : Reader) (code : Nat) : W32 :=
  if 0x30 ≤ code ∧ code < 0x34 then (c.pred r (code - 0x30)).setWidth 32
  else if code = 0x36 then c.status
  else match c.inFlight r (.reg code) with
    | some x => asRead code (x.setWidth 32)
    | none => c.base code

def Core.elem (c : Core) (r : Reader) (i e : Nat) : W32 :=
  match c.inFlight r (.v (16 * i + e)) with
  | some x => x.setWidth 32
  | none => Tbl.get 0 c.v (16 * i + e)

def Core.accElem (c : Core) (r : Reader) (i e : Nat) : BitVec 72 :=
  match c.inFlight r (.acc (16 * i + e)) with
  | some x => x
  | none => Tbl.get 0 c.acc (16 * i + e)

/-- The enable bits of an operation (R80). -/
def Core.enables (c : Core) (r : Reader) (p : Pred) : BitVec 16 :=
  if ¬ p.pe then 0xFFFF
  else if p.pn then ~~~(c.pred r p.ps.toNat) else c.pred r p.ps.toNat

/-! ## Writing results -/

/-- Put one result into the register file. -/
def Core.land (c : Core) (d : Dst) (v : BitVec 72) : Core :=
  match d with
  | .reg code => c.setBase code (v.setWidth 32)
  | .p i =>
    let w := Tbl.get 0 c.p (i / 16)
    { c with p := Tbl.put 0 c.p (i / 16) (BitVec.ofNat 16 (putBits w.toNat (i % 16) 1 v.toNat)) }
  | .v i => { c with v := Tbl.put 0 c.v i (v.setWidth 32) }
  | .acc i => { c with acc := Tbl.put 0 c.acc i v }
  | .sat => { c with st := c.st ||| 0x10#32 }
  | .aov => { c with st := c.st ||| 0x20#32 }
  | .mem _ => c
  | .xsig _ => c
  | .old _ => c

/-- A C-slot or pointer result, seen from the next bundle on: an older result that completes no later is replaced. -/
def Core.writeNow (c : Core) (code : Nat) (v : W32) : Core :=
  let stale := fun f : Flight => (decide (f.dst = .reg code) && decide (readyAt f.cls ≤ f.age)) ||
    (code == 0x36 && (decide (f.dst = .sat) || decide (f.dst = .aov)) && decide (readyAt f.cls < f.age))
  let c := { c with flights := c.flights.filter fun f => !stale f }
  if code = 0x36 then c.setBase code (stWrite c.st v) else c.setBase code v

/-- Whether the result `g` completes before the result `f` of an earlier bundle to the same register, so that the value of
`f` remains (R83). -/
def overtaken (f g : Flight) : Bool := decide (g.dst = f.dst) && decide (readyAt g.cls + f.age < readyAt f.cls + g.age)

/-- Results old enough for every consumer enter the register file, in order of completion; younger ones that completed
before them are lost (R83). -/
def Core.fold (c : Core) (old : Nat) : Core :=
  let go := c.flights.filter fun f => decide (old ≤ f.age)
  let stay := c.flights.filter fun f => !decide (old ≤ f.age)
  let c := (List.range 9).foldl (fun c t =>
    (go.filter fun f => readyAt f.cls + 4 == t + min f.age 4).foldl (fun c f => c.land f.dst f.val) c) c
  { c with flights := stay.filter fun g => !go.any fun f => overtaken f g }

/-! ## Addressing (Table 3.6, R90, R91) -/

/-- The least power of two that is at least `l`, for `l` of 1 to 65,535. -/
def pow2AtLeast (l : Nat) : Nat := if l ≤ 1 then 1 else 2 ^ (Nat.log2 (l - 1) + 1)

/-- Post-modification by step `d` with modulo length `l` (R90). -/
def stepPtr (ptr l : Nat) (d : Int) : Nat :=
  if l = 0 then uns 18 (ptr + d)
  else
    let p := pow2AtLeast l
    let base := ptr / p * p
    let o' : Int := (ptr - base : Nat) + d
    let o'' := if o' ≥ l then o' - l else if o' < 0 then o' + l else o'
    uns 18 (base + o'')

def revBits (b v : Nat) : Nat := (List.range b).foldl (fun n i => n + 2 ^ (b - 1 - i) * (v / 2 ^ i % 2)) 0

/-- Reverse-carry post-modification (R91). -/
def stepReversed (ptr l : Nat) (d : Int) : Nat :=
  if l < 2 then ptr
  else
    let b := Nat.log2 l
    let lo := revBits b ((revBits b (ptr % 2 ^ b) + revBits b (uns b d)) % 2 ^ b)
    ptr / 2 ^ b * 2 ^ b + lo

/-- The address that an operation of format M uses, and its pointer afterwards (Table 3.6). -/
def Core.address (c : Core) (bus : Bus) (m : MemF) : Nat × Nat :=
  let ptr := (c.reg .c (ptrCode bus m.ptr.toNat)).toNat % 2 ^ 18
  let l := (c.reg .c (0x28 + m.ptr.toNat)).toNat % 2 ^ 16
  let k := (c.reg .c (0x20 + bits m.amf.toNat 8 3)).toInt
  let imm := m.amf.toInt
  match m.am.toNat with
  | 0 => (ptr, stepPtr ptr l k)
  | 1 => (ptr, stepPtr ptr l imm)
  | 2 => (uns 18 (ptr + imm), ptr)
  | _ => (ptr, stepReversed ptr l k)

end Sys2Proof.Machine
end

