-- ==== Sys2Proof/Machine/Valuc.lean ====
section
/-! DEFINITION. Machine/Valuc.lean: how a bundle issues (R46 to R60, R69, R78 to R101): the effect of each slot, the
exceptions, repeat loops, branch-class operations and event lines. Stall cycles are timing and left out (R56). -/

namespace Sys2Proof.Machine

/-! ## Core state and event lines -/

def State.coreState (s : State) (cl j : Nat) : Nat := s.fget (HRT_CORE_STATUS_STATE cl j)

/-- The loop-back test of the innermost repeat level (R95). -/
def Core.loopBack (c : Core) : Core :=
  if ¬ c.loopDue then c
  else
    let c := { c with loopDue := false }
    match c.loops.reverse with
    | [] => c
    | l :: outer =>
      let inner := decide (outer ≠ [])
      let lc := (if inner then c.lc1 else c.lc0).toNat
      let set := fun (v : Nat) =>
        if inner then { c with lc1 := BitVec.ofNat 17 v } else { c with lc0 := BitVec.ofNat 17 v }
      if lc > 1 then
        { set (lc - 1) with
          pc := BitVec.ofNat 12 l.start
          loops := (({ l with first := false, issued := if l.irep then 0 else l.issued } : Loop) :: outer).reverse }
      else { set 0 with loops := outer.reverse }

/-- Enter a core state (Table 2.11) with the bits and the PC that show it (Tables 2.13, 2.15, 2.17). -/
def setCoreState (s : State) (cl j st : Nat) : State :=
  let s := s.fset (HRT_CORE_STATUS_STATE cl j) st
  let s := s.fset ⟨HRT_CL_STATUS cl, 8 + j, 1⟩ (b2n (st == 5))
  let s := s.fset ⟨HRT_CL_STATUS cl, 16 + j, 1⟩ (b2n (st == 4))
  let shown := st == 3 || st == 4 || st == 5
  let s := s.fset (HRT_CORE_PC_PC cl j) (if shown then (s.core cl j).loopBack.pc.toNat else 0)
  s.fset (HRT_CORE_PC_PC_VALID cl j) (b2n shown)

/-- Every issued bundle completes (R66, R69, R106): its stores, its register results and its XSIG. The returned list
names the cores that XSIG raises XCORE on. -/
def drainCore (s : State) (cl j : Nat) : State × List Nat :=
  let c := s.core cl j
  let s := s.each c.flights fun s f => match f.dst with
    | .mem a => store32 s a (f.val.setWidth 32)
    | _ => s
  let sigs := c.flights.filterMap fun f => match f.dst with
    | .xsig t => some t
    | _ => none
  (s.setCore cl j (c.fold 0), sigs)

/-- While a core does not issue, its rounded stores and XSIGs complete (Table 2.7), and its register results keep their
distances, which count bundles (R55). A load of the core that comes too close to a rounded store still finds the old word. -/
def settleCore (s : State) (cl j : Nat) : State × List Nat :=
  let c := s.core cl j
  let out := c.flights.foldl (fun (a : State × List Flight) f => match f.dst with
    | .mem b => (store32 a.1 b (f.val.setWidth 32), a.2 ++ [{ f with dst := .old b, val := (Memory.rd32 a.1.mem b).setWidth 72 }])
    | .xsig _ => a
    | _ => (a.1, a.2 ++ [f])) (s, [])
  let sigs := c.flights.filterMap fun f => match f.dst with
    | .xsig t => some t
    | _ => none
  (out.1.setCore cl j { c with flights := out.2 }, sigs)

/-- Raise an event line on a core (R62); a core waiting on it goes on (R63). -/
def raiseLine (s : State) (cl j e : Nat) : State :=
  let c := s.core cl j
  let ev := c.events ||| (1#16 <<< e)
  if s.coreState cl j = 3 ∧ c.waitMask &&& ev ≠ 0 then
    setCoreState (s.setCore cl j { c with events := ev &&& ~~~c.waitMask }) cl j 2
  else s.setCore cl j { c with events := ev }

def raiseLines (s : State) (cl : Nat) (js : List Nat) (e : Nat) : State := s.each js fun s j => raiseLine s cl j e

def otherCores (j : Nat) : List Nat := (List.range 8).filter (· ≠ j)

/-- Let every earlier bundle of a core complete, with its XSIG (R66, R69). -/
def drain (s : State) (cl j : Nat) : State :=
  let (s, sigs) := drainCore s cl j
  raiseLines s cl sigs 6

/-- A core stops issuing, in WAIT, in HALTED or at the end of its task. -/
def settleFlights (s : State) (cl j : Nat) : State :=
  let (s, sigs) := settleCore s cl j
  raiseLines s cl sigs 6

/-! ## What a bundle does -/

/-- An exception that a slot raises: code, slot bit, and the word address and bus of ALIGN, BUS and DMECC. -/
structure Exc where
  code : Nat
  slot : Nat
  addr : Option (Nat × Bus) := none
  deriving DecidableEq, Repr

/-- Control effects of the C slot. -/
inductive Ctl where
  | none
  /-- a branch-class operation; `none` falls through after its delay slots -/
  | branch (t : Option Turn)
  | skip (n : Nat)
  | rep (len : Nat) (irep : Bool) (cnt : Nat)
  | wait (mask : BitVec 16)
  | xsig (core : Nat)
  | halt
  deriving DecidableEq, Repr

/-- The effects of one slot. -/
structure Eff where
  /-- register writes seen from the next bundle on, by code -/
  regs : List (Nat × W32) := []
  flights : List Flight := []
  /-- ordinary stores by byte address -/
  stores : List (Nat × W32) := []
  sat : Bool := false
  aov : Bool := false
  ctl : Ctl := .none
  excs : List Exc := []
  /-- address ranges that a load read: first word address and bus, words -/
  loads : List (Nat × Nat) := []
  deriving DecidableEq, Repr

def Eff.merge (a b : Eff) : Eff :=
  { regs := a.regs ++ b.regs, flights := a.flights ++ b.flights, stores := a.stores ++ b.stores
    sat := a.sat || b.sat, aov := a.aov || b.aov, ctl := if a.ctl = .none then b.ctl else a.ctl
    excs := a.excs ++ b.excs, loads := a.loads ++ b.loads }

/-! ### C slot -/

/-- The effect of an arithmetic operation: its result and the flags of Table 3.5. -/
def aluEff (c : Core) (sd : Nat) (r : Alu) : Eff :=
  { regs := (sd, r.val) :: (if r.nz ∨ r.c.isSome ∨ r.v.isSome ∨ r.sat then [(0x36, stFlags c.status r)] else [])
    sat := r.sat }

def flagEff (c : Core) (r : Alu) : Eff := { regs := [(0x36, stFlags c.status r)] }

/-- A C-slot write of a predicate register, for the element bits of `v`. -/
def predEff (i : Nat) (v : BitVec 16) : Eff :=
  { flights := (List.range 16).map fun (b : Nat) => ⟨0, .pred, .p (16 * i + b), BitVec.ofNat 72 (b2n (v.getLsbD b))⟩ }

/-- A MOVR (Table 3.4): a predicate takes the distance of a predicate write, and is read in PD (Table 2.7). -/
def movrEff (c : Core) (dst src : Nat) : Eff :=
  let v := c.reg (if 0x30 ≤ src ∧ src < 0x34 then .pd else .c) src
  if 0x30 ≤ dst ∧ dst < 0x34 then predEff (dst - 0x30) (v.setWidth 16) else { regs := [(dst, v)] }

/-- Where a core stands: its bundle address, whether that is a delay slot, and BRK_HALT. -/
structure Place where
  cl : Nat
  j : Nat
  pc : Nat
  slot : Bool
  brkHalt : Bool
  deriving DecidableEq, Repr

def repRule : Eff := { excs := [⟨7, 1, none⟩] }

/-- A branch-class operation is not allowed in a REP body (R58, R84). -/
def branchEff (c : Core) (t : Option Turn) : Eff := if c.loops = [] then { ctl := .branch t } else repRule

/-- REP and IREP (R57, R58, R95). -/
def repEff (c : Core) (w : Place) (irep : Bool) (len : BitVec 10) (byReg : Bool) (cnt : BitVec 10) : Eff :=
  let n := len.toNat + 1
  let count := if byReg then (c.reg .c (cnt.toNat % 16)).toNat else cnt.toNat + 1
  let inner : Bool := match c.loops with
    | [] => true
    | [l] => decide (w.pc + n < l.stop)
    | _ => false
  if w.slot || !inner || decide (65536 < count) then repRule
  else if count = 0 then { ctl := .skip n }
  else { ctl := .rep n irep count }

/-- The effect of an enabled C-slot operation. -/
def cEff (c : Core) (w : Place) (o : COp) : Eff :=
  let r := fun i : BitVec 4 => c.reg .c i.toNat
  let sh := fun i : BitVec 4 => (c.reg .c i.toNat).toNat % 32
  let p := fun i : BitVec 2 => c.pred .pd i.toNat
  match o with
  | .nop => {}
  | .add d a b => aluEff c d.toNat (aluAdd (r a) (r b))
  | .sub d a b => aluEff c d.toNat (aluSub (r a) (r b))
  | .adds d a b => aluEff c d.toNat (aluAdds (r a) (r b))
  | .subs d a b => aluEff c d.toNat (aluSubs (r a) (r b))
  | .and d a b => aluEff c d.toNat (aluLogic (r a &&& r b))
  | .or d a b => aluEff c d.toNat (aluLogic (r a ||| r b))
  | .xor d a b => aluEff c d.toNat (aluLogic (r a ^^^ r b))
  | .shl d a b => aluEff c d.toNat (aluShl (r a) (sh b))
  | .shr d a b => aluEff c d.toNat (aluShr (r a) (sh b))
  | .sar d a b => aluEff c d.toNat (aluSar (r a) (sh b))
  | .min d a b => aluEff c d.toNat (aluMin (r a) (r b))
  | .max d a b => aluEff c d.toNat (aluMax (r a) (r b))
  | .cmp a b => flagEff c (aluSub (r a) (r b))
  | .mull d a b => aluEff c d.toNat (aluLogic (r a * r b))
  | .addi d a i => aluEff c d.toNat (aluAdd (r a) (i.signExtend 32))
  | .cmpi a i => flagEff c (aluSub (r a) (i.signExtend 32))
  | .andi d a i => aluEff c d.toNat (aluLogic (r a &&& i.setWidth 32))
  | .shli d a i => aluEff c d.toNat (aluShl (r a) i.toNat)
  | .shri d a i => aluEff c d.toNat (aluShr (r a) i.toNat)
  | .sari d a i => aluEff c d.toNat (aluSar (r a) i.toNat)
  | .movi d i => aluEff c d.toNat (aluPlain (i.signExtend 32))
  | .movhi d i => aluEff c d.toNat (aluPlain (BitVec.ofNat 32 (putBits (r d).toNat 16 16 i.toNat)))
  | .movr dst src => movrEff c dst.toNat src.toNat
  | .neg d a => aluEff c d.toNat (aluSub 0 (r a))
  | .abs d a => aluEff c d.toNat (aluAbs (r a))
  | .not d a => aluEff c d.toNat (aluLogic (~~~(r a)))
  | .nrm d a => aluEff c d.toNat (aluPlain (nrmOf (r a)))
  | .rcps d a => aluEff c d.toNat (aluRcps (r a))
  | .divsU rem q v =>
    let t := divStep (r rem) (r q) (r v).toNat
    { regs := [(rem.toNat, t.1), (q.toNat, t.2)] }
  | .divsS rem q v =>
    let t := divStep (r rem) (r q) (magnitude (r v))
    { regs := [(rem.toNat, t.1), (q.toNat, t.2)] }
  | .cmpp pd cc a b => predEff pd.toNat (if ccHolds cc.toNat (r a) (r b) then 0xFFFF else 0)
  | .pand pd a b => predEff pd.toNat (p a &&& p b)
  | .por pd a b => predEff pd.toNat (p a ||| p b)
  | .pxor pd a b => predEff pd.toNat (p a ^^^ p b)
  | .pnot pd a => predEff pd.toNat (~~~(p a))
  | .pseti pd i => predEff pd.toNat i
  | .br cond t => branchEff c (if condHolds cond.toNat c.st then some (.jump t.toNat) else none)
  | .bri cond a => branchEff c (if condHolds cond.toNat c.st then some (.jump ((r a).toNat % 4096)) else none)
  | .call t => (branchEff c (some (.jump t.toNat))).merge { regs := [(0x37, BitVec.ofNat 32 ((w.pc + 4) % 4096))] }
  | .ret => branchEff c (some (.jump ((c.reg .c 0x37).toNat)))
  | .rte => branchEff c (some .rte)
  | .endTask => branchEff c (some .endTask)
  | .rep len byReg cnt => repEff c w false len byReg cnt
  | .irep len byReg cnt => repEff c w true len byReg cnt
  | .waite mask => if c.loops = [] then { ctl := .wait mask } else repRule
  | .xsig t => { ctl := .xsig t.toNat }
  | .brk => if w.brkHalt then { ctl := .halt } else { excs := [⟨8, 1, none⟩] }
  | .trap => { excs := [⟨9, 1, none⟩] }

def isBranch (o : COp) : Bool :=
  match o with
  | .br _ _ | .bri _ _ | .call _ | .ret | .rte | .endTask => true
  | _ => false

/-- A disabled C-slot operation (Table 3.3). -/
def cOff (o : COp) : Eff :=
  if isBranch o then { ctl := .branch none }
  else match o with
    | .rep len _ _ => { ctl := .skip (len.toNat + 1) }
    | .irep len _ _ => { ctl := .skip (len.toNat + 1) }
    | _ => {}

def cSlot (c : Core) (w : Place) (p : Pred) (o : COp) : Eff :=
  if (c.enables (if isBranch o then .br else .pd) p).getLsbD 0 then cEff c w o else cOff o

/-! ### X and Y slots -/

/-- The byte address of a data word on a bus (Tables 2.2, 2.3); none for the tick descriptor and where nothing is. -/
def busByte (w : Place) (bus : Bus) (a : Nat) : Option Nat :=
  if a < 0xC000 then
    some (clusterBase w.cl + w.j * 0x80000 + (match bus with | .x => 0x10000 | .y => 0x40000) + 4 * a)
  else if 0x20000 ≤ a ∧ a < 0x40000 then some (clusterBase w.cl + 0x400000 + 4 * (a - 0x20000))
  else none

def isDescr (a : Nat) : Bool := decide (0x1FFF0 ≤ a) && decide (a < 0x20000)

/-- The word before a rounded store of this core that is less than four bundles old (Table 2.8). -/
def Core.oldWord (c : Core) (b : Nat) : Option W32 :=
  (c.flights.find? fun f => decide (f.dst = .old b) && decide (f.age < 4)).map fun f => f.val.setWidth 32

/-- A data word as a core reads it. -/
def busRead (s : State) (w : Place) (bus : Bus) (a : Nat) : W32 :=
  match busByte w bus a with
  | some b => ((s.core w.cl w.j).oldWord b).getD (Memory.rd32 s.mem b)
  | none => if isDescr a then (((s.cluster w.cl).desc)[a - 0x1FFF0]?).getD 0 else 0

/-- The exception of an access of `n` words at `a` (R48, R96): ALIGN, else BUS, else DMECC for a load. -/
def accessExc (s : State) (w : Place) (bus : Bus) (a n : Nat) (store : Bool) : Option Nat :=
  let ws := (List.range n).map (a + ·)
  if a % n ≠ 0 then some 2
  else if ws.any fun x => (busByte w bus x).isNone && (store || !isDescr x) then some 3
  else if !store && ws.any fun x => (match busByte w bus x with
      | some b => s.hasUE b 4
      | none => false) then some 5
  else none

def slotBit : Bus → Nat
  | .x => 2
  | .y => 4

/-- An access with its enable bits (R80, R81): the exception, or what `f` does. -/
def access (s : State) (w : Place) (bus : Bus) (a n : Nat) (store any : Bool) (f : Eff) : Eff :=
  if ¬ any then {}
  else match accessExc s w bus a n store with
    | some code => { excs := [⟨code, slotBit bus, some (a, bus)⟩] }
    | none => if store then f else { f with loads := [((busByte w bus a).getD 0, 4 * n)] }

/-- A load flight into a register of Table 3.4. -/
def loadReg (code : Nat) (v : W32) : List Flight :=
  if 0x30 ≤ code ∧ code < 0x34 then
    (List.range 16).map fun (b : Nat) => ⟨0, .load, .p (16 * (code - 0x30) + b), BitVec.ofNat 72 (b2n (v.getLsbD b))⟩
  else [⟨0, .load, .reg code, v.setWidth 72⟩]

def loadVec (r : Nat) (en : BitVec 16) (f : Nat → W32) : List Flight :=
  ((List.range 16).filter fun e => en.getLsbD e).map fun e => ⟨0, .vload, .v (16 * r + e), (f e).setWidth 72⟩

/-- The effect of an X-slot or Y-slot operation (Table 3.8, R90, R96). -/
def mSlot (s : State) (c : Core) (w : Place) (bus : Bus) (p : Pred) (o : MOp) : Eff :=
  let en := c.enables .pd p
  let one := en.getLsbD 0
  let any := en != 0
  let post := fun (m : MemF) (e : Eff) =>
    e.merge { regs := if m.am = 2 then [] else
      [(ptrCode bus m.ptr.toNat, BitVec.ofNat 32 (c.address bus m).2)] }
  let rd := fun a => busRead s w bus a
  let byte := fun a => (busByte w bus a).getD 0
  match o with
  | .nop => {}
  | .ldW m =>
    let a := (c.address bus m).1
    post m (access s w bus a 1 false one { flights := loadReg m.reg.toNat (rd a) })
  | .ldD m =>
    let a := (c.address bus m).1
    post m (access s w bus a 2 false one
      { flights := loadReg m.reg.toNat (rd a) ++ loadReg (m.reg.toNat + 1) (rd (a + 1)) })
  | .ldV m =>
    let a := (c.address bus m).1
    post m (access s w bus a 16 false any { flights := loadVec m.reg.toNat en fun e => rd (a + e) })
  | .ldbW m =>
    let a := (c.address bus m).1
    post m (access s w bus a 1 false any { flights := loadVec m.reg.toNat en fun _ => rd a })
  | .ldbD m =>
    let a := (c.address bus m).1
    post m (access s w bus a 2 false any { flights := loadVec m.reg.toNat en fun e => rd (a + e % 2) })
  | .stW m =>
    let a := (c.address bus m).1
    post m (access s w bus a 1 true one { stores := [(byte a, c.reg .c m.reg.toNat)] })
  | .stD m =>
    let a := (c.address bus m).1
    post m (access s w bus a 2 true one
      { stores := [(byte a, c.reg .c m.reg.toNat), (byte (a + 1), c.reg .c (m.reg.toNat + 1))] })
  | .stV m =>
    let a := (c.address bus m).1
    post m (access s w bus a 16 true any
      { stores := ((List.range 16).filter fun e => en.getLsbD e).map fun e =>
          (byte (a + e), c.elem .c m.reg.toNat e) })
  | .strV acc sh sat ptr kr =>
    let m : MemF := ⟨0, ptr, 0, BitVec.ofNat 11 (256 * kr.toNat)⟩
    let a := (c.address bus m).1
    let es := (List.range 16).filter fun e => en.getLsbD e
    post m (access s w bus a 16 true any
      { flights := (es.map fun e =>
          ⟨0, .strv, .mem (byte (a + e)), (extractWord (c.accElem .accx acc.toNat e) sh.toInt sat).setWidth 72⟩)
        sat := es.any fun e => extractClips (c.accElem .accx acc.toNat e) sh.toInt sat })
  | .addp m => post m {}

/-! ### V slot -/

/-- Element results of a vector operation for the enabled elements. -/
def vecEff (cls : PClass) (en : BitVec 16) (vd : Nat) (f : Nat → W32) (clipped : Nat → Bool) : Eff :=
  let es := (List.range 16).filter fun e => en.getLsbD e
  { flights := es.map fun e => ⟨0, cls, .v (16 * vd + e), (f e).setWidth 72⟩, sat := es.any clipped }

def plainVec (en : BitVec 16) (vd : BitVec 4) (f : Nat → W32) : Eff := vecEff .valu en vd.toNat f fun _ => false

/-- Accumulator results from exact values (R85). -/
def accEff (en : BitVec 16) (acc : Nat) (f : Nat → Int) : Eff :=
  let es := (List.range 16).filter fun e => en.getLsbD e
  { flights := es.map fun e => ⟨0, .mac, .acc (16 * acc + e), accOf (f e)⟩, aov := es.any fun e => accOver (f e) }

/-- The exact product sum of element `e` (R51). -/
def product (form : MacForm) (a b : Nat → Int) (e : Nat) : Int :=
  let r := e / 2 * 2
  let i := r + 1
  match form with
  | .real => a e * b e
  | .complex => if e = r then a r * b r - a i * b i else a r * b i + a i * b r
  | .conj => if e = r then a r * b r + a i * b i else a i * b r - a r * b i

def permElem (pat : Nat) (va vb : Nat → W32) (e : Nat) : W32 :=
  let odd := e % 2
  let i := e / 2
  match pat with
  | 0 => va (if odd = 0 then e + 1 else e - 1)
  | 1 => if odd = 0 then va i else vb i
  | 2 => if odd = 0 then va (8 + i) else vb (8 + i)
  | 3 => if e < 8 then va (2 * e) else vb (2 * (e - 8))
  | 4 => if e < 8 then va (2 * e + 1) else vb (2 * (e - 8) + 1)
  | 5 => va ((e + 1) % 16)
  | 6 => if i % 2 = 0 then va (i / 2 * 2 + odd) else vb (i / 2 * 2 + odd)
  | _ => if i % 2 = 0 then va ((4 + i / 2) * 2 + odd) else vb ((4 + i / 2) * 2 + odd)

/-- The effect of a V-slot operation (Table 3.9, R85 to R88, R97). VSEL reads its PSEL register as a vector operand, and
ACCADD reads both of its accumulators at the distance of an accumulate: Tables 2.8 and 3.11 have no row for either (DESIGN
CHOICE, log entry 29). -/
def vSlot (c : Core) (p : Pred) (o : VOp) : Eff :=
  let en := c.enables .pd p
  let w := fun (i : BitVec 4) (e : Nat) => c.elem .v i.toNat e
  let n := fun (i : BitVec 4) (e : Nat) => (c.elem .v i.toNat e).toInt
  let sat2 := fun (vd : BitVec 4) (sat : Bool) (f : Nat → Int) =>
    vecEff .valu en vd.toNat (fun e => vecOf (f e) sat) (fun e => vecClips (f e) sat)
  match o with
  | .nop => {}
  | .mac form m acc va vb => accEff en acc.toNat fun e =>
      let x := product form (n va) (n vb) e
      let old := (c.accElem .mac acc.toNat e).toInt
      match m with
      | .set => x
      | .add => old + x
      | .sub => old - x
  | .bfly pair va vb vw =>
      let t := product .complex (n vw) (n vb)
      let top := if pair then 2 else 0
      (accEff en top fun e => n va e * 2 ^ 31 + t e).merge (accEff en (top + 1) fun e => n va e * 2 ^ 31 - t e)
  | .ext vd acc sh sat =>
      vecEff .ext en vd.toNat (fun e => extractWord (c.accElem .accx acc.toNat e) sh.toInt sat)
        (fun e => extractClips (c.accElem .accx acc.toNat e) sh.toInt sat)
  | .accld acc va sh => accEff en acc.toNat fun e => n va e * 2 ^ (31 - sh.toInt).toNat
  | .accz acc => accEff en acc.toNat fun _ => 0
  | .accadd d a => accEff en d.toNat fun e => (c.accElem .mac d.toNat e).toInt + (c.accElem .mac a.toNat e).toInt
  | .vadd vd va vb sat => sat2 vd sat fun e => n va e + n vb e
  | .vsub vd va vb sat => sat2 vd sat fun e => n va e - n vb e
  | .vneg vd va sat => sat2 vd sat fun e => -n va e
  | .vabs vd va sat => sat2 vd sat fun e => (n va e).natAbs
  | .vmin vd va vb => plainVec en vd fun e => if n va e ≤ n vb e then w va e else w vb e
  | .vmax vd va vb => plainVec en vd fun e => if n va e ≥ n vb e then w va e else w vb e
  | .vand vd va vb => plainVec en vd fun e => w va e &&& w vb e
  | .vor vd va vb => plainVec en vd fun e => w va e ||| w vb e
  | .vxor vd va vb => plainVec en vd fun e => w va e ^^^ w vb e
  | .vshl vd va sat i => sat2 vd sat fun e => n va e * 2 ^ i.toNat
  | .vsar vd va sat i => plainVec en vd fun e =>
      BitVec.ofInt 32 (if sat then rnd (n va e) i.toNat else asr (n va e) i.toNat)
  | .vshr vd va i => plainVec en vd fun e => w va e >>> i.toNat
  | .vmov vd va => plainVec en vd fun e => w va e
  | .vsel vd va vb ps => plainVec en vd fun e => if (c.pred .v ps.toNat).getLsbD e then w va e else w vb e
  | .vbrd vd sa => plainVec en vd fun _ => c.reg .v sa.toNat
  | .vget sd va e =>
      if en.getLsbD 0 then { flights := [⟨0, .vget, .reg sd.toNat, (w va e.toNat).setWidth 72⟩] } else {}
  | .vperm vd va vb pat => plainVec en vd fun e => permElem pat.toNat (w va) (w vb) e
  | .vcmp pd cc va vb =>
      { flights := ((List.range 16).filter fun e => en.getLsbD e).map fun e =>
          ⟨0, .vcmp, .p (16 * pd.toNat + e), BitVec.ofNat 72 (b2n (ccHolds cc.toNat (w va e) (w vb e)))⟩ }

/-! ### Issue -/

/-- Program memory byte address of bundle `a`. -/
def progByte (cl j a : Nat) : Nat := clusterBase cl + j * 0x80000 + 16 * a

/-- The bundle at `a`: from the repeat buffer where the innermost body of at most 32 bundles is held there, else from
program memory, which fills the buffer (R59). The flag tells a fetch from program memory. -/
def fetch (s : State) (cl j : Nat) (c : Core) : Core × Bundle × Bool :=
  let a := c.pc.toNat
  let raw := BitVec.ofNat 128 (leNat (Memory.rdN s.mem (progByte cl j a) 16))
  let split := fun b : BitVec 128 => (⟨b.extractLsb' 96 32, b.extractLsb' 64 32, b.extractLsb' 32 32, b.extractLsb' 0 32⟩ : Bundle)
  match c.loops.getLast? with
  | none => (c, split raw, true)
  | some l =>
    if l.start ≤ a ∧ a ≤ l.stop ∧ l.stop - l.start < 32 then
      let own := c.repOwner == some (l.start, l.stop)
      match (if own then Tbl.find c.repBuf a else none) with
      | some b => (c, split b, false)
      | none =>
        -- the buffer's keys tell which bundles it holds; a held bundle of zeros is stored as such
        let buf := (if own then c.repBuf else []).filter (fun e => e.1 ≠ a) ++ [(a, raw)]
        ({ c with repOwner := some (l.start, l.stop), repBuf := buf }, split raw, true)
    else (c, split raw, true)

/-- A core enters FAULTED (R69): the bundle wrote nothing, earlier ones complete, and the exception is captured. -/
def enterFaulted (s : State) (cl j : Nat) (code slots : Nat) (addr : Option (Nat × Bus)) (w : Place) : State :=
  let s := drain s cl j
  let c := s.core cl j
  let s := s.setCore cl j { c with turns := [], loops := [], loopDue := false }
  let s := setCoreState s cl j 5
  let s := s.wr (HRT_CORE_EXC cl j) (BitVec.ofNat 32 (code + 16 * slots + 2 ^ 16 * c.pc.toNat))
  let shown := code == 2 || code == 3 || code == 5
  let s := s.wr (HRT_CORE_EXC_ADDR cl j) (match addr with
    | some (a, bus) => if shown then
        BitVec.ofNat 32 (a + 2 ^ 18 * (match bus with | .x => 0 | .y => 1) + 2 ^ 19) else 0
    | none => 0)
  let s := s.fset (HRT_CORE_STATUS_EXC_SEEN cl j) 1
  let s := s.count (HRT_CORE_STATUS_EXC_COUNT cl j) 1
  let s := raiseLines s cl (otherCores j) 0
  if code = 4 then
    noteUE s (progByte cl j c.pc.toNat) cl 3 (srcOf (cl + 2) 8) (plain code j 0 0)
  else if code = 5 then
    noteUE s ((addr.bind fun e => busByte w e.2 e.1).getD 0) cl 1 (srcOf (cl + 2) 8) (plain code j 0 0)
  else raise s (srcOf (cl + 2) j) (plain code j 0 0)

/-- The task ends (R93): the core goes to IDLE. Results on their way keep their distances in the next task (R55). -/
def taskEnd (s : State) (cl j : Nat) : State :=
  let s := settleFlights s cl j
  let c := s.core cl j
  setCoreState (s.setCore cl j { c with task := none, turns := [] }) cl j 1

/-- RTE takes effect (R67). -/
def returnEvent (s : State) (cl j : Nat) : State :=
  let s := drain s cl j
  let c := s.core cl j
  s.setCore cl j { c with st := c.est, lc0 := c.shLc0, lc1 := c.shLc1, loops := c.shLoops, pc := c.epc }

/-- The branch-class operations whose delay slots have issued take effect (R93). -/
def takeTurn (s : State) (cl j : Nat) : State :=
  let c := s.core cl j
  let ready := c.turns.filter fun t => t.2 == 0
  let s := s.setCore cl j { c with turns := c.turns.filter fun t => t.2 != 0 }
  s.each ready fun s t => match t.1 with
    | .jump a => s.setCore cl j { s.core cl j with pc := BitVec.ofNat 12 a }
    | .endTask => taskEnd s cl j
    | .rte => returnEvent s cl j

/-- XSIG raises XCORE once every store of the core is visible (R76): at once, or with the youngest rounded store. -/
def sendXsig (s : State) (cl j t : Nat) : State :=
  let c := s.core cl j
  let stores := c.flights.filter fun f => match f.dst with
    | .mem _ => true
    | _ => false
  match stores.getLast? with
  | none => raiseLine s cl t 6
  | some f => s.setCore cl j { c with flights := c.flights ++ [⟨f.age, .strv, .xsig t, 0⟩] }

/-- Rounded stores and XSIGs of three bundles before take effect (distance 4 of Table 2.8). -/
def landStores (s : State) (cl j : Nat) : State :=
  let c := s.core cl j
  let due := c.flights.filter fun f => f.cls == .strv && decide (3 ≤ f.age)
  let s := s.setCore cl j { c with flights := c.flights.filter fun f => !(f.cls == .strv && decide (3 ≤ f.age)) }
  s.each due fun s f => match f.dst with
    | .mem a => store32 s a (f.val.setWidth 32)
    | .xsig t => raiseLine s cl t 6
    | _ => s

/-- The stores of a slot: neighbouring words go as one access, so that 64-bit words are written whole (R377). -/
def doStores (s : State) (l : List (Nat × W32)) : State :=
  match l with
  | [] => s
  | (a, v) :: t =>
    if (t.zipIdx.all fun e => e.1.1 == a + 4 * (e.2 + 1)) then
      storeBytes s a ((v :: t.map (·.2)).flatMap fun x => leBytes 4 x.toNat)
    else s.each l fun s e => store32 s e.1 e.2

/-- Delay slots, repeat levels and control after a bundle of effect `e` at `a` has issued. -/
def afterIssue (s : State) (cl j a : Nat) (e : Eff) : State :=
  let c : Core := s.core cl j
  let c : Core := { c with
    ic := c.ic + 1
    issueNow := c.issueNow + 1
    loops := c.loops.map fun (l : Loop) => { l with issued := l.issued + 1 }
    turns := c.turns.map fun (t : Turn × Nat) => (t.1, t.2 - 1)
    pc := BitVec.ofNat 12 (a + 1) }
  let c : Core := match e.ctl with
    | .branch (some t) => { c with turns := c.turns ++ [(t, 3)] }
    | .branch none => { c with turns := c.turns ++ [(Turn.jump 4096, 3)] }
    | .skip n => { c with pc := BitVec.ofNat 12 (a + 1 + n) }
    | .rep n irep cnt =>
      let l : Loop := ⟨a + 1, a + n, irep, 0, true⟩
      let c := { c with loops := c.loops ++ [l], repBuf := [], repOwner := none }
      if c.loops.length = 1 then { c with lc0 := BitVec.ofNat 17 cnt } else { c with lc1 := BitVec.ofNat 17 cnt }
    | _ => c
  let due := match e.ctl, c.loops.getLast? with
    | .rep _ _ _, _ => false
    | _, some l => decide (a = l.stop)
    | _, none => false
  s.setCore cl j { c with loopDue := due }

/-- The bundle's control effects that reach beyond the core, then what its delay slots completed. A WAITE in the last delay
slot of an END waits for nothing: the task has ended (log entry 29). -/
def finishIssue (s : State) (cl j a : Nat) (delay : Bool) (e : Eff) : State :=
  let s := match e.ctl with
    | .xsig t => sendXsig s cl j t
    | _ => s
  let c := s.core cl j
  -- a fall-through branch marks its delay slots with a target out of range
  let fell := c.turns.filter fun t => t.1 == Turn.jump 4096 && t.2 == 0
  let s := s.setCore cl j { c with turns := c.turns.filter fun t => !fell.contains t }
  let s := takeTurn s cl j
  match e.ctl with
  | .wait m =>
    let c := s.core cl j
    if c.events &&& m ≠ 0 ∨ s.coreState cl j = 1 then s.setCore cl j { c with events := c.events &&& ~~~m }
    else
      let s := settleFlights s cl j
      let c := s.core cl j
      setCoreState (s.setCore cl j { c with waitMask := m, waitPc := BitVec.ofNat 12 a, waitSlot := delay }) cl j 3
  | .halt =>
    let s := settleFlights s cl j
    let c := s.core cl j
    let st := s.coreState cl j
    let s := setCoreState (s.setCore cl j { c with heldState := if st = 4 then c.heldState else st }) cl j 4
    raiseLines s cl (otherCores j) 1
  | _ => s

/-- The exceptions of a bundle's fetch and place: PMECC marks all four slots, and REPLONG, which no slot raises, marks the C
slot of the repeat (DESIGN CHOICE, log entry 29). -/
def fetchExcs (s : State) (w : Place) (c : Core) (fetched : Bool) : List Exc :=
  (if fetched && s.hasUE (progByte w.cl w.j w.pc) 16 then [⟨4, 0xF, none⟩] else []) ++
    (if c.loops.any fun l => decide (4096 ≤ l.issued) then [⟨6, 1, none⟩] else [])

/-- A rounded store of the X slot leaves a word to the store of the Y slot in the same bundle (R83). -/
def yieldStores (x y : Eff) : Eff :=
  { x with flights := x.flights.filter fun f => match f.dst with
      | .mem a => !y.stores.any fun e => e.1 == a
      | _ => true }

/-- Issue one decoded bundle at the core's pc. Of several exceptions the one with the lowest code is captured (R82). -/
def issueBundle (s : State) (cl j : Nat) (fetched : Bool) (d : Dec) : State :=
  let c := (s.core cl j).loopBack
  let c := { c with flights := c.flights.map fun f => { f with age := f.age + 1 } }
  let a := c.pc.toNat
  let delay := decide (c.turns ≠ [])
  let w : Place := ⟨cl, j, a, delay, s.on (HRT_CORE_CTRL_BRK_HALT cl j)⟩
  let s := s.setCore cl j c
  let bad := illegalSlots d
  if bad ≠ 0 then enterFaulted s cl j 1 bad none w
  else
    let ec := (d.c.map fun e => cSlot c w e.1 e.2).getD {}
    let ey := (d.y.map fun e => mSlot s c w .y e.1 e.2).getD {}
    let ex := yieldStores ((d.x.map fun e => mSlot s c w .x e.1 e.2).getD {}) ey
    let ev := (d.v.map fun e => vSlot c e.1 e.2).getD {}
    let e := ((ec.merge ex).merge ey).merge ev
    let excs := fetchExcs s w c fetched ++ e.excs
    if excs ≠ [] then
      let code := excs.foldl (fun m x => min m x.code) 16
      let hit := excs.filter fun x => x.code == code
      enterFaulted s cl j code (hit.foldl (fun m x => m ||| x.slot) 0) ((hit.head?.map (·.addr)).join) w
    else
      let s := s.each e.loads fun s l =>
        s.each ((words64 l.1 l.2).filter fun x => s.mtx.ce.contains x) fun s x => noteCE s x cl 1
      let s := landStores s cl j
      let s := doStores (doStores s ex.stores) ey.stores
      let c := s.core cl j
      let c := e.regs.foldl (fun c r => c.writeNow r.1 r.2) c
      let late := fun (cls : PClass) (b : Bool) (d : Dst) => if b then [(⟨0, cls, d, 0⟩ : Flight)] else []
      let vcls : PClass := if ev.flights.any (fun f => f.cls == .valu) then .valu else .ext
      let c := { c with
        flights := c.flights ++ e.flights ++ late vcls ev.sat .sat ++ late .mac ev.aov .aov ++
          late .ext (ex.sat || ey.sat) .sat }
      let c := if ec.sat then { c with st := c.st ||| 0x10#32 } else c
      let s := s.setCore cl j (c.fold 4)
      let s := s.when e.sat (·.fset (HRT_CORE_STATUS_SAT_SEEN cl j) 1)
      let s := s.when e.aov (·.fset (HRT_CORE_STATUS_AOV_SEEN cl j) 1)
      finishIssue (afterIssue s cl j a e) cl j a delay e

/-- Fetch and issue the bundle at the core's pc (R46, R59). -/
def issueFetched (s : State) (cl j : Nat) : State :=
  let c := (s.core cl j).loopBack
  let (c, b, fromMem) := fetch s cl j c
  issueBundle (s.setCore cl j c) cl j fromMem (decodeBundle b)

/-- An operation of one slot issues with the words of the other slots at a core that runs: the bundle is taken to be
the one its core fetches at its pc. In QUIET the clusters have no clock (Table 17.7). -/
def issue (s : State) (a : At) (d : Dec) : State :=
  if s.coreState a.cl a.core ≠ 2 ∨ s.fget CLK_PWR_STATUS_STATE = 1 then s
  else
    let c := (s.core a.cl a.core).loopBack
    let (c, _, fromMem) := fetch s a.cl a.core c
    issueBundle (s.setCore a.cl a.core c) a.cl a.core fromMem d

def withC (a : At) (p : Pred) (o : COp) : Dec := { decodeBundle a.others with c := some (p, o) }
def withV (a : At) (p : Pred) (o : VOp) : Dec := { decodeBundle a.others with v := some (p, o) }
def withM (a : At) (bus : Bus) (p : Pred) (o : MOp) : Dec :=
  match bus with
  | .x => { decodeBundle a.others with x := some (p, o) }
  | .y => { decodeBundle a.others with y := some (p, o) }

end Sys2Proof.Machine
end

