-- ==== Sys2Proof/Machine/Clusters.lean ====
section
/-! DEFINITION. Machine/Clusters.lean: the roles of clusters (R40, R307), their contents, and the cluster DMA (R109 to
R112). A hearth's running image stands in the cluster that carries it; an ember in step holds a copy. -/

namespace Sys2Proof.Machine

/-! ## Roles (Table 12.8) -/

def roleHearth : Nat := 0
def roleEmber : Nat := 1
def roleStaging : Nat := 2
def roleRetired : Nat := 3
def roleTest : Nat := 4

/-- Reasons of a retirement. -/
def whyVote : Nat := 1
def whyBist : Nat := 2
def whyEscal : Nat := 3
def whyPoweron : Nat := 4

def State.role (s : State) (c : Nat) : Nat := s.fget (EMB_MAP_ROLE c)
def State.lhOf (s : State) (c : Nat) : Nat := s.fget (EMB_MAP_LH c)
def allClusters : List Nat := List.range 26

/-- The cluster that carries logical hearth `h`. -/
def State.carrier (s : State) (h : Nat) : Option Nat :=
  allClusters.find? fun c => s.role c == roleHearth && s.lhOf c == h

def State.imgState (s : State) (c : Nat) : Nat := s.fget (HRT_IMG_STATE_STATE c)

/-- The cluster holds a staged image of `h` (STAGED, JOINING or READY). -/
def State.stagedFor (s : State) (h c : Nat) : Bool :=
  decide (2 ≤ s.imgState c) && decide (s.imgState c ≤ 4) && s.fget (HRT_IMG_STATE_LH c) == h
def State.stager (s : State) (h : Nat) : Option Nat := allClusters.find? (s.stagedFor h)

/-- The cluster runs the image of a hearth. -/
def State.runs (s : State) (c : Nat) : Bool := s.imgState c == 5

/-- The cluster that runs `h`. -/
def State.runner (s : State) (h : Nat) : Option Nat := (s.carrier h).filter fun c => s.runs c

/-- Embers in step with `h`, lower ember number first (R308). -/
def State.inStepWith (s : State) (h : Nat) : List Nat :=
  let l := allClusters.filter fun c => s.role c == roleEmber && s.lhOf c == h && (s.cluster c).inStep
  (l.filter fun c => s.fget (EMB_MAP_EID c) == 0) ++ l.filter fun c => s.fget (EMB_MAP_EID c) == 1

/-- Every unit that carries or shadows `h` in step. -/
def State.unitsOf (s : State) (h : Nat) : List Nat :=
  match s.runner h with
  | some c => c :: s.inStepWith h
  | none => []

def setRole (s : State) (c role lh : Nat) : State := (s.fset (EMB_MAP_ROLE c) role).fset (EMB_MAP_LH c) lh

/-- EMB_STATUS.MODE and EMBERS follow the roles and the embers in step (Table 12.8). -/
def embStatus (s : State) : State :=
  let sh := s.fget EMB_STATUS_SHADOW
  let inStep := (s.inStepWith sh).length
  let alive := (allClusters.filter fun c => s.role c == roleEmber || s.role c == roleStaging || s.role c == roleTest).length
  (s.fset EMB_STATUS_MODE (min inStep 2)).fset EMB_STATUS_EMBERS (min alive 2)

/-! ## Contents -/

/-- Put every core of a cluster in a state, with its registers and hidden state cleared. -/
def coresTo (s : State) (c st : Nat) : State :=
  s.each (List.range 8) fun s j => setCoreState (s.setCore c j {}) c j st

def setImgState (s : State) (c st lh tMask id : Nat) : State :=
  let s := s.fset (HRT_IMG_STATE_STATE c) st
  let s := s.fset (HRT_IMG_STATE_LH c) lh
  let s := s.fset (HRT_IMG_STATE_T_MASK c) tMask
  s.wr (HRT_IMG_ID c) (BitVec.ofNat 32 id)

/-- A core of a cluster that is zeroed has nothing to run: it is IDLE, or stays HALTED or FAULTED until Table 2.11 lets it
leave. -/
def idleCore (s : State) (c j : Nat) : State :=
  let st := s.coreState c j
  setCoreState (s.setCore c j {}) c j (if st = 4 ∨ st = 5 then st else 1)

/-- Zero the memories of a cluster with valid check bits (R44); it holds no image, and its cores run nothing. -/
def zeroCluster (s : State) (c : Nat) : State :=
  let s := zeroRange s (clusterBase c) (clusterBase c + 0x1000000)
  let s := (s.setCluster c {}).each (List.range 8) fun s j => idleCore s c j
  setImgState s c 0 0x1F 0 0

/-- The zeroing of a cluster that has left reset ends (R44). -/
def zeroDone (s : State) (c : Nat) : State :=
  let s := s.fset (HRT_CL_STATUS_MEM_INIT c) 0
  { s with pwr := { s.pwr with zeroing := s.pwr.zeroing.filter (· ≠ c) } }

/-- Everything in a cluster is lost: its memories, its registers (all kept by M only) and its hidden state. -/
def loseCluster (s : State) (c : Nat) : State :=
  let s := zeroRange s (clusterBase c) (clusterBase c + 0x1000000)
  let s := { s with regs := Tbl.clear s.regs (HRT_CL_STATUS c) (HRT_CL_STATUS c + 0x10000) }
  s.setCluster c {}

/-- A cluster out of service: U reset and its power domain off (R311, R418). -/
def powerOffCluster (s : State) (c : Nat) : State :=
  let s := coresTo (loseCluster s c) c 6
  let s := s.fset ⟨CLK_PD_EN0, c, 1⟩ 0
  let s := s.fset ⟨CLK_PD_ST0, c, 1⟩ 0
  { s with pwr := { s.pwr with clusters := if s.pwr.clusters.contains c then s.pwr.clusters else c :: s.pwr.clusters } }

/-- Retire a cluster with a reason code WHY (Table 12.8). -/
def retire (s : State) (c why : Nat) : State :=
  embStatus (powerOffCluster ((setRole s c roleRetired 0x1F).fset (EMB_MAP_WHY c) why) c)

/-- An ember stops shadowing. -/
def leaveShadow (s : State) (c : Nat) : State :=
  let k := s.cluster c
  embStatus ((s.setCluster c { k with joinAt := none, copied := false, inStep := false, image := none }).fset (EMB_MAP_LH c) 0x1F)

/-- An ember begins to join `h` at the start of the present tick (R308); it leaves BIST for it, and a
zeroing of it that runs has ended (R44). -/
def beginJoin (s : State) (c h : Nat) : State :=
  let s := s.when (s.pwr.zeroing.contains c) fun s => zeroDone (zeroCluster s c) c
  let k := s.cluster c
  let s := s.setCluster c { k with joinAt := some s.sch.elapsed, copied := false, inStep := false, clean := true }
  embStatus (setRole s c roleEmber h)

/-- An ember `e` that shadows the hearth on `c` holds what `c` holds: its memories, and what the hearth frame keeps of its
image (R308). -/
def mirrorTo (s : State) (c e : Nat) : State :=
  let h := s.cluster c
  { s.setCluster e { s.cluster e with
      image := h.image, dly := h.dly, fresh := h.fresh, initFlag := h.initFlag, pswap := h.pswap } with
    mem := Memory.copy s.mem (clusterBase c) (clusterBase e) 0x480000 }

/-- What changed at once in the cluster `c` that carries `h` stands in the embers in step too. -/
def mirrorAll (s : State) (h c : Nat) : State :=
  if s.carrier h = some c then s.each (s.inStepWith h) fun s e => mirrorTo s c e else s

/-- The memories of cluster `src` are copied to `dst`; a line that reads as uncorrectable is written as zero (R309). -/
def copyCluster (s : State) (src dst : Nat) : State :=
  let a := clusterBase src
  let b := clusterBase dst
  let bad := s.mtx.ue.filter fun w => decide (a ≤ w) && decide (w < a + 0x480000)
  let s := { s with
    mem := bad.foldl (fun m w => Memory.zero m (b + (w - a) / 64 * 64) (b + (w - a) / 64 * 64 + 64))
      (Memory.copy s.mem a b 0x480000)
    mtx := { s.mtx with
      ue := s.mtx.ue.filter fun w => !(decide (b ≤ w) && decide (w < b + 0x480000))
      ce := s.mtx.ce.filter fun w => !(decide (b ≤ w) && decide (w < b + 0x480000)) } }
  s.each bad fun s w => noteUE s w src 1 (srcOf (src + 2) 15) 0

/-! ## Data memory through the cluster DMA -/

def xByte (c core a : Nat) : Nat := clusterBase c + core * 0x80000 + 0x10000 + 4 * a
def sharedByte (c a : Nat) : Nat := clusterBase c + 0x400000 + 4 * (a - 0x20000)

/-- A window or mailbox DMA error: WINDOW_ERR, and FAULT on the cores of the cluster (Table 2.9). -/
def windowErr (s : State) (c : Nat) : State := raiseLines (raise s (srcOf (c + 2) 14) 0) c (List.range 8) 0

/-- Words of X memory read by the cluster DMA: an uncorrectable word counts as zero (R378), and so does one outside X
memory, with a window error. -/
def dmaRead (s : State) (c core a n : Nat) : State × List W32 :=
  if 0xC000 < a + n then (windowErr s c, List.replicate n 0)
  else
    let b := xByte c core a
    let vals := (List.range n).map fun (i : Nat) =>
      if s.hasUE (b + 4 * i) 4 then 0 else Memory.rd32 s.mem (b + 4 * i)
    let r := checkRead s b (4 * n) c 1
    (r.1.when r.2 fun s => raiseLines s c (List.range 8) 0, vals)

def dmaWrite (s : State) (c core a : Nat) (vs : List W32) : State :=
  if 0xC000 < a + vs.length then windowErr s c else storeBytes s (xByte c core a) (wordBytes vs)

/-- A word of cluster-shared memory read by the DMA. -/
def dmaShared (s : State) (c a : Nat) : W32 :=
  if s.hasUE (sharedByte c a) 4 then 0 else Memory.rd32 s.mem (sharedByte c a)

/-! ## Input phase (R102, R109, R112, R113, R115) -/

/-- Write the copy of the CSQ's record of the active bank to SEL_ADDR (R113). -/
def writeSel (s : State) (c : Nat) (p : Param) : State :=
  store32 s (sharedByte c p.sel) (BitVec.ofNat 32 (if p.activeB then p.bankB else p.bankA))

/-- Swap the banks that `mask` names, in one unit. -/
def swapBanks (s : State) (c mask : Nat) : State :=
  let k := s.cluster c
  match k.image with
  | none => s
  | some im =>
    let ps := im.params.map fun p => if bit mask p.block then { p with activeB := !p.activeB } else p
    let s := s.setCluster c { k with image := some { im with params := ps }, pswap := true }
    s.each (ps.filter fun p => bit mask p.block) fun s p => writeSel s c p

/-- One input window (R109). -/
def inputWindow (s : State) (c : Nat) (w : Window) : State :=
  let s := dmaWrite s c w.core w.dataAddr (readSlot s w.slot)
  if w.liveW then dmaWrite s c w.core w.liveAddr [BitVec.ofNat 32 (b2n (s.slotLive w.slot))] else s

/-- Words of a delay line from line index `i` on. -/
def delayAddr (d : DLine) (i : Int) : Nat := delayBase + 4 * (d.base + (i % (d.len : Int)).toNat)

/-- One delay read (R112): `dv` is the word at DLY_ADDR at cycle E of the tick before. -/
def delayRead (s : State) (c : Nat) (d : DLine) (dv : Nat) : State :=
  let w := domWords s.tlen d.dom
  let i0 := domIndex s.n d.dom
  let dd := clampN w d.len dv
  let s := s.when (dd != dv) fun s => raise s (srcOf 58 7) 0
  let vs := (List.range w).map fun (j : Nat) =>
    let a := delayAddr d ((i0 : Int) - dd + j)
    if s.hasUE a 4 then 0 else Memory.rd32 s.mem a
  let s := s.each (List.range w) fun s j => (checkRead s (delayAddr d ((i0 : Int) - dd + j)) 4 c 1).1
  dmaWrite s c d.core d.addr vs

/-- The tick descriptor (Table 2.4). -/
def descriptor (s : State) (c h : Nat) : List W32 :=
  let k := s.cluster c
  let flags := b2n (k.fresh && k.initFlag) + 2 * b2n s.sch.oldT.isSome + 4 * b2n k.pswap
  [BitVec.ofNat 32 s.n, BitVec.ofNat 32 (s.n / 2 ^ 32), BitVec.ofNat 32 s.k, BitVec.ofNat 32 (s.k / 2 ^ 32),
    BitVec.ofNat 32 s.tlen, BitVec.ofNat 32 s.family, BitVec.ofNat 32 h, BitVec.ofNat 32 flags]

/-- The input phase of one unit after its switch-over and bank selection: windows, delay reads, the descriptor and then
TICK on its cores. -/
def inputPhase (s : State) (h c : Nat) : State :=
  match (s.cluster c).image with
  | none => s
  | some im =>
    let s := s.each im.inWin fun s w => inputWindow s c w
    let s := s.each im.dreads.zipIdx fun s e => delayRead s c e.1 (((s.cluster c).dly[e.2]?).getD 0).toNat
    let k := s.cluster c
    let s := s.setCluster c { k with desc := descriptor s c h, fresh := false, pswap := false }
    raiseLines s c (List.range 8) 2

/-- What every core of a cluster does at a tick start: the counts of the last tick are shown and a FAULTED core goes to
IDLE, if HALT_ON_EXC is 0 (R70, Table 2.17). -/
def coresTickStart (s : State) (c : Nat) : State :=
  if s.pwr.clusters.contains c then s
  else s.each (List.range 8) fun s j =>
    let k := s.core c j
    let s := s.wr (HRT_CORE_ISSUE c j) k.issueNow
    let s := s.wr (HRT_CORE_STALL c j) k.stallNow
    let fault := s.coreState c j == 5 && !s.on (HRT_CORE_CTRL_HALT_ON_EXC c j)
    let s := s.setCore c j { k with issueNow := 0, stallNow := 0, ranThisTick := false, task := if fault then none else k.task }
    s.when fault fun s => setCoreState s c j 1

/-! ## Output phase (R107, R110, R111, R305) -/

/-- Stop the task of a core in RUN or WAIT (R106, R107). -/
def stopTask (s : State) (c j : Nat) : State :=
  if s.coreState c j ≠ 2 ∧ s.coreState c j ≠ 3 then s
  else
    let s := drain s c j
    let k := s.core c j
    let s := s.setCore c j { k with task := none, turns := [], loops := [], loopDue := false }
    let s := setCoreState s c j 1
    let s := s.count (HRT_TASK_STAT_STOPPED c j) 1
    raise s (srcOf (c + 2) 9) (plain 0 j 0 0)

/-- The words of one output window, or none where its LIVE word holds it back, and the bytes that the signature takes. -/
structure OutWords where
  slot : Nat
  write : Bool
  words : List W32
  live : List W32
  deriving DecidableEq, Repr

def gatherWindow (s : State) (c : Nat) (w : Window) : State × OutWords :=
  let n := domWords s.tlen (s.fget (SCH_SLOT_CFG_DOMAIN w.slot))
  let (s, vs) := dmaRead s c w.core w.dataAddr n
  if w.liveW then
    let (s, l) := dmaRead s c w.core w.liveAddr 1
    (s, ⟨w.slot, (l.headD 0).getLsbD 0, vs, l⟩)
  else (s, ⟨w.slot, true, vs, []⟩)

/-- Output windows and delay-line words of one unit, as its cluster DMA reads them, with its hearth signature. -/
structure Gathered where
  unit : Nat
  wins : List OutWords
  lines : List (DLine × List W32)
  sig : W64
  deriving DecidableEq, Repr

def gather (s : State) (c : Nat) : State × Gathered :=
  match (s.cluster c).image with
  | none => (s, ⟨c, [], [], 0⟩)
  | some im =>
    let (s, ws) := im.outWin.foldl (fun (a : State × List OutWords) w =>
      let r := gatherWindow a.1 c w
      (r.1, a.2 ++ [r.2])) (s, [])
    let (s, ls) := im.dlines.foldl (fun (a : State × List (DLine × List W32)) d =>
      let r := dmaRead a.1 c d.core d.addr (domWords a.1.tlen d.dom)
      (r.1, a.2 ++ [(d, r.2)])) (s, [])
    let bytes := (ws.flatMap fun w => wordBytes (w.words ++ w.live)) ++ ls.flatMap fun l => wordBytes l.2
    let sig := crc64 bytes
    let k := s.cluster c
    let dly := im.dreads.map fun d => dmaShared s c d.dly
    (s.setCluster c { k with signature := sig, dly := dly }, ⟨c, ws, ls, sig⟩)

/-- Write the selected unit's words to the slots and the delay store (R110, R111, R306). -/
def commitOutput (s : State) (h : Nat) (g : Gathered) : State :=
  let s := s.each (g.wins.filter fun w => w.write) fun s w => writeSlotAll s (0xE00 + h) w.slot w.words
  s.each g.lines fun s l =>
    s.each l.2.zipIdx fun s e => store32 s (delayAddr l.1 ((domIndex s.n l.1.dom : Nat) + e.2)) e.1

end Sys2Proof.Machine
end

