-- ==== Sys2Proof/WellFormed.lean ====
section
/-! DEFINITION. WellFormed.lean: which commands name what the part has. The tables and rules of the spec give each
index its range; a command outside them is no command of the part. -/

namespace Sys2Proof

/-- Physical clusters C00 to C25 (R40), cores 0 to 7 (Table 2.1). -/
def clusterOk (c : Nat) : Bool := decide (c < 26)
def coreOk (cl j : Nat) : Bool := decide (cl < 26) && decide (j < 8)
def atOk (a : At) : Bool := coreOk a.cl a.core
def portOk (p : Nat) : Bool := decide (p < 48)
def netOk (p : Nat) : Bool := decide (p < 6)
def flueOk (f : Nat) : Bool := decide (f < 48)
def streamOk (i : Nat) : Bool := decide (i < 1024)
def mboxOk (m : Nat) : Bool := decide (m < 256)
def sourceOk (x : Nat) : Bool := decide (x < 1024)
/-- A memory index of R381. -/
def memoryOk (m : Nat) : Bool := decide (m < 26) || (decide (0x20 ≤ m) && decide (m < 0x34))
/-- A value of counter C (R263), and a position between two counts in time units (R264). -/
def timeOk (c : Nat) : Bool := decide (c < 2 ^ 64)
def phaseOk (p : Nat) : Bool := decide (p < 2 ^ 17)
/-- An aligned word of BAR0 (R1, R3). -/
def wordOk (off : Nat) : Bool := decide (off < 2 ^ 24) && decide (off % 4 = 0)

/-- The command names units, indices and lengths that exist. -/
def wellFormed (i : Instr) : Bool :=
  match i with
  | .hostNop _ => true
  | .setTick _ _ => true
  | .slotCfg _ _ _ _ => true
  | .loadImage _ _ _ _ => true
  | .swapProgram _ _ _ => true
  | .discardImage _ _ => true
  | .unloadProgram _ _ => true
  | .paramWrite _ _ _ _ _ _ => true
  | .paramSwap _ _ _ => true
  | .mixWrite _ _ _ _ _ _ => true
  | .mixSwap _ => true
  | .mixDamp _ _ _ _ _ _ _ => true
  | .portStart _ _ => true
  | .portStop _ _ => true
  | .portMute _ _ _ _ => true
  | .decFreeze _ _ _ => true
  | .flueEnable _ _ => true
  | .flueDisable _ _ => true
  | .flueClear _ _ => true
  | .streamWrite _ _ _ _ => true
  | .streamStart _ _ _ => true
  | .streamStop _ _ _ => true
  | .streamStats _ _ _ _ _ _ => true
  | .twinSwap _ => true
  | .slotNop a => atOk a
  | .add a _ _ _ _ => atOk a
  | .sub a _ _ _ _ => atOk a
  | .adds a _ _ _ _ => atOk a
  | .subs a _ _ _ _ => atOk a
  | .andS a _ _ _ _ => atOk a
  | .orS a _ _ _ _ => atOk a
  | .xorS a _ _ _ _ => atOk a
  | .shl a _ _ _ _ => atOk a
  | .shr a _ _ _ _ => atOk a
  | .sar a _ _ _ _ => atOk a
  | .minS a _ _ _ _ => atOk a
  | .maxS a _ _ _ _ => atOk a
  | .cmp a _ _ _ => atOk a
  | .mull a _ _ _ _ => atOk a
  | .addi a _ _ _ _ => atOk a
  | .cmpi a _ _ _ => atOk a
  | .andi a _ _ _ _ => atOk a
  | .shli a _ _ _ _ => atOk a
  | .shri a _ _ _ _ => atOk a
  | .sari a _ _ _ _ => atOk a
  | .movi a _ _ _ => atOk a
  | .movhi a _ _ _ => atOk a
  | .movr a _ _ _ => atOk a
  | .neg a _ _ _ => atOk a
  | .abs a _ _ _ => atOk a
  | .notS a _ _ _ => atOk a
  | .nrm a _ _ _ => atOk a
  | .rcps a _ _ _ => atOk a
  | .divsU a _ _ _ _ => atOk a
  | .divsS a _ _ _ _ => atOk a
  | .cmpp a _ _ _ _ _ => atOk a
  | .pand a _ _ _ _ => atOk a
  | .por a _ _ _ _ => atOk a
  | .pxor a _ _ _ _ => atOk a
  | .pnot a _ _ _ => atOk a
  | .pseti a _ _ _ => atOk a
  | .br a _ _ _ => atOk a
  | .bri a _ _ _ => atOk a
  | .call a _ _ => atOk a
  | .ret a _ => atOk a
  | .rte a _ => atOk a
  | .endTask a _ => atOk a
  | .rep a _ _ _ _ => atOk a
  | .irep a _ _ _ _ => atOk a
  | .waite a _ _ => atOk a
  | .xsig a _ _ => atOk a
  | .brk a _ => atOk a
  | .trap a _ => atOk a
  | .ldW a _ _ _ => atOk a
  | .ldD a _ _ _ => atOk a
  | .ldV a _ _ _ => atOk a
  | .ldbW a _ _ _ => atOk a
  | .ldbD a _ _ _ => atOk a
  | .stW a _ _ _ => atOk a
  | .stD a _ _ _ => atOk a
  | .stV a _ _ _ => atOk a
  | .strV a _ _ _ _ _ _ _ => atOk a
  | .addp a _ _ _ => atOk a
  | .mul a _ _ _ _ => atOk a
  | .mac a _ _ _ _ => atOk a
  | .msu a _ _ _ _ => atOk a
  | .cmul a _ _ _ _ => atOk a
  | .cmac a _ _ _ _ => atOk a
  | .cmsu a _ _ _ _ => atOk a
  | .cmulj a _ _ _ _ => atOk a
  | .cmacj a _ _ _ _ => atOk a
  | .cmsuj a _ _ _ _ => atOk a
  | .bfly a _ _ _ _ _ => atOk a
  | .ext a _ _ _ _ _ => atOk a
  | .accld a _ _ _ _ => atOk a
  | .accz a _ _ => atOk a
  | .accadd a _ _ _ => atOk a
  | .vadd a _ _ _ _ _ => atOk a
  | .vsub a _ _ _ _ _ => atOk a
  | .vneg a _ _ _ _ => atOk a
  | .vabs a _ _ _ _ => atOk a
  | .vmin a _ _ _ _ => atOk a
  | .vmax a _ _ _ _ => atOk a
  | .vand a _ _ _ _ => atOk a
  | .vor a _ _ _ _ => atOk a
  | .vxor a _ _ _ _ => atOk a
  | .vshl a _ _ _ _ _ => atOk a
  | .vsar a _ _ _ _ _ => atOk a
  | .vshr a _ _ _ _ => atOk a
  | .vmov a _ _ _ => atOk a
  | .vsel a _ _ _ _ _ => atOk a
  | .vbrd a _ _ _ => atOk a
  | .vget a _ _ _ _ => atOk a
  | .vperm a _ _ _ _ _ => atOk a
  | .vcmp a _ _ _ _ _ => atOk a
  | .eventTaken cl core => coreOk cl core
  | .repLoopBack cl core => coreOk cl core
  | .halt cl core => coreOk cl core
  | .haltAccepted cl core => coreOk cl core
  | .resume cl core => coreOk cl core
  | .step cl core => coreOk cl core
  | .memInit cl => clusterOk cl
  | .nValidRise c => timeOk c
  | .engineStart c => timeOk c
  | .tickStart c => timeOk c
  | .tstart cl core task => coreOk cl core && decide (task < 16)
  | .budget cl core task => coreOk cl core && decide (task < 16)
  | .outputPhase => true
  | .tickEnd c => timeOk c
  | .doorbellFetch => true
  | .nudge off _ => decide (off < 2 ^ 16)
  | .meterFrame => true
  | .gridInstant => true
  | .hifEnable _ => true
  | .hifDisable _ => true
  | .freeStart => true
  | .run => true
  | .registerWrite _ off _ => wordOk off
  | .badAccess _ off size _ => decide (off < 2 ^ 24) && !(size == 4 && off % 4 == 0)
  | .loRead _ off => wordOk off
  | .rcRead _ off => wordOk off
  | .peakClr => true
  | .mixValidationDone => true
  | .rampEnd bus index => decide (index < if bus then 4096 else 262144)
  | .leadinStart port => portOk port
  | .portFrameReceive port words => portOk port && words.all fun e => decide (e.1 < 128)
  | .slip port _ => portOk port
  | .glitch port _ => portOk port
  | .clockLost port => portOk port
  | .clockRecovered port rate => portOk port && decide (rate < 2 ^ 32)
  | .aesErr port ch => portOk port && decide (ch < 2)
  | .csBlock port sub bytes c phase => portOk port && decide (sub < 2) && decide (bytes.length = 24) && timeOk c && phaseOk phase
  | .asrcLock port _ => portOk port
  | .acqFail port => portOk port
  | .trackErr port => portOk port
  | .muteRampEnd asrc => decide (asrc < 512)
  | .holdExpiry asrc => decide (asrc < 512)
  | .syncMatch port ch _ => portOk port && decide (ch < 128)
  | .naRelease port ch => portOk port && decide (ch < 128)
  | .unsettledEnd chain => decide (chain < 192)
  | .loopSample group _ bits => decide (group < 6) && decide (bits.length = 8)
  | .switchingPeriod flue => flueOk flue
  | .rampUpEnd flue => flueOk flue
  | .rampDownEnd flue => flueOk flue
  | .stoppingEnd flue => flueOk flue
  | .trip flue ball => flueOk flue && decide (ball.pos < 8192)
  | .tripRateShutdown flue => flueOk flue
  | .retry flue => flueOk flue
  | .retrySuccess flue => flueOk flue
  | .dcBlock flue => flueOk flue
  | .senseFault flue _ => flueOk flue
  | .frameReceived port _ _ c phase sub => netOk port && timeOk c && phaseOk phase && decide (sub < 2 ^ 16)
  | .packetDue stream c phase => streamOk stream && timeOk c && phaseOk phase
  | .lateDrop stream _ => streamOk stream
  | .takePoint stream => streamOk stream
  | .linkChange port _ => netOk port
  | .netCfgWrite _ port _ => netOk port
  | .lpiEntry side => netOk side.port
  | .caravanSend c => timeOk c
  | .caravanReceived _ _ c => timeOk c
  | .ringDown => true
  | .apply _ dom _ => decide (dom < 3)
  | .cancel _ dom _ => decide (dom < 3)
  | .owner _ dom _ => decide (dom < 3)
  | .domainUpdate dom => decide (dom < 3)
  | .go => true
  | .ppsIn c phase _ => timeOk c && phaseOk phase
  | .ppsOut c => timeOk c
  | .wtr cand => decide (cand < 15)
  | .dispute cand => decide (cand < 15)
  | .historySecond freqs => freqs.all fun e => decide (e.1 < 15)
  | .lock => true
  | .mediaIndexSet c => timeOk c
  | .histClr => true
  | .suspClr => true
  | .dcoFfoWrite _ => true
  | .backgroundCopyDone cl => clusterOk cl
  | .shadowSlotEnd => true
  | .bistEnd failed => failed.all clusterOk
  | .targetedSelfTest _ emberFails => emberFails.all clusterOk
  | .twinLinkUp _ => true
  | .joinCopyDone _ => true
  | .joinTick => true
  | .settled => true
  | .joinFail => true
  | .disputeCleared => true
  | .tickRecord _ => true
  | .arrive stream _ => streamOk stream
  | .handover _ => true
  | .ack _ => true
  | .handoverInstant => true
  | .wreset => true
  | .join _ => true
  | .mbxFrame mbox words _ _ _ outcome => mboxOk mbox && decide (words.length ≤ 16) && decide (outcome < 8)
  | .peerLost c => timeOk c
  | .detach => true
  | .rejoin => true
  | .clrDispute => true
  | .send sender mbox words _ _ => decide (sender < 1024) && mboxOk mbox && decide (words.length ≤ 16)
  | .taken reader mbox => decide (reader < 1024) && mboxOk mbox
  | .timeout mbox => mboxOk mbox
  | .flushed mbox => mboxOk mbox
  | .sensorRead req => decide (req < 8)
  | .logRead req => decide (req < 8)
  | .logLevel req => decide (req < 8)
  | .updateStage req => decide (req < 8)
  | .updateActivate req => decide (req < 8)
  | .bootStatus req => decide (req < 8)
  | .health req => decide (req < 8)
  | .ptpCfg req => decide (req < 8)
  | .replyDrop req => decide (req < 8)
  | .matrixGrant target reqs => decide (target < 48) && reqs.all fun r => decide (r.master < 0x27) && decide (1 ≤ r.beats.length) && decide (r.beats.length ≤ 16) && decide (r.addr < 2 ^ 40)
  | .burstReset master => decide (master < 0x27)
  | .scrub mem => memoryOk mem
  | .remap _ _ => true
  | .eccInjArm _ => true
  | .sourceEvent src _ => sourceOk src
  | .windowClose src => sourceOk src
  | .escalation src => sourceOk src
  | .ladderDecay group => decide (group < 64)
  | .ackSource src => sourceOk src
  | .recovery => true
  | .recWindowClose => true
  | .paritySweep => true
  | .forceSafe => true
  | .unlatch => true
  | .thermalSample readings => decide (readings.length = 16)
  | .resetW _ _ => true
  | .resetE _ _ => true
  | .resetU _ _ uclass unit => decide (uclass < 4) && decide (unit < 64)
  | .resetM _ _ => true
  | .rstNLow _ => true
  | .powerOn => true
  | .supplyReset supply => decide (supply < 7)
  | .supplyWarn supply => decide (supply < 7)
  | .supplyOk supply _ => decide (supply < 7)
  | .resetRelease _ _ _ failed => failed.all clusterOk
  | .clkLost clk => decide (clk < 16)
  | .clockQualified clk => decide (clk < 16)
  | .pcieReset => true
  | .mgtWdog => true
  | .reqRun => true
  | .reqQuiet => true
  | .reqKeep => true
  | .quietGate => true
  | .domainPowerOn => true
  | .pdEnWrite word _ => decide (word < 2)
  | .bootAttempt => true
  | .bootOk => true
  | .hostTmo => true
  | .bootGo => true
  | .clrFail => true
  | .lifecycleAdvance _ => true
  | .newchal => true
  | .debugRequest _ => true
  | .lockoutEnd => true
  | .commit _ => true
  | .samplePreload => true
  | .idcode => true
  | .bypass => true
  | .extest => true
  | .wordClockEdge wck _ c phase => decide (wck < 4) && timeOk c && phaseOk phase
  | .frameFromManagement port _ _ _ _ c phase => netOk port && timeOk c && phaseOk phase
  | .tickRecordLate => true
  | .twinLaneChange lane _ => decide (lane < 2)

end Sys2Proof
end

