-- ==== Sys2Proof/Machine/Images.lean ====
section
/-! DEFINITION. Machine/Images.lean: hearth images: their form and checks (R103 to R105), LOAD_IMAGE, PARAM_WRITE and
DISCARD_IMAGE, and the scheduling and the effects of SWAP_PROGRAM, UNLOAD_PROGRAM and PARAM_SWAP (R113 to R120). -/

namespace Sys2Proof.Machine

/-! ## The bytes of an image -/

/-- A number of `n` bytes at byte `o` of the image at host address `a`. -/
def hb (s : State) (a o n : Nat) : Nat := leNat (Memory.rdN s.hostMem (a + o) n)

structure Sect where
  type : Nat
  target : Nat
  ofs : Nat
  len : Nat
  dest : Nat
  deriving DecidableEq, Repr

def sectAt (s : State) (a i : Nat) : Sect :=
  let o := 0x20 + 16 * i
  ⟨hb s a o 2, hb s a (o + 2) 2, hb s a (o + 4) 4, hb s a (o + 8) 4, hb s a (o + 12) 4⟩

def sects (s : State) (a : Nat) : List Sect := (List.range (hb s a 0xA 2)).map (sectAt s a)

/-- The unit in which a section's LENGTH counts (Table 4.3); 0 for a TYPE that the table does not list. -/
def sectUnit (t : Nat) : Nat :=
  match t with
  | 1 => 16
  | 2 => 4
  | 3 => 4
  | 4 => 4
  | 5 => 8
  | 6 => 16
  | 7 => 12
  | 8 => 12
  | 9 => 16
  | 0xA => 20
  | 0xB => 20
  | _ => 0

/-- The byte offsets of the entries of all sections of a type. -/
def entries (s : State) (a t : Nat) : List Nat :=
  ((sects s a).filter fun x => x.type == t).flatMap fun x =>
    (List.range (x.len / sectUnit t)).map fun (i : Nat) => x.ofs + sectUnit t * i

def readTask (s : State) (a o : Nat) : Task :=
  ⟨hb s a o 1, hb s a (o + 1) 1, hb s a (o + 2) 2, hb s a (o + 4) 4, hb s a (o + 8) 4⟩
def readWindow (s : State) (a o : Nat) : Window :=
  ⟨hb s a o 2, hb s a (o + 2) 1, bit (hb s a (o + 3) 1) 0, hb s a (o + 4) 4, hb s a (o + 8) 4⟩
def readDLine (s : State) (a o : Nat) : DLine :=
  { base := hb s a o 4, len := hb s a (o + 4) 4, dom := hb s a (o + 8) 1, core := hb s a (o + 9) 1
    addr := hb s a (o + 12) 4 }
def readDRead (s : State) (a o : Nat) : DLine := { readDLine s a o with dly := hb s a (o + 16) 4 }
def readParam (s : State) (a o : Nat) : Param :=
  { block := hb s a o 1, sel := hb s a (o + 4) 4, bankA := hb s a (o + 8) 4, bankB := hb s a (o + 12) 4
    words := hb s a (o + 16) 4 }
def readCarry (s : State) (a o : Nat) : Carry :=
  ⟨hb s a o 1, hb s a (o + 1) 1, 16 * hb s a (o + 6) 2, 16 * hb s a (o + 4) 2⟩

/-- The image at host address `a` (Tables 4.2 to 4.4). -/
def readImage (s : State) (a : Nat) : Image :=
  { id := BitVec.ofNat 32 (hb s a 0x14 4), tMask := BitVec.ofNat 4 (hb s a 8 1), famMask := BitVec.ofNat 2 (hb s a 9 1)
    tasks := (entries s a 6).map (readTask s a), inWin := (entries s a 7).map (readWindow s a)
    outWin := (entries s a 8).map (readWindow s a), dlines := (entries s a 9).map (readDLine s a)
    dreads := (entries s a 0xA).map (readDRead s a), params := (entries s a 0xB).map (readParam s a)
    carries := (entries s a 5).map (readCarry s a) }

/-! ## The checks of R105, each true where the image passes -/

/-- No two elements at different places satisfy `p`. -/
def pairsOk {α : Type} (p : α → α → Bool) : List α → Bool
  | [] => true
  | x :: t => (t.all fun y => p x y) && pairsOk p t

/-- A range of words of one memory: 3·core + bus for X and Y, 100 for shared, 200 + core for programs. -/
structure Span where
  mem : Nat
  lo : Nat
  n : Nat
  deriving DecidableEq, Repr

def Span.apart (a b : Span) : Bool := a.n == 0 || b.n == 0 || a.mem != b.mem || decide (a.lo + a.n ≤ b.lo) || decide (b.lo + b.n ≤ a.lo)

def headerOk (s : State) (a len : Nat) : Bool :=
  let bytes := hb s a 0xC 4
  decide (0x20 ≤ len) && hb s a 0 4 == 0x51494D47 && hb s a 4 2 == 1 && hb s a 6 2 == 0 && decide (hb s a 8 1 < 16) &&
  decide (hb s a 9 1 < 4) && decide (1 ≤ hb s a 0xA 2) && decide (hb s a 0xA 2 ≤ 64) && decide (bytes ≤ 0x800000) &&
  decide (bytes ≤ len) && hb s a 0x18 8 == 0 && decide (0x20 + 16 * hb s a 0xA 2 ≤ bytes)

def sectOk (bytes : Nat) (x : Sect) : Bool :=
  let u := sectUnit x.type
  u != 0 && decide (x.ofs + x.len ≤ bytes) && x.len % u == 0 &&
  (if x.type ≤ 3 then decide (x.target < 8) else x.target == 0) &&
  (if x.type ≤ 3 then true else if x.type = 4 then decide (0x20000 ≤ x.dest) && decide (x.dest < 0x40000)
    else x.dest == 0)

def taskOk (s : State) (a o : Nat) : Bool :=
  let t := readTask s a o
  decide (t.core < 8) && decide (t.index < 16) && decide (36 ≤ t.start) && decide (t.start < 4096) &&
  decide (t.ofs ≤ 11499) && decide (1 ≤ t.bud) && decide (t.bud ≤ 11500) && hb s a (o + 12) 4 == 0
def windowOk (s : State) (a o : Nat) : Bool :=
  decide (hb s a o 2 ≤ 0x1FFF) && decide (hb s a (o + 2) 1 < 8) && decide (hb s a (o + 3) 1 < 2)
def dlineOk (s : State) (a o : Nat) : Bool :=
  decide (hb s a (o + 8) 1 < 3) && decide (hb s a (o + 9) 1 < 8) && hb s a (o + 10) 2 == 0
def paramOk (s : State) (a o : Nat) : Bool :=
  let p := readParam s a o
  decide (p.block < 16) && hb s a (o + 1) 3 == 0 && decide (1 ≤ p.words) && decide (p.words ≤ 65536)
def carryOk (s : State) (a o : Nat) : Bool :=
  decide (hb s a o 1 < 3) && decide (hb s a (o + 1) 1 < 8) && hb s a (o + 2) 2 == 0

def formatOk (s : State) (a len : Nat) : Bool :=
  headerOk s a len && (sects s a).all (sectOk (hb s a 0xC 4)) && (entries s a 6).all (taskOk s a) &&
  (entries s a 7).all (windowOk s a) && (entries s a 8).all (windowOk s a) && (entries s a 9).all (dlineOk s a) &&
  (entries s a 0xA).all (dlineOk s a) && (entries s a 0xB).all (paramOk s a) && (entries s a 5).all (carryOk s a) &&
  pairsOk (fun p q => p.block != q.block) (readImage s a).params

def crcOk (s : State) (a : Nat) : Bool :=
  let bytes := hb s a 0xC 4
  let l := (List.range bytes).map fun (i : Nat) => if 0x10 ≤ i ∧ i < 0x14 then 0 else Memory.rd s.hostMem (a + i)
  (crc32c l).toNat == hb s a 0x10 4

def sharedIn (lo n : Nat) : Bool := decide (0x20000 ≤ lo) && decide (lo + n ≤ 0x40000)

/-- The checks of RANGE that do not depend on T. A SEL_ADDR or DLY_ADDR outside shared memory fails here: Table 4.4 calls it a
shared word address, and RANGE speaks of what lies outside its memory without naming the two (DESIGN CHOICE, log entry 33). -/
def rangeOk (s : State) (a : Nat) : Bool :=
  let im := readImage s a
  let sec := fun x : Sect =>
    if x.type = 1 then decide (x.dest + x.len / 16 ≤ 4096)
    else if x.type = 2 ∨ x.type = 3 then decide (x.dest + x.len / 4 ≤ 0xC000)
    else if x.type = 4 then sharedIn x.dest (x.len / 4) else true
  let win := fun w : Window => !w.liveW || decide (w.liveAddr < 0xC000)
  let line := fun d : DLine => decide (1 ≤ d.len) && decide (d.base + d.len ≤ 0x1800000)
  (sects s a).all sec && im.inWin.all win && im.outWin.all win && im.dlines.all line &&
  (im.dreads.all fun d => line d && sharedIn d.dly 1) &&
  (im.params.all fun p => sharedIn p.sel 1 && sharedIn p.bankA p.words && sharedIn p.bankB p.words) &&
  im.carries.all fun c => decide (c.start + c.words ≤ if c.bus = 2 then 0x20000 else 0xC000)

/-- A window reaches 2T words (R103). -/
def windowsIn (im : Image) (t : Nat) : Bool := (im.inWin ++ im.outWin).all fun w => decide (w.dataAddr + 2 * t ≤ 0xC000)

def dataSpans (s : State) (a : Nat) : List Span :=
  (sects s a).filterMap fun x =>
    if x.type = 2 then some ⟨3 * x.target, x.dest, x.len / 4⟩
    else if x.type = 3 then some ⟨3 * x.target + 1, x.dest, x.len / 4⟩
    else if x.type = 4 then some ⟨100, x.dest, x.len / 4⟩ else none

def paramSpans (p : Param) : List Span := [⟨100, p.bankA, p.words⟩, ⟨100, p.bankB, p.words⟩, ⟨100, p.sel, 1⟩]

def carrySpan (c : Carry) : Span :=
  if c.bus = 2 then ⟨100, 0x20000 + c.start, c.words⟩ else ⟨3 * c.core + c.bus, c.start, c.words⟩

def overlapOk (s : State) (a : Nat) : Bool :=
  let im := readImage s a
  let code := ((sects s a).filter fun x => x.type == 1).map fun x => (⟨200 + x.target, x.dest, x.len / 16⟩ : Span)
  let data := dataSpans s a
  let banks := im.params.map paramSpans
  (code.all fun x => x.n == 0 || decide (36 ≤ x.lo)) && pairsOk Span.apart code && pairsOk Span.apart data &&
  (im.carries.all fun c => (data ++ banks.flatten).all (carrySpan c).apart) &&
  pairsOk Span.apart banks.flatten

def tasksOk (s : State) (a : Nat) : Bool :=
  let ts := (readImage s a).tasks
  let one := fun x y : Task => x.core != y.core ||
    (if x.index < y.index then decide (x.ofs + x.bud ≤ y.ofs) && decide (x.ofs < y.ofs)
     else if y.index < x.index then decide (y.ofs + y.bud ≤ x.ofs) && decide (y.ofs < x.ofs) else false)
  (ts.all fun x => decide (x.ofs + x.bud ≤ 11500)) && pairsOk one ts

/-- R103: the costs of the input and output phases, with 2T words for a window. -/
def costIn (im : Image) (t : Nat) : Nat :=
  64 + im.inWin.length * ceilDiv (2 * t) 16 + (im.dreads.map fun d => ceilDiv (domWords t d.dom) 16 + 1).sum
def costOut (im : Image) (t : Nat) : Nat :=
  64 + im.outWin.length * ceilDiv (2 * t) 16 + (im.dlines.map fun d => ceilDiv (domWords t d.dom) 16 + 1).sum
def costOk (im : Image) (t : Nat) : Bool := decide (costIn im t ≤ 192 * t) && decide (costOut im t ≤ 192 * t)

/-- T_MASK names the tick length of code `code`. -/
def declares (im : Image) (code : Nat) : Bool := im.tMask.getLsbD code

/-- Tick-length codes that a scheduled SET_TICK brings. -/
def scheduledTicks (s : State) : List Nat :=
  s.sch.held.filterMap fun h => match h.sched, h.op with
    | true, .setTick c => some c.toNat
    | _, _ => none

def rateOk (s : State) (im : Image) : Bool :=
  ((s.fget SCH_STATUS_TICK_ACT :: scheduledTicks s).all fun c => declares im c) && im.famMask.getLsbD s.family

def lineSpan (d : DLine) : Span := ⟨0, d.base, d.len⟩

/-- Delay lines of every loaded or staged image but those the new one replaces: the images of `h` (R105). -/
def otherLines (s : State) (h : Nat) : List DLine :=
  (allClusters.filter fun c => decide (2 ≤ s.imgState c) && decide (s.imgState c ≤ 5) &&
    s.fget (HRT_IMG_STATE_LH c) != h).flatMap fun c => match (s.cluster c).image with
      | some im => im.dlines
      | none => []

def dlinesOk (s : State) (im : Image) (h : Nat) : Bool :=
  pairsOk (fun x y => (lineSpan x).apart (lineSpan y)) im.dlines &&
  im.dlines.all fun x => (otherLines s h).all fun y => (lineSpan x).apart (lineSpan y)

/-- A delay line or delay read holds 2T × r words. -/
def dlinesLong (im : Image) (t : Nat) : Bool := (im.dlines ++ im.dreads).all fun d => decide (t * 2 ^ d.dom ≤ d.len)

/-- The reason code of the first check that fails, in the order of R105, or 0. -/
def rejectReason (s : State) (a len h : Nat) : Nat :=
  let im := readImage s a
  let ts := ((List.range 4).filter fun i => im.tMask.getLsbD i).map fun i => 4 * 2 ^ i
  if ¬ formatOk s a len then 1
  else if ¬ crcOk s a then 2
  else if ¬ (rangeOk s a ∧ ts.all (windowsIn im)) then 3
  else if ¬ overlapOk s a then 4
  else if ¬ tasksOk s a then 5
  else if ¬ ts.all (costOk im) then 6
  else if ¬ rateOk s im then 7
  else if ¬ (dlinesOk s im h ∧ ts.all (dlinesLong im)) then 8
  else 0

/-! ## LOAD_IMAGE (R116) -/

def isSwapOf (h : Nat) : HostOp → Bool
  | .swapProgram x _ => x.toNat == h
  | _ => false
def isParamSwapOf (h : Nat) : HostOp → Bool
  | .paramSwap x _ => x.toNat == h
  | _ => false

/-- A free ember: role EMBER before TEST, then the lower ember number (R116). -/
def State.freeEmber (s : State) : Option Nat :=
  let tested := s.ember.tests.flatMap (·.embers)
  let free := fun r n c => s.role c == r && s.fget (EMB_MAP_EID c) == n && !tested.contains c &&
    !s.pwr.clusters.contains c && (r == roleEmber || s.fget EMB_STATUS_PHASE == 0)
  match allClusters.find? (free roleEmber 0) with
  | some c => some c
  | none => match allClusters.find? (free roleEmber 1) with
    | some c => some c
    | none => match allClusters.find? (free roleTest 0) with
      | some c => some c
      | none => allClusters.find? (free roleTest 1)

/-- Where an image of `h` is placed (R116); none where the command conflicts. A carrier that a reset holds takes no image
(DESIGN CHOICE, log entry 32). -/
def placeFor (s : State) (h : Nat) : Option Nat :=
  if s.scheduled (isSwapOf h) then none
  else match s.stager h with
    | some c => some c
    | none => match s.carrier h with
      | none => none
      | some c => if s.runs c then s.freeEmber else if s.pwr.clusters.contains c then none else some c

/-- Write one section into the cluster (Table 4.3). -/
def placeSect (s : State) (a c : Nat) (x : Sect) : State :=
  let bs := Memory.rdN s.hostMem (a + x.ofs) x.len
  match x.type with
  | 1 => storeBytes s (progByte c x.target x.dest) bs
  | 2 => storeBytes s (xByte c x.target x.dest) bs
  | 3 => storeBytes s (clusterBase c + x.target * 0x80000 + 0x40000 + 4 * x.dest) bs
  | 4 => storeBytes s (sharedByte c x.dest) bs
  | _ => s

/-- A cluster that holds a staged image, or loads one, becomes STAGING unless it carries a hearth. -/
def claimCluster (s : State) (c : Nat) : State :=
  if s.role c = roleHearth then s else embStatus (setRole s c roleStaging 0x1F)

/-- A cluster left without a staged image goes back to the ember role, unless it carries a hearth. -/
def backToEmber (s : State) (c : Nat) : State :=
  if s.role c = roleHearth then s else embStatus (setRole s c roleEmber 0x1F)

/-- The load of an image, all of it in one step (log entry 32). A zeroing of the cluster that runs ends in the zeroing of the
load (R44). -/
def loadInto (s : State) (c h a len : Nat) : State × Result :=
  let why := rejectReason s a len h
  let s := zeroDone (zeroCluster s c) c
  if why ≠ 0 then
    let s := backToEmber s c
    let s := s.fset (HRT_IMG_STATE_STATE c) 6
    (s.fset (HRT_IMG_STATE_REJECT c) why, stInvalid why)
  else
    let im := readImage s a
    let s := (sects s a).foldl (fun s x => placeSect s a c x) s
    let s := s.setCluster c { (s.cluster c) with image := some im }
    (mirrorAll (claimCluster (setImgState s c 2 h im.tMask.toNat im.id.toNat) c) h c, stOk)

/-- LOAD_IMAGE when taken in. -/
def applyLoadImage (s : State) (h a len : Nat) : State × Result :=
  if 23 < h then (s, stInvalid 0)
  else match placeFor s h with
    | none => (s, stConflict)
    | some c => if s.hostBad a len then (hostFail s, stHostErr) else loadInto s c h a len

/-! ## DISCARD_IMAGE, UNLOAD_PROGRAM (R119) -/

/-- Drop the staged image of `h` held in cluster `c`; a scheduled SWAP_PROGRAM of it completes ABORTED. -/
def dropStaged (s : State) (h c : Nat) : State :=
  abortHeld (mirrorAll (backToEmber (zeroCluster s c) c) h c) fun x => x.sched && isSwapOf h x.op

def applyDiscard (s : State) (h : Nat) : State × Result :=
  if 23 < h then (s, stInvalid 0)
  else match s.stager h with
    | none => (s, stIdle)
    | some c => (dropStaged s h c, stOk)

/-- The image that `h` runs ends (R119, R403): its embers leave, its slots fall silent, and a scheduled PARAM_SWAP of it
completes ABORTED. -/
def endImage (s : State) (h c : Nat) : State :=
  let s := s.each (allClusters.filter fun x => s.role x == roleEmber && s.lhOf x == h) leaveShadow
  abortHeld (dropSlots (zeroCluster s c) (0xE00 + h)) fun x => x.sched && isParamSwapOf h x.op

/-- UNLOAD_PROGRAM at its tick. -/
def effUnload (s : State) (h : Nat) : State × Result :=
  match s.carrier h with
  | none => (s, stIdle)
  | some c =>
    if s.runs c then (endImage s h c, stOk)
    else if s.stagedFor h c then (dropStaged s h c, stOk)
    else (s, stIdle)

/-! ## PARAM_WRITE and PARAM_SWAP (R114, R115) -/

def paramOf (im : Image) (b : Nat) : Option Param := im.params.find? fun p => p.block == b

def swapsBlock (h b : Nat) : HostOp → Bool
  | .paramSwap x m => x.toNat == h && m.getLsbD b
  | _ => false

def applyParamWrite (s : State) (h b ofs n src : Nat) : State × Result :=
  if 23 < h then (s, stInvalid 0)
  else match s.runner h with
    | none => (s, stConflict)
    | some c => match (s.cluster c).image.bind fun im => paramOf im b with
      | none => (s, stConflict)
      | some p =>
        if s.scheduled (swapsBlock h b) ∨ p.words < ofs + n then (s, stConflict)
        else if s.hostBad src (4 * n) then (hostFail s, stHostErr)
        else
          let bs := Memory.rdN s.hostMem src (4 * n)
          let bank := if p.activeB then p.bankA else p.bankB
          let units := c :: allClusters.filter fun e => s.role e == roleEmber && s.lhOf e == h
          (s.each units fun s u => storeBytes s (sharedByte u (bank + ofs)) bs, stOk)

/-- The blocks that a mask names are all declared by the running image. -/
def declaresBlocks (s : State) (h mask : Nat) : Bool :=
  match s.runner h with
  | none => false
  | some c => match (s.cluster c).image with
    | none => false
    | some im => (List.range 16).all fun b => !bit mask b || (paramOf im b).isSome

def schedParamSwap (s : State) (h mask : Nat) : Result :=
  if 23 < h then stInvalid 0
  else if ¬ declaresBlocks s h mask then stConflict
  else if (List.range 16).any fun b => bit mask b && s.scheduled (swapsBlock h b) then stConflict
  else stOk

/-- The image that runs declares one of the blocks that a mask names. -/
def declaresSome (s : State) (h mask : Nat) : Bool :=
  match (s.runner h).bind fun c => (s.cluster c).image with
  | none => false
  | some im => im.params.any fun p => bit mask p.block

def effParamSwap (s : State) (h mask : Nat) : State × Result :=
  if ¬ declaresSome s h mask then (s, stConflict)
  else
    let s := s.each (s.unitsOf h) fun s c => swapBanks s c mask
    (s, stOk)

/-! ## SWAP_PROGRAM (R117, R118) -/

def schedSwap (s : State) (h mode : Nat) : Result :=
  if 23 < h then stInvalid 0
  else match s.stager h with
    | none => stNotReady
    | some _ =>
      if mode = 0 ∧ s.runner h = none then stConflict
      else if s.scheduled (isSwapOf h) then stConflict
      else stOk

def copyCarry (s : State) (src dst : Nat) (x : Carry) : State :=
  let f := fun c => match x.bus with
    | 0 => xByte c x.core x.start
    | 1 => clusterBase c + x.core * 0x80000 + 0x40000 + 4 * x.start
    | _ => sharedByte c (0x20000 + x.start)
  storeBytes s (f dst) (Memory.rdN s.mem (f src) (4 * x.words))

/-- Set the image of cluster `c` running for `h` (R113, R118). -/
def startImage (s : State) (h c : Nat) (init : Bool) : State :=
  let k := s.cluster c
  match k.image with
  | none => s
  | some im =>
    let ps := im.params.map fun p => { p with activeB := false }
    let s := s.setCluster c { k with image := some { im with params := ps }, fresh := true, initFlag := init, dly := [] }
    let s := s.fset (HRT_IMG_STATE_STATE c) 5
    let s := s.each ps fun s p => writeSel s c p
    setRole s c roleHearth h

/-- The carry regions of the running program, copied into the staging cluster. -/
def carryOver (s : State) (old new : Nat) : State :=
  match (s.cluster new).image with
  | none => s
  | some im => s.each im.carries fun s x => copyCarry s old new x

/-- The cluster that a swap takes `h` from, if the image is staged elsewhere. -/
def swapOld (s : State) (h c : Nat) : Option Nat := if s.role c = roleHearth then none else s.carrier h

/-- SWAP_PROGRAM at the start of tick k_e. Embers that shadow `h` leave and join the new program at once. The loss that the
U reset of the previous cluster brings beyond its zeroing is in `swapProgram`. -/
def effSwap (s : State) (h mode : Nat) : State × Result :=
  match s.stager h with
  | none => (s, stAborted)
  | some c =>
    if mode = 0 ∧ s.runner h = none then (s, stConflict)
    else
      let shadows := allClusters.filter fun e => e != c && s.role e == roleEmber && s.lhOf e == h
      let eid := s.fget (EMB_MAP_EID c)
      let old := swapOld s h c
      let s := match s.runner h with
        | some o => s.when (mode == 0) (carryOver · o c)
        | none => s
      let s := startImage s h c (mode == 1)
      let s := match old with
        | some o => (setRole (zeroCluster s o) o roleEmber 0x1F).fset (EMB_MAP_EID o) eid
        | none => s
      (embStatus (s.each shadows fun s e => beginJoin (leaveShadow s e) e h), stOk)

/-- For a scheduled CARRY swap: from tick k_e − 4 the staging cluster joins the carry regions (JOINING), and before k_e it
is READY. -/
def stepCarry (s : State) (h nx : Nat) : State :=
  match s.stager h, s.runner h with
  | some c, some o =>
    let ke := ceilDiv nx s.tlen
    if ke < s.k + 1 ∨ s.k + 4 < ke then s
    else
      let s := carryOver s o c
      s.fset (HRT_IMG_STATE_STATE c) (if ke = s.k + 1 then 4 else 3)
  | _, _ => s

/-! ## TSTART and BUDGET (R106, R107) -/

/-- The units whose task sequencer follows the image of cluster `cl`. -/
def taskOf (s : State) (cl core idx : Nat) : Option Task :=
  let on := s.runs cl || (s.role cl == roleEmber && (s.cluster cl).inStep)
  if ¬ on then none
  else (s.cluster cl).image.bind fun im => im.tasks.find? fun t => t.core == core && t.index == idx

/-- A task starts. R53 clears the registers at the first task of a tick, also where that task finds the core in RUN or WAIT,
of which R106 says 'without any clearing' (DESIGN CHOICE, log entry 29). -/
def startTask (s : State) (cl core : Nat) (t : Task) : State :=
  let k := s.core cl core
  let s := if k.ranThisTick then
      s.setCore cl core { k with pc := BitVec.ofNat 12 t.start, task := some t.index, turns := [], loops := [], loopDue := false }
    else
      s.setCore cl core { events := k.events, haltReq := k.haltReq, pc := BitVec.ofNat 12 t.start, task := some t.index, ranThisTick := true
                          issueNow := k.issueNow, stallNow := k.stallNow }
  setCoreState s cl core 2

/-- Whether the sequencer acts: the cluster runs a program in a running engine. -/
def execTstart (cl core task : Nat) (s : State) : Host.Outcome State Fault Refusal :=
  done (coreOk cl core && decide (task < 16)) <|
    match taskOf s cl core task with
    | none => s
    | some t =>
      let st := s.coreState cl core
      if st = 1 then startTask (raiseLine s cl core 3) cl core t
      else if st = 2 ∨ st = 3 then startTask (raiseLine (stopTask s cl core) cl core 3) cl core t
      else if st = 4 ∨ st = 5 then (raiseLine s cl core 3).count (HRT_TASK_STAT_MISSED cl core) 1
      else s

/-- BUDGET: a task that was started in this tick and has not executed END; a missed task raises none. -/
def execBudget (cl core task : Nat) (s : State) : Host.Outcome State Fault Refusal :=
  done (coreOk cl core && decide (task < 16)) <|
    match taskOf s cl core task with
    | none => s
    | some _ =>
      if (s.core cl core).task = some task ∧ (s.core cl core).ranThisTick then
        (raiseLine s cl core 4).count (HRT_TASK_STAT_OVERRUN cl core) 1
      else s

end Sys2Proof.Machine
end

