-- ==== Sys2Proof/Machine/Ember.lean ====
section
/-! DEFINITION. Machine/Ember.lean: rotation and joining (R308 to R310), the vote (R311, R463), targeted self-tests
(R312), ember takeover (R313) and the health counts (R314). -/

namespace Sys2Proof.Machine


def phBist : Nat := 0
def phJoin : Nat := 1
def phStep : Nat := 2
def phTest : Nat := 3

def rotTicks (s : State) : Nat := max 256 (s.fget EMB_CFG_ROT_TICKS)
def bistTicks (s : State) : Nat := max 4 (s.fget EMB_CFG_BIST_TICKS)
def State.phase (s : State) : Nat := s.fget EMB_STATUS_PHASE

def inTest (s : State) (c : Nat) : Bool := s.ember.tests.any fun t => t.embers.contains c
def inTakeover (s : State) (c : Nat) : Bool := s.ember.takeovers.any fun t => t.ember == c

/-- Evidence against a cluster in this tick or in the one before (R311). -/
def evidence (s : State) (c : Nat) : Bool := s.ember.evNow.contains (c + 2) || s.ember.evPrev.contains (c + 2)

/-! ## Health (R314) -/

def notePass (s : State) (c : Nat) (vote : Bool) : State :=
  (s.count (if vote then EMB_HLTH_VOTE_PASS c else EMB_HLTH_BIST_PASS c) 1).set64 (EMB_HLTH_LAST c) s.n

/-- A BIST ended: it passed, or the unit is reported (Table 16.1). -/
def noteBist (s : State) (c : Nat) (failed : Bool) : State :=
  if failed then raise s (srcOf (c + 2) 13) 0 else notePass s c false

/-- Retire an ember: EMB_CNT.CONVICT counts it. -/
def convictEmber (s : State) (c why : Nat) : State :=
  if s.role c = roleRetired ∨ s.role c = roleHearth then s
  else retire (leaveShadow (s.count EMB_CNT_CONVICT 1) c) c why

/-! ## Joining (R308, R309) -/

/-- The background copy of a joining ember ends. -/
def copyDone (s : State) (e : Nat) : State :=
  let k := s.cluster e
  match s.carrier (s.lhOf e), k.joinAt with
  | some c, some _ => if k.copied then s else (copyCluster s c e).setCluster e { k with copied := true }
  | _, _ => s

def execBackgroundCopyDone (cl : Nat) (s : State) : Host.Outcome State Fault Refusal :=
  done (clusterOk cl) (copyDone s cl)

/-- From the start of tick j + 3 the ember runs in step, with the memories that the copy and the mirror path have made
equal. -/
def enterStep (s : State) (e : Nat) : State :=
  match s.carrier (s.lhOf e) with
  | none => s
  | some c =>
    let s := copyDone s e
    let s := mirrorTo s c e
    let s := s.setCluster e { s.cluster e with inStep := true, joinAt := none }
    let s := raiseLines s c (List.range 8) 5
    embStatus (raiseLines s e (List.range 8) 5)

def joinsTick (s : State) : State :=
  s.each allClusters fun s e =>
    match (s.cluster e).joinAt with
    | some j => if s.role e = roleEmber ∧ j + 3 ≤ s.sch.elapsed then enterStep s e else s
    | none => s

/-! ## Carrying a hearth (R311 to R313) -/

/-- Ember `t.ember` carries the hearth from this tick, and the old cluster is retired. -/
def carryHearth (s : State) (t : Takeover) : State :=
  let ok := (s.inStepWith t.hearth).contains t.ember && s.carrier t.hearth == some t.old
  if ¬ ok then s
  else
    let st := s.imgState t.old
    let tm := s.fget (HRT_IMG_STATE_T_MASK t.old)
    let id := (s.rd (HRT_IMG_ID t.old)).toNat
    let s := retire s t.old t.why
    let k := s.cluster t.ember
    let s := s.setCluster t.ember { k with inStep := false, joinAt := none }
    let s := setImgState s t.ember st (if st = 0 then 0x1F else t.hearth) tm id
    embStatus (setRole s t.ember roleHearth t.hearth)

def takeoversTick (s : State) : State :=
  let due := s.ember.takeovers.filter fun t => t.due.any fun d => decide (d ≤ s.sch.elapsed)
  let rest := s.ember.takeovers.filter fun t => !(t.due.any fun d => decide (d ≤ s.sch.elapsed))
  let s := { s with ember := { s.ember with takeovers := rest } }
  s.each due carryHearth

def addTakeover (s : State) (t : Takeover) : State :=
  { s with ember := { s.ember with takeovers := s.ember.takeovers ++ [t] } }

/-! ## The vote (R311, R463) -/

def startTest (s : State) (h c : Nat) (es : List Nat) : State :=
  let t : SelfTest := ⟨h, c, es, 0⟩
  { s with ember := { s.ember with tests := s.ember.tests ++ [t] } }

def outvote (s : State) (h c e : Nat) : State :=
  let s := raise (s.count EMB_CNT_TAKEOVERS 1) (srcOf (c + 2) 12) (plain 1 h 0 0)
  addTakeover s ⟨h, c, e, whyVote, some (s.sch.elapsed + 1)⟩

def convictLater (s : State) (h e : Nat) : State :=
  let s := raise s (srcOf 57 0) (plain 0 h e 0)
  { s with ember := { s.ember with convicts := s.ember.convicts ++ [(e, whyVote)] } }

/-- A mismatch that no vote decides: the tick is flagged, and the units are tested. -/
def flagTick (s : State) (h c : Nat) (es : List Nat) (sub : Nat) : State :=
  startTest (raise s (srcOf (c + 2) 12) (plain sub h 0 0)) h c es

/-- The unit whose output counts, and what follows (Table 12.1). `gs` are the results of the hearth and then of its
embers. -/
def vote (s : State) (h : Nat) (gs : List Gathered) : State × Gathered :=
  match gs with
  | [] => (s, ⟨0, [], [], 0⟩)
  | c :: es =>
    -- R313 case 1: this tick's output is the ember's
    let forced := es.find? fun e => s.ember.takeovers.any fun t =>
      t.hearth == h && t.ember == e.unit && t.why == whyEscal && t.due == some (s.sch.elapsed + 1)
    let pending := s.ember.takeovers.any fun t => t.hearth == h
    match forced with
    | some e => (s, e)
    | none =>
      if pending ∨ es.all (fun e => e.sig == c.sig) then (s, c)
      else
        let s := s.each (c :: es) fun s g => s.setCluster g.unit { s.cluster g.unit with clean := false }
        match es with
        | [e] =>
          let evC := evidence s c.unit
          let evE := evidence s e.unit
          if evC && !evE then (outvote s h c.unit e.unit, e)
          else if evE && !evC then (convictLater s h e.unit, c)
          else (flagTick s h c.unit [e.unit] 4, c)
        | e0 :: e1 :: _ =>
          if e0.sig = e1.sig then (outvote s h c.unit e0.unit, e0)
          else if e0.sig = c.sig then (convictLater s h e1.unit, c)
          else if e1.sig = c.sig then (convictLater s h e0.unit, c)
          else (flagTick s h c.unit [e0.unit, e1.unit] 3, c)
        | [] => (s, c)

/-! ## Targeted self-tests (R312) -/

/-- At a tick start: the tests count a tick, and one that starts takes its embers out of shadowing. -/
def testsTick (s : State) : State :=
  let starting := s.ember.tests.filter fun t => t.ticks == 0
  let next := s.ember.tests.map fun (t : SelfTest) => { t with ticks := t.ticks + 1 }
  let s := { s with ember := { s.ember with tests := next } }
  let s := s.each (starting.flatMap fun t => t.embers) fun s e =>
    s.when (s.role e == roleEmber) fun s => setRole (leaveShadow s e) e roleTest 0x1F
  s.when (starting != []) fun s => (s.fset EMB_STATUS_PHASE phTest)

/-- An ember comes back to rotation. -/
def toEmber (s : State) (e : Nat) : State := s.when (s.role e == roleTest) fun s => setRole s e roleEmber 0x1F

def beginJoinAt (s : State) (e h j : Nat) : State :=
  let s := beginJoin s e h
  s.setCluster e { s.cluster e with joinAt := some j }

/-- The outcome at the end of the 64th tick. -/
def decideTest (s : State) (t : SelfTest) (hearthFails : Bool) (emberFails : List Nat) : State :=
  let es := t.embers.filter fun e => s.role e == roleTest
  let bad := es.filter emberFails.contains
  let good := es.filter fun e => !emberFails.contains e
  let hf := hearthFails && s.carrier t.hearth == some t.unit
  let s := s.when (s.carrier t.hearth == some t.unit) (noteBist · t.unit hearthFails)
  let s := s.each es fun s e => noteBist s e (emberFails.contains e)
  let s := { s with ember := { s.ember with tests := s.ember.tests.filter fun x => x != t } }
  if bad ≠ [] ∧ ¬ hf then (s.each bad fun s e => convictEmber s e whyBist).each good toEmber
  else match hf, bad, good with
    | true, [], e :: rest =>
      let s := beginJoinAt (rest.foldl toEmber s) e t.hearth (s.sch.elapsed + 1)
      addTakeover s ⟨t.hearth, t.unit, e, whyBist, some (s.sch.elapsed + 5)⟩
    | _, _, _ =>
      let s := s.each es toEmber
      raise (s.count EMB_CNT_UNDECIDED 1) (srcOf 57 1) 0

def execTargetedSelfTest (hearthFails : Bool) (emberFails : List Nat) (s : State) : Host.Outcome State Fault Refusal :=
  done (emberFails.all clusterOk) (match s.ember.tests.find? fun t => decide (64 ≤ t.ticks) with
    | some t => decideTest s t hearthFails emberFails
    | none => s)

/-! ## Rotation (R310) -/

/-- Embers that take part in a slot: not staging, in a self-test, about to carry a hearth, or without power. -/
def participants (s : State) : List Nat :=
  allClusters.filter fun c => (s.role c == roleEmber || s.role c == roleTest) && !inTest s c && !inTakeover s c &&
    !s.pwr.clusters.contains c

def noSlot (s : State) : State :=
  let s := (s.fset EMB_STATUS_SHADOW 0x1F).fset EMB_STATUS_SLOT_TICK 0
  let s := s.fset EMB_STATUS_PHASE (if s.ember.tests = [] then phBist else phTest)
  embStatus { s with ember := { s.ember with slotOn := false, endSlot := false, bistDone := false } }

/-- The slot joins its hearth. -/
def joinSlot (s : State) (h : Nat) : State :=
  let s := (s.fset EMB_STATUS_PHASE phJoin).fset EMB_STATUS_SHADOW h
  let s := match s.carrier h with
    | some c => s.setCluster c { s.cluster c with clean := true }
    | none => s
  embStatus (s.each (participants s) fun s e => beginJoin s e h)

def openSlot (s : State) : State :=
  let ps := participants s
  let hs := (List.range 24).filter fun h => (s.carrier h).isSome
  let next := match hs.find? fun h => decide (s.ember.slot % 24 ≤ h) with
    | some h => some h
    | none => hs.head?
  match ps, next, hs.head? with
  | _ :: _, some h, some h0 =>
    let s := s.fset EMB_STATUS_SLOT_TICK 0
    if s.on EMB_CFG_ROT_EN then
      let s := s.each ps fun s e => setRole (leaveShadow s e) e roleTest 0x1F
      let s := (s.fset EMB_STATUS_PHASE phBist).fset EMB_STATUS_SHADOW h
      embStatus { s with ember := { s.ember with slot := h + 1, slotOn := true, endSlot := false, bistDone := false } }
    else
      let s := { s with ember := { s.ember with slot := h0 + 1, slotOn := true, endSlot := false, bistDone := true } }
      joinSlot (s.each ps toEmber) h0
  | _, _, _ => noSlot s

/-- The hearth of the running slot. -/
def slotHearth (s : State) : Nat := (s.ember.slot + 23) % 24

/-- The slot ends: the units in step with no mismatch have passed, and the embers leave. -/
def closeSlot (s : State) : State :=
  let h := s.fget EMB_STATUS_SHADOW
  let es := s.inStepWith h
  let units := if es = [] then [] else (s.carrier h).toList ++ es
  let s := s.each (units.filter fun c => (s.cluster c).clean) fun s c => notePass s c true
  noSlot (s.each (allClusters.filter fun c => s.role c == roleEmber && s.lhOf c == h && !inTakeover s c) leaveShadow)

def execShadowSlotEnd (s : State) : Host.Outcome State Fault Refusal :=
  done true (s.when (s.ember.slotOn && s.on EMB_CFG_ROT_EN && decide (rotTicks s ≤ s.fget EMB_STATUS_SLOT_TICK + 1)) closeSlot)

/-- BIST_END: the BIST of the embers of the slot ends; `failed` names those that fail it. -/
def bistEnd (s : State) (failed : List Nat) : State :=
  let ps := (participants s).filter fun c => s.role c == roleTest
  let s := s.each ps fun s c =>
    let s := noteBist s c (failed.contains c)
    s.when (failed.contains c) (convictEmber · c whyBist)
  { s with ember := { s.ember with bistDone := true } }

def execBistEnd (failed : List Nat) (s : State) : Host.Outcome State Fault Refusal :=
  done (failed.all clusterOk)
    (s.when (s.ember.slotOn && s.phase == phBist && !s.ember.bistDone &&
      decide (bistTicks s ≤ s.fget EMB_STATUS_SLOT_TICK + 1)) (bistEnd · failed))

/-- With VOTE_EN = 0 no ember shadows; those that carry a takeover out go on. -/
def stopShadowing (s : State) : State :=
  let s := s.each (allClusters.filter fun c => (s.role c == roleEmber || s.role c == roleTest) && !inTest s c && !inTakeover s c)
    fun s c => setRole (s.when (s.lhOf c != 0x1F) (leaveShadow · c)) c roleEmber 0x1F
  noSlot s

def slotTick (s : State) : State :=
  if ¬ s.on EMB_CFG_VOTE_EN then stopShadowing s
  else if ¬ s.ember.slotOn then openSlot s
  else if s.ember.endSlot then openSlot (closeSlot s)
  else
    let s := s.fset EMB_STATUS_SLOT_TICK (min 0xFFFF (s.fget EMB_STATUS_SLOT_TICK + 1))
    if s.phase = phBist ∧ s.ember.bistDone then joinSlot s (slotHearth s)
    else if s.phase = phJoin ∧ s.inStepWith (slotHearth s) ≠ [] then s.fset EMB_STATUS_PHASE phStep
    else if s.phase = phTest ∧ (s.inStepWith (slotHearth s) = [] ∨ s.ember.tests = []) then noSlot s
    else s

/-- What the embers do at a tick start, before the input phase. -/
def emberTick (s : State) : State :=
  let s := { s with ember := { s.ember with evPrev := s.ember.evNow, evNow := [] } }
  let gone := s.ember.convicts
  let s := s.each gone fun s e => convictEmber s e.1 e.2
  let s := { s with ember := { s.ember with convicts := [] } }
  slotTick (takeoversTick (joinsTick (testsTick s)))

/-- A write of EMB_CFG: ROT_EN set ends the running slot at the next tick start. -/
def rotWritten (s : State) (was : Bool) : State :=
  if s.on EMB_CFG_ROT_EN ∧ ¬ was ∧ s.ember.slotOn then { s with ember := { s.ember with endSlot := true } } else s

/-! ## Takeover on escalation (R313) -/

/-- A free ember for a takeover: one that holds a staged image only where no other is left, then the lower number. -/
def freeForTakeover (s : State) : Option Nat :=
  let ok := fun c => !inTakeover s c && !s.pwr.clusters.contains c
  let pick := fun r n => allClusters.find? fun c => s.role c == r && s.fget (EMB_MAP_EID c) == n && ok c
  [(roleEmber, 0), (roleTest, 0), (roleEmber, 1), (roleTest, 1), (roleStaging, 0), (roleStaging, 1)].findSome? fun x => pick x.1 x.2

/-- R313 for a source whose unit is cluster `c`; none where the rung is unavailable. -/
def takeover (s : State) (c : Nat) : Option State :=
  let h := s.lhOf c
  let k := s.sch.elapsed
  if s.role c ≠ roleHearth then none
  else match (s.inStepWith h).filter fun e => !inTakeover s e with
    | e :: _ => some (addTakeover (s.count EMB_CNT_ESCAL 1) ⟨h, c, e, whyEscal, some (if s.sch.outDone then k + 2 else k + 1)⟩)
    | [] => match freeForTakeover s with
      | none => none
      | some e =>
        let s := s.count EMB_CNT_ESCAL 1
        let s := if s.role e = roleStaging then dropStaged s (s.fget (HRT_IMG_STATE_LH e)) e else leaveShadow s e
        let rest := s.ember.tests.map fun (t : SelfTest) => { t with embers := t.embers.filter (· != e) }
        let s := { s with ember := { s.ember with tests := rest } }
        some (addTakeover (beginJoinAt s e h (k + 1)) ⟨h, c, e, whyEscal, some (k + 4)⟩)

end Sys2Proof.Machine
end

