-- ==== Sys2Proof/Machine/Mix.lean ====
section
/-! DEFINITION. Machine/Mix.lean: the mix engine: gain codes (R127), dampers (R128 to R134), scale laws (R135, R136),
buses (R123 to R126), sections (R137, R138), the tables and their commands (R139 to R147), re-homing (R148), waystations
(R151 to R154). -/

namespace Sys2Proof.Machine

/-! ## Gain codes (R127) -/

/-- E(j) = floor(2^30 × 2^(j / 2,048) + 1/2): the largest e with (2e − 1)^2048 ≤ 2^(31 × 2048 + j), found bit by bit. -/
def gainE (j : Nat) : Nat :=
  (List.range 31).foldl (fun e i =>
    let t := e + 2 ^ (30 - i)
    if (2 * t - 1) ^ 2048 ≤ 2 ^ (31 * 2048 + j) then t else e) 0

def gainOf (c : Nat) : Nat :=
  if c = 0 then 0
  else
    let u : Int := (c : Int) - 61440
    let q := u / 2048
    let j := (u - 2048 * q).toNat
    let sh := (2 - q).toNat
    (gainE j + 2 ^ (sh - 1)) / 2 ^ sh

/-- The largest code whose G is at most `v`. -/
def codeBelow (v : Nat) : Nat :=
  (List.range 16).foldl (fun c i =>
    let t := c + 2 ^ (15 - i)
    if gainOf t ≤ v then t else c) 0

/-- The code of a value (R132): the largest code whose G lies nearest to it. -/
def codeOf (v : Nat) : Nat :=
  let c := codeBelow v
  if c = 0xFFFF then c
  else
    let up := gainOf (c + 1)
    if up - v ≤ v - gainOf c then codeBelow up else c

/-- The scale offset off(N) (R135). -/
def scaleOff (law n : Nat) : Nat :=
  if n ≤ 1 then 0
  else match law with
    | 1 => (Nat.log2 (n ^ 4096) + 1) / 2
    | 2 => (Nat.log2 (n ^ 2048) + 1) / 2
    | _ => 0

def effCode (gain law n : Nat) : Nat := if gain = 0 then 0 else max 1 (gain - scaleOff law n)

def signedGain (code : Nat) (inv : Bool) : Int := if inv then -(gainOf code) else gainOf code

/-! ## Ramps (R129 to R132) -/

def Ramp.linear (r : Ramp) (i : Nat) : Int := r.g0 + (2 * (r.g1 - r.g0) * i + r.len) / (2 * r.len)

/-- The value at step `i`. -/
def Ramp.at (r : Ramp) (i : Nat) : Int :=
  if r.len ≤ i then r.g1
  else if ¬ r.db ∨ r.g0 * r.g1 < 0 then r.linear i
  else
    let code := fun v : Int => let c := codeOf v.natAbs; if c = 0 then 0x6000 else c
    let c0 : Int := if r.g0 = 0 then 0x6000 else code r.g0
    let c1 : Int := if r.g1 = 0 then 0x6000 else code r.g1
    let ci := c0 + (2 * (c1 - c0) * i + r.len) / (2 * r.len)
    let sg := if r.g0 ≠ 0 then r.g0.sign else r.g1.sign
    sg * gainOf ci.toNat

/-- Take and free a ramp entry (Table 5.11). -/
def takeEntry (s : State) : State :=
  let s := s.fset MIX_RAMP_USE_CUR (s.fget MIX_RAMP_USE_CUR + 1)
  s.fset MIX_RAMP_USE_PEAK (max (s.fget MIX_RAMP_USE_PEAK) (s.fget MIX_RAMP_USE_CUR))
def freeEntry (s : State) : State := s.fset MIX_RAMP_USE_CUR (s.fget MIX_RAMP_USE_CUR - 1)

def rampOverflow (s : State) : State := raise (s.count (word MIX_RAMP_OVF) 1) (srcOf 28 0) 0

def State.damper (s : State) (key : Nat) : Damper := Tbl.get {} s.mix.dampers key
def State.setDamper (s : State) (key : Nat) (d : Damper) : State :=
  { s with mix := { s.mix with dampers := Tbl.put {} s.mix.dampers key d } }

def busKey (b : Nat) : Nat := 262144 + b

/-- A change of GAIN or INV of a damper at sample `nc` asks for a ramp of length `len` and shape `db` (R133, R147). -/
def noteGain (s : State) (key nc len : Nat) (db : Bool) : State :=
  { s with mix := { s.mix with gainAt := s.mix.gainAt ++ [(key, nc, len, db)] } }

/-- The ramp that the latest change of GAIN or INV at sample `nc` asks for. -/
def gainRamp (s : State) (key nc : Nat) : Option (Nat × Bool) :=
  (s.mix.gainAt.reverse.find? fun e => e.1 == key && e.2.1 == nc).map fun e => e.2.2

/-- One step of a ramp at a word of sample index `n`: the ramp that goes on, if any, and the value. The entry is taken at
step 1 and freed at the last step (R134). -/
def stepRamp (s : State) (r : Ramp) (g : Int) (n : Nat) (always : Bool) : State × Option Ramp × Int :=
  if n < r.nc then (s, some r, g)
  else
    let i := r.step + 1
    let holds := always || decide (1 ≤ r.len)
    if i = 1 ∧ holds ∧ 16384 ≤ s.fget MIX_RAMP_USE_CUR then (rampOverflow s, none, r.g1)
    else
      let s := s.when (i == 1 && holds) takeEntry
      if r.len ≤ i then (s.when holds freeEntry, none, r.g1)
      else (s, some { r with step := i }, r.at i)

/-- The damper value for a word of sample index `n`. -/
def stepDamper (s : State) (key n : Nat) : State × Int :=
  let d := s.damper key
  match d.ramp with
  | none => (s, d.g)
  | some r =>
    let (s, r', g) := stepRamp s r d.g n false
    (s.setDamper key ⟨g, r'⟩, g)

/-- Abandon the ramp of a damper: its entry is free. -/
def dropRamp (s : State) (key : Nat) : State :=
  match (s.damper key).ramp with
  | some r => s.when (decide (1 ≤ r.step)) freeEntry
  | none => s

def Damper.target (d : Damper) : Int := match d.ramp with
  | some r => r.g1
  | none => d.g

/-- A new target from sample `nc` on. -/
def startRamp (s : State) (key : Nat) (g1 : Int) (len : Nat) (db : Bool) (nc : Nat) : State :=
  let s := dropRamp s key
  let d := s.damper key
  s.setDamper key { d with ramp := some ⟨d.g, g1, len, db, 0, nc⟩ }

def retarget (s : State) (key : Nat) (g1 : Int) (len : Nat) (db : Bool) (nc : Nat) : State :=
  if (s.damper key).target = g1 then s else startRamp s key g1 len db nc

/-! ## The tables (R139, R140) -/

def State.bank (s : State) : Bool := s.on MIX_STATUS_BANK
def xpAddr (b : Bool) (x : Nat) : Nat := mixBase + (if b then 0x100000 else 0) + 4 * x
def busAddr (b : Bool) (i : Nat) : Nat := mixBase + (if b then 0x210000 else 0x200000) + 16 * i
def sectAddr (b : Bool) (i : Nat) : Nat := mixBase + (if b then 0x270000 else 0x220000) + 20 * i
def profAddr (b : Bool) (i : Nat) : Nat := mixBase + (if b then 0x2C2000 else 0x2C0000) + 4 * i
def wayAddr (b : Bool) (i : Nat) : Nat := profAddr b (1024 + i)

/-- A table word as the engine reads it: an uncorrectable word counts as zero (R378). -/
def tblWord (s : State) (a : Nat) : Nat := if s.hasUE a 4 then 0 else (Memory.rd32 s.mem a).toNat

structure Xp where
  src : Nat
  inv : Bool
  prof : Nat
  gain : Nat
  deriving DecidableEq, Repr

def readXp (s : State) (b : Bool) (x : Nat) : Xp :=
  let w := tblWord s (xpAddr b x)
  ⟨bits w 0 13, bit w 13, bits w 14 2, bits w 16 16⟩

structure BusEntry where
  out : Nat
  en : Bool
  dom : Nat
  gain : Nat
  first : Nat
  inv : Bool
  law : Nat
  gprof : Nat
  sprof : Nat
  count : Nat
  chFirst : Nat
  chLen : Nat
  deriving DecidableEq, Repr

def readBus (s : State) (b : Bool) (i : Nat) : BusEntry :=
  let a := busAddr b i
  let w0 := tblWord s a
  let w1 := tblWord s (a + 4)
  let w2 := tblWord s (a + 8)
  let w3 := tblWord s (a + 12)
  ⟨bits w0 0 13, bit w0 13, bits w0 14 2, bits w0 16 16, bits w1 0 18, bit w1 18, bits w1 20 2, bits w1 24 4,
   bits w1 28 4, bits w2 0 19, bits w3 0 14, bits w3 16 6⟩

/-- The bus as it stands: its sample-exact fields from the active bank and its tick-exact fields from the bank in force at
the last boundary (Table 5.5). -/
def busNow (s : State) (i : Nat) : BusEntry :=
  let x := readBus s s.bank i
  let t := readBus s s.mix.sbank i
  { x with out := t.out, en := t.en, dom := t.dom, first := t.first, count := t.count }

/-- A ramp profile: length and shape. -/
def profile (s : State) (i : Nat) : Nat × Bool :=
  let w := tblWord s (profAddr s.bank i)
  (min (bits w 0 21) 1048576, bit w 21)

def enabledBuses (s : State) : List Nat := (List.range 4096).filter fun i => (busNow s i).en

/-! ## Targets, counts and homes -/

/-- A crosspoint's source may contribute to a bus of domain `dom` (R124). -/
def sourceOk' (s : State) (src dom : Nat) : Bool :=
  s.slotOn src && s.fget (SCH_SLOT_CFG_DOMAIN src) == dom && !s.on (SCH_SLOT_CFG_DATA src)

def State.busCount (s : State) (b : Nat) : Nat := Tbl.get 0 s.mix.busN b

def busTarget (s : State) (b : Nat) : Int :=
  let e := busNow s b
  signedGain (effCode e.gain e.law (s.busCount b)) e.inv

def xpTarget (s : State) (x : Nat) : Int :=
  let e := readXp s s.bank x
  signedGain e.gain e.inv

/-- The crosspoints that lie in the range of an enabled bus, with their source and bus, keys rising. -/
def homesNow (s : State) : Tbl (Nat × Nat) :=
  (enabledBuses s).foldl (fun t b =>
    let e := busNow s b
    (List.range e.count).foldl (fun t i =>
      let x := e.first + i
      if x < 262144 then Tbl.put (0, 0) t x ((readXp s s.bank x).src, b + 1) else t) t) []

/-- Sections in use, by bus; a section that a chain newly includes starts from zero (R138). -/
def setChains (s : State) : State :=
  let now := (enabledBuses s).map fun b => (b, (busNow s b).chFirst, (busNow s b).chLen)
  let new := now.flatMap fun c =>
    let old := Tbl.get (0, 0) s.mix.chains c.1
    ((List.range c.2.2).map (c.2.1 + ·)).filter fun i => !(decide (old.1 ≤ i) && decide (i < old.1 + old.2))
  let sect := new.foldl (fun t i => Tbl.clear t (4 * i) (4 * i + 4)) s.mix.sect
  { s with mix := { s.mix with sect := sect, chains := now.map fun c => (c.1, c.2) } }

/-- Crosspoints are re-homed from sample `nc` on (R148): the old contribution departs with the crosspoint's profile, and
the new one starts from zero, by the MIX_DAMP of the same sample if there is one (R147). A departing contribution to a bus that writes nothing any more ends at once. -/
def rehome (s : State) (nc : Nat) : State :=
  let old := s.mix.homes
  let new := homesNow s
  let keys := (old ++ new.filter fun e => (Tbl.find old e.1).isNone).map (·.1)
  let s := keys.foldl (fun s x =>
    let o := Tbl.find old x
    let w := Tbl.find new x
    if o = w then s
    else
      let p := profile s (readXp s s.bank x).prof
      let g := (s.damper x).g
      let s := match o with
        | none => s
        | some h =>
          if (busNow s (h.2 - 1)).en then
            { s with mix := { s.mix with
              departing := s.mix.departing ++ [⟨h.2 - 1, h.1, ⟨g, 0, p.1, p.2, 0, nc⟩, g⟩] } }
          else s
      let s := (dropRamp s x).setDamper x {}
      match w with
      | none => s
      | some _ =>
        let q := (gainRamp s x nc).getD p
        startRamp s x (xpTarget s x) q.1 q.2 nc) s
  let gone := s.mix.departing.filter fun d => !(busNow s d.bus).en
  let s := s.each (gone.filter fun d => decide (1 ≤ d.ramp.step)) fun s _ => freeEntry s
  { s with mix := { s.mix with homes := new, departing := s.mix.departing.filter fun d => (busNow s d.bus).en } }

/-- Every damper takes the target of the sample-exact fields in force from sample `nc` on. -/
def retargetAll (s : State) (nc : Nat) : State :=
  let s := s.mix.homes.foldl (fun s e =>
    let p := profile s (readXp s s.bank e.1).prof
    retarget s e.1 (xpTarget s e.1) p.1 p.2 nc) s
  (List.range 4096).foldl (fun s b =>
    let p := profile s (busNow s b).gprof
    retarget s (busKey b) (busTarget s b) p.1 p.2 nc) s

/-! ## Loads and validation (R122, R144) -/

def weight2 (dom : Nat) : Nat := 2 ^ dom

def enabledIn (s : State) (b : Bool) : List BusEntry :=
  ((List.range 4096).map (readBus s b)).filter (·.en)

def xpLoad (s : State) (b : Bool) : Nat := ((enabledIn s b).map fun e => e.count * weight2 e.dom).sum
def eqLoad (s : State) (b : Bool) : Nat := ((enabledIn s b).map fun e => e.chLen * weight2 e.dom).sum

structure Way where
  inSlot : Nat
  en : Bool
  inDom : Nat
  out : Nat
  outDom : Nat
  resp : Bool
  deriving DecidableEq, Repr

def wayOf (w : Nat) : Way := ⟨bits w 0 13, bit w 13, bits w 14 2, bits w 16 13, bits w 29 2, bit w 31⟩

def apartAll (l : List (Nat × Nat)) : Bool :=
  (l.filter fun e => e.2 != 0).Pairwise (fun a b => a.1 + a.2 ≤ b.1 ∨ b.1 + b.2 ≤ a.1)

/-- The first reason of R144 that holds of a bank, or 0. -/
def validateBank (s : State) (b : Bool) : Nat :=
  let zeros := fun i => let a := busAddr b i
    bits (tblWord s (a + 4)) 19 1 == 0 && bits (tblWord s (a + 4)) 22 2 == 0 && bits (tblWord s (a + 8)) 19 13 == 0 &&
    bits (tblWord s (a + 12)) 14 2 == 0 && bits (tblWord s (a + 12)) 22 10 == 0
  let busOk := fun i => let e := readBus s b i
    e.dom != 3 && e.law != 3 && decide (e.chLen ≤ 32) && decide (e.count ≤ 262144) && zeros i
  let profOk := fun i => let w := tblWord s (profAddr b i)
    decide (bits w 0 21 ≤ 1048576) && bits w 22 10 == 0
  let ways := (List.range 1024).map fun (i : Nat) => wayOf (tblWord s (wayAddr b i))
  let on := enabledIn s b
  let outs := on.map (·.out) ++ (ways.filter (·.en)).map (·.out)
  if ¬ ((List.range 4096).all busOk && (List.range 16).all profOk && ways.all fun w => w.inDom != 3 && w.outDom != 3) then 1
  else if on.any fun e => decide (0x40000 < e.first + e.count) || decide (0x4000 < e.chFirst + e.chLen) then 2
  else if ¬ (apartAll (on.map fun e => (e.first, e.count)) && apartAll (on.map fun e => (e.chFirst, e.chLen))) then 3
  else if ¬ outs.Nodup then 4
  else if 524288 < xpLoad s b then 5
  else if 16384 < eqLoad s b then 6
  else if ways.any fun w => w.en && w.inDom == w.outDom then 7
  else 0

/-! ## Commands -/

/-- The area that a MIX_WRITE region names in a bank: its address, the bytes of an entry and the entries. -/
def mixRegion (b : Bool) (region : Nat) : Nat × Nat × Nat :=
  match region with
  | 0 => (xpAddr b 0, 4, 262144)
  | 1 => (busAddr b 0, 16, 4096)
  | 2 => (sectAddr b 0, 20, 16384)
  | _ => (profAddr b 0, 4, 2048)

/-- MIX_XP_LOAD and MIX_EQ_LOAD show the active set (R122). -/
def showLoads (s : State) : State :=
  let s := s.fset MIX_XP_LOAD_XP_W2 (xpLoad s s.bank)
  s.fset MIX_EQ_LOAD_EQ_W2 (eqLoad s s.bank)

/-- The engine starts with the set in force: no crosspoint enters a bus, and a damper that is not ramping holds its target
(R128). -/
def mixBegin (s : State) : State :=
  let homes := homesNow s
  let s := setChains { s with mix := { s.mix with homes := homes, departing := [] } }
  let xs : Tbl Damper := homes.foldl (fun t e => Tbl.put {} t e.1 ⟨xpTarget s e.1, none⟩) []
  let all := (List.range 4096).foldl (fun t b => Tbl.put {} t (busKey b) ⟨busTarget s b, none⟩) xs
  { s with mix := { s.mix with dampers := all } }

/-- MIX_WRITE when taken in (R142). -/
def applyMixWrite (s : State) (region flags first count src : Nat) : State × Result :=
  let r := mixRegion (!s.bank) region
  if s.on MIX_STATUS_SWAP_PEND ∨ r.2.2 < first + count then (s, stConflict)
  else if s.hostBad src (count * r.2.1) then (hostFail s, stHostErr)
  else
    let bs := Memory.rdN s.hostMem src (count * r.2.1)
    let s' := storeBytes s (r.1 + first * r.2.1) bs
    let both := bit flags 0 && !s.running
    (s'.when both fun s' => showLoads (storeBytes s' ((mixRegion s.bank region).1 + first * r.2.1) bs), stOk)

/-- MIX_SWAP when scheduled (R143): validation starts. -/
def schedMixSwap (s : State) : State × Result :=
  if s.on MIX_STATUS_SWAP_PEND then (s, stConflict)
  else
    let s := (s.fset MIX_STATUS_SWAP_PEND 1).fset MIX_STATUS_VALIDATING 1
    ({ s with mix := { s.mix with verdict := none } }, stOk)

/-- Validation finishes (R144): the verdict on the shadow bank. -/
def finishValidation (s : State) : State :=
  if ¬ s.on MIX_STATUS_VALIDATING then s
  else
    let v := validateBank s (!s.bank)
    let s := s.fset MIX_STATUS_VALIDATING 0
    if v = 0 then { s with mix := { s.mix with verdict := some 0 } }
    else
      let s := (s.fset MIX_STATUS_SWAP_PEND 0).fset MIX_STATUS_REJECT v
      let s := { s with mix := { s.mix with verdict := some v } }
      let isSwap := fun h : Held => h.sched && h.op == .mixSwap
      let gone := s.sch.held.filter isSwap
      let s := setHeld s (s.sch.held.filter fun h => !isSwap h)
      s.each gone fun s h => finishCmd s h.hdr h.late (stInvalid v) 0

def execMixValidationDone (s : State) : Host.Outcome State Fault Refusal := done true (finishValidation s)

/-- The buses whose GAIN or INV differs between the banks. -/
def gainChanges (s : State) : List Nat :=
  (List.range 4096).filter fun b =>
    let x := readBus s false b
    let y := readBus s true b
    x.gain != y.gain || x.inv != y.inv

/-- MIX_SWAP at its sample (R145). What a MIX_DAMP asked for before it is void (R147). -/
def effMixSwap (s : State) (nx : Nat) : State × Result :=
  let changed := gainChanges s
  let s := s.fset MIX_STATUS_BANK (b2n (!s.bank))
  let s := (s.fset MIX_STATUS_SWAP_PEND 0).set64 MIX_SWAP_N nx
  let s := { s with mix := { s.mix with verdict := none, gainAt := [] } }
  let s := s.each changed fun s b =>
    let p := profile s (busNow s b).gprof
    noteGain s (busKey b) nx p.1 p.2
  (setChains (retargetAll (rehome (showLoads s) nx) nx), stOk)

/-- MIX_DAMP at its sample (R147). -/
def effMixDamp (s : State) (target index gain : Nat) (inv db : Bool) (len nx : Nat) : State × Result :=
  if target = 0 then
    let a := xpAddr s.bank index
    let w := putBits (putBits (tblWord s a) 13 1 (b2n inv)) 16 16 gain
    let s := store32 s a (BitVec.ofNat 32 w)
    let s := noteGain s index nx len db
    let g := signedGain gain inv
    let d := s.damper index
    if (Tbl.find s.mix.homes index).isSome ∧ (d.target ≠ g ∨ d.ramp.isSome) then (startRamp s index g len db nx, stOk)
    else (s, stOk)
  else
    let a := busAddr s.bank index
    let s := store32 s a (BitVec.ofNat 32 (putBits (tblWord s a) 16 16 gain))
    let s := store32 s (a + 4) (BitVec.ofNat 32 (putBits (tblWord s (a + 4)) 18 1 (b2n inv)))
    let s := noteGain s (busKey index) nx len db
    let g := busTarget s index
    let d := s.damper (busKey index)
    if d.target ≠ g ∨ d.ramp.isSome then (startRamp s (busKey index) g len db nx, stOk) else (s, stOk)

def schedMixDamp (target index : Nat) : Result :=
  if (if target = 0 then 262144 else 4096) ≤ index then stInvalid 0 else stOk

/-- The last step of a damper's ramp: the target is reached and the ramp entry is free (R129, R134). -/
def rampEnd (s : State) (key : Nat) : State :=
  match (s.damper key).ramp with
  | some r => if r.len ≤ r.step + 1 then (dropRamp s key).setDamper key ⟨r.g1, none⟩ else s
  | none => s

def execRampEnd (bus : Bool) (index : Nat) (s : State) : Host.Outcome State Fault Refusal :=
  done (decide (index < if bus then 4096 else 262144)) (rampEnd s (if bus then busKey index else index))

/-- A write of MIX_RAMP_USE.PEAK_CLR (R5, Table 5.11). -/
def peakClr (s : State) : State := s.fset MIX_RAMP_USE_PEAK (s.fget MIX_RAMP_USE_CUR)

/-! ## A tick of the engine -/

/-- MIX_SKIP_CNT with its info event at the first skip after a read (R126). -/
def skip (s : State) (n : Nat) : State :=
  if n = 0 then s
  else
    let s := s.count (word MIX_SKIP_CNT) n
    if s.mix.skipRead then { raise s (srcOf 28 1) 0 with mix := { s.mix with skipRead := false } } else s

/-- Active inputs of a bus (R135). -/
def activeInputs (s : State) (b : Nat) : Nat :=
  let e := busNow s b
  (s.mix.homes.filter fun h => h.2.2 == b + 1 && sourceOk' s h.2.1 e.dom && (readXp s s.bank h.1).gain != 0 &&
    s.slotLive h.2.1).length

/-- Crosspoints of enabled buses that do not contribute and are not counted in this tick yet are counted (R124). -/
def countSkips (s : State) : State :=
  let l := (s.mix.homes.filter fun h => !sourceOk' s h.2.1 (busNow s (h.2.2 - 1)).dom && !s.mix.skipped.contains h.1).map (·.1)
  let s := skip s l.length
  { s with mix := { s.mix with skipped := s.mix.skipped ++ l } }

/-- What the engine does at the start of a tick, after the commands of its first sample: the tick-exact fields of a swap
(R145), the active-input counts and their ramps (R135, R136), and the crosspoints that do not contribute (R124). Before the
first tick of a run the counts are 0 (DESIGN CHOICE, log entry 34). -/
def mixTickStart (s : State) : State :=
  let n := s.n
  let s := if s.mix.sbank = s.bank then s else
    setChains (rehome { s with mix := { s.mix with sbank := s.bank } } n)
  let on := enabledBuses s
  let counts := (List.range 4096).map fun (b : Nat) => if on.contains b then activeInputs s b else 0
  let s := counts.zipIdx.foldl (fun s e =>
    let b := e.2
    if e.1 = s.busCount b then s
    else
      let s := { s with mix := { s.mix with busN := Tbl.put 0 s.mix.busN b e.1 } }
      let sp := profile s (busNow s b).sprof
      let p := match (s.damper (busKey b)).ramp with
        | some r => if r.nc = n ∧ r.step = 0 then (r.len, r.db) else (gainRamp s (busKey b) n).getD sp
        | none => (gainRamp s (busKey b) n).getD sp
      retarget s (busKey b) (busTarget s b) p.1 p.2 n) s
  countSkips { s with mix := { s.mix with gainAt := [], skipped := [] } }

/-- One section (R137). -/
def stepSection (s : State) (i : Nat) (x : W32) : State × W32 :=
  let c := fun k => (BitVec.ofNat 32 (tblWord s (sectAddr s.bank i + 4 * k))).toInt
  let h := fun k => Tbl.get (0 : W32) s.mix.sect (4 * i + k)
  let a := c 0 * x.toInt + c 1 * (h 0).toInt + c 2 * (h 1).toInt - c 3 * (h 2).toInt - c 4 * (h 3).toInt
  let e := rnd a 30
  let y := BitVec.ofInt 32 (clip 32 e)
  let put := fun t k v => Tbl.put (0 : W32) t (4 * i + k) v
  let sect := put (put (put (put s.mix.sect 0 x) 1 (h 0)) 2 y) 3 (h 2)
  (({ s with mix := { s.mix with sect := sect } }).when (clips 32 e) fun s => s.count (word MIX_SAT_CNT) 1, y)

/-- Word `j` of a bus at sample index `n` (Table 5.2). -/
def busWord (s : State) (b j n : Nat) : State × W32 :=
  let e := busNow s b
  let srcW := fun (s : State) slot => if sourceOk' s slot e.dom then (((readSlot s slot)[j]?).getD 0).toInt else 0
  let (s, sum) := (s.mix.homes.filter fun h => h.2.2 == b + 1).foldl (fun (a : State × Int) h =>
    let (s, g) := stepDamper a.1 h.1 n
    (s, a.2 + srcW s h.2.1 * g)) (s, 0)
  let (s, sum, deps) := s.mix.departing.foldl (fun (a : State × Int × List Departing) d =>
    if d.bus ≠ b then (a.1, a.2.1, a.2.2 ++ [d])
    else
      let (s, r, g) := stepRamp a.1 d.ramp d.g n true
      (s, a.2.1 + srcW s d.src * g, a.2.2 ++ (match r with
        | some r => [{ d with ramp := r, g := g }]
        | none => []))) (s, sum, [])
  let s := { s with mix := { s.mix with departing := deps } }
  let w := BitVec.ofInt 72 sum
  let s := s.when (clips 72 sum) fun s => s.count (word MIX_AOV_CNT) 1
  let s3 := rnd w.toInt 28
  let (s, gb) := stepDamper s (busKey b) n
  let y := rnd (s3 * gb) 28
  let s := s.when (clips 32 y) fun s => s.count (word MIX_SAT_CNT) 1
  (List.range e.chLen).foldl (fun (a : State × W32) i => stepSection a.1 (e.chFirst + i) a.2)
    (s, BitVec.ofInt 32 (clip 32 y))

/-- Whether the F index offset `i` in a tick begins a word of a domain, and which word it is. -/
def wordAt (dom i : Nat) : Option Nat :=
  let step := 4 / 2 ^ dom
  if i % step = 0 then some (i / step) else none

/-- All words of the buses in a tick, in sample order; `due` applies what takes effect at a sample. -/
def mixSamples (due : State → Nat → State) (s : State) : State × List (Nat × W32) :=
  let k0 := s.n
  let buses := enabledBuses s
  (List.range (2 * s.tlen)).foldl (fun (a : State × List (Nat × W32)) i =>
    let n := k0 + i / 2
    let s := if i % 2 = 0 then due a.1 n else a.1
    let s := if s.bank = a.1.bank then s else countSkips s
    let idle := (s.mix.dampers.filter fun e => decide (262144 ≤ e.1) && e.2.ramp.isSome &&
      !buses.contains (e.1 - 262144)).map (·.1)
    let s := idle.foldl (fun s key => if (wordAt (busNow s (key - 262144)).dom i).isSome then (stepDamper s key n).1 else s) s
    buses.foldl (fun (a : State × List (Nat × W32)) b => match wordAt (busNow a.1 b).dom i with
      | none => a
      | some j =>
        let (s, y) := busWord a.1 b j n
        (s, a.2 ++ [(b, y)])) (s, a.2)) (s, [])

/-- A slot that a unit of the engine may write (R126, R151). -/
def outSlotOk (s : State) (slot who dom : Nat) : Bool :=
  s.on (SCH_SLOT_CFG_EN slot) && s.fget (SCH_SLOT_CFG_PRODUCER slot) == who &&
  s.fget (SCH_SLOT_CFG_DOMAIN slot) == dom && !s.on (SCH_SLOT_CFG_DATA slot)

/-! ## Waystations (R151 to R154) -/

/-- The filters of a bridge from `i` to `o`, with the domain each stage delivers (R154). -/
def bridge (resp : Bool) (i o : Nat) : List (HalfBand × Nat × Nat) :=
  let near := if resp then hbShort else hbFlat
  match i, o with
  | 0, 1 => [(near, 0, 1)]
  | 1, 0 => [(near, 1, 0)]
  | 1, 2 => [(near, 1, 2)]
  | 2, 1 => [(near, 2, 1)]
  | 0, 2 => [(near, 0, 1), (hbWide, 1, 2)]
  | 2, 0 => [(hbWide, 2, 1), (near, 1, 0)]
  | _, _ => []

/-- The index in domain `dom` of sample `n`, which may be negative at the start of time. -/
def domIndexI (n : Int) (dom : Nat) : Int := n * 2 ^ dom / 2

/-- One stage over the window of T samples that starts at sample `n0`: the new history, latest first, and the output
words, earliest first. -/
def runStage (f : HalfBand) (i o : Nat) (n0 : Int) (t : Nat) (hist new : List W32) : List W32 × List W32 :=
  let h := new.reverse ++ hist
  let last := domIndexI n0 i + domWords t i - 1
  let o0 := domIndexI n0 o
  let out := (List.range (domWords t o)).map fun (j : Nat) =>
    if o < i then decimate f h last (o0 + j) else interpolate f h last (o0 + j)
  (h.take 256, out)

def wayTick (s : State) (w : Nat) : State :=
  let word := BitVec.ofNat 32 (tblWord s (wayAddr s.mix.sbank w))
  let e := wayOf word.toNat
  let s := if word = Tbl.get 0 s.mix.wayCfg w then s else { s with mix := { s.mix with
    wayCfg := Tbl.put 0 s.mix.wayCfg w word, wayHist := Tbl.clear s.mix.wayHist (2 * w) (2 * w + 2) } }
  if ¬ e.en then s
  else
    let t := s.tlen
    let fits := s.fget (SCH_SLOT_CFG_DOMAIN e.inSlot) == e.inDom && !s.on (SCH_SLOT_CFG_DATA e.inSlot)
    let ok := fits && outSlotOk s e.out (0xA00 + w) e.outDom
    let s := s.when ok fun s => noteSlotRead s 0x20 e.inSlot
    let new := if ok then readSlot s e.inSlot else List.replicate (domWords t e.inDom) 0
    let n0 : Int := (s.n : Int) - t
    let (hist, out) := (bridge e.resp e.inDom e.outDom).zipIdx.foldl (fun (a : Tbl (List W32) × List W32) st =>
      let key := 2 * w + st.2
      let r := runStage st.1.1 st.1.2.1 st.1.2.2 n0 t (Tbl.get [] a.1 key) a.2
      (Tbl.put [] a.1 key r.1, r.2)) (s.mix.wayHist, new)
    let s := { s with mix := { s.mix with wayHist := hist } }
    if ok then writeSlotAll s (0xA00 + w) e.out out else skip s 1

/-- The engine's work of a tick: the buses, their output slots and the waystations. -/
def mixTick (due : State → Nat → State) (s : State) : State :=
  let (s, ys) := mixSamples due s
  let s := (enabledBuses s).foldl (fun s b =>
    let e := busNow s b
    let vs := (ys.filter fun y => y.1 == b).map (·.2)
    if outSlotOk s e.out 0x900 e.dom then writeSlotAll s 0x900 e.out vs else skip s 1) s
  let s := s.each ((s.mix.homes.map fun h => h.2.1).eraseDups) fun s slot => noteSlotRead s 0x20 slot
  (List.range 1024).foldl wayTick s

end Sys2Proof.Machine
end

