-- ==== Sys2Proof/Machine/Timebase.lean ====
section
/-! DEFINITION. Machine/Timebase.lean: the domain clocks (R265 to R268), the snapshot (R269), the media timescale (R270 to
R274) and PPS_OUT (R283). A counter time is a Nat of time units, 2^17 to a count of C (R264). -/

namespace Sys2Proof.Machine

def tsOf (c phase : Nat) : Nat := 2 ^ 17 * c + phase

/-- T_x at a counter time (R265). -/
def domTime (s : State) (x ts : Nat) : Int :=
  let d := s.dom x
  (d.base : Int) + (d.rate * ((ts : Int) - 2 ^ 17 * d.anchor)) / 2 ^ 41

/-- The anchor of t_M; the ANCHOR field shows it while N_VALID is set, and NONE otherwise (Table 10.4, R297). -/
def State.anchor (s : State) : Nat := s.ref.anchor
def mediaNone (s : State) : Bool := s.fget TMB_MEDIA_STATUS_ANCHOR == 3
def showAnchor (s : State) : State := s.fset TMB_MEDIA_STATUS_ANCHOR (if s.nValid then s.ref.anchor else 3)
def putAnchor (s : State) (y : Nat) : State := showAnchor { s with ref := { s.ref with anchor := y } }
def State.beta (s : State) : Int := sgn 64 (s.get64 TMB_MEDIA_BETA)

/-- t_M (R270). -/
def mediaTime (s : State) (ts : Nat) : Int := domTime s s.anchor ts + s.beta

/-- Units of a second and of a nanosecond. -/
def unitsPerSec : Int := 1000000000 * 65536

/-- A time in time-of-day form: seconds, nanoseconds and fraction. -/
def tod (t : Int) : Nat × Nat × Nat :=
  ((t / unitsPerSec).toNat, (t / 65536 % 1000000000).toNat, (t % 65536).toNat)

/-! ## β (R270 to R274) -/

def setBeta (s : State) (b : Int) : State :=
  (s.set64 TMB_MEDIA_BETA (uns 64 b)).fset TMB_MEDIA_STATUS_SLEWING (b2n (decide (b ≠ 0)))

/-- A re-base at count `c`: a new β and a new slew (R272, R274). -/
def rebase (s : State) (b : Int) (c : Nat) : State :=
  let s := setBeta s b
  { s with tmb := { s.tmb with beta0 := b, rebased := some c } }

/-- MAX_DELTA in time units (Table 10.4). -/
def maxDelta (s : State) : Int := clampN 1 1000000 (s.fget TMB_MAX_DELTA_MAX_DELTA) * 1000 * 65536

/-- β after a change of anchor to `y` at the tick start (R271). -/
def anchorBeta (s : State) (y : Nat) : Int :=
  let ts := tsOf s.sch.ck 0
  s.beta + domTime s s.anchor ts - domTime s y ts

/-- Whether the timebase refuses the change (R273). Until the media index is set, t_M has no use to keep continuous. -/
def anchorRefused (s : State) (y : Nat) : Bool :=
  s.anchor != y && s.ref.mediaSet && decide (maxDelta s < (anchorBeta s y).natAbs)

/-- An anchor change that reference selection asks for at a tick start (R271, R273). -/
def setAnchor (s : State) (y : Nat) : State :=
  if s.anchor = y then s
  else if ¬ s.ref.mediaSet then putAnchor s y
  else if anchorRefused s y then raise (s.fset TMB_MEDIA_STATUS_SW_REFUSED 1) (srcOf 55 0) (plain 0 y 0 0)
  else putAnchor (rebase s (anchorBeta s y) s.sch.ck) y

/-- The step of β toward 0 at a tick start (R272); the tick start of the re-base itself takes none. -/
def slewStep (b b0 : Int) (k smax : Nat) : Int :=
  let st : Nat := min b.natAbs (max 1 (min (ceilDiv b0.natAbs k) smax))
  if b < 0 then b + st else b - st

def slewTick (s : State) (fs : Nat) : State :=
  let b := s.beta
  let now : Bool := match s.tmb.rebased with
    | some c => decide (s.sch.ck ≤ c)
    | none => false
  if b = 0 ∨ now then s
  else
    let sec := max 1 (s.fget TMB_SLEW_CFG_SLEW_S)
    let ppb := clampN 100 50000 (s.fget TMB_SLEW_CFG_MAX_PPB)
    setBeta s (slewStep b s.tmb.beta0 (max 1 (sec * fs / s.tlen)) (ppb * s.tlen * 65536 / fs))

/-! ## Domain updates (R266 to R268) -/

/-- ±500 ppm of the nominal rate (R266). -/
def rateLo : Nat := 2197923743925
def rateHi : Nat := 2200122767179

/-- DOM_RATE reads the rate of a pending update that has one, else the rate in force (R267). -/
def showRate (s : State) (x : Nat) : State :=
  let d := s.dom x
  s.set64 (TMB_DOM_RATE x) (match d.pend.bind fun u => u.rate with
    | some r => r
    | none => d.rate)

def setPend (s : State) (x : Nat) (u : Option DomUpdate) : State :=
  let s := s.setDom x { s.dom x with pend := u }
  showRate (s.fset (TMB_DOM_STATUS_PEND x) (b2n u.isSome)) x

/-- The source of PPS_OUT at counter time `ts`, with OFS, in whole seconds (R283); none while the media timescale has no value. -/
def ppsAt (s : State) (ts : Nat) : Option Nat :=
  let src := s.fget TMB_PPS_OUT_CFG_SRC
  let ofs := max (-500000000) (min 500000000 (s.rd TMB_PPS_OUT_OFS).toInt)
  if src = 3 ∧ mediaNone s then none
  else some (((if src = 3 then mediaTime s ts else domTime s src ts) + ofs * 65536) / unitsPerSec).toNat

/-- After a step backwards the next second boundary ahead gives a pulse again (R283). -/
def ppsBack (s : State) (ts : Nat) : State :=
  match ppsAt s ts with
  | some sec => { s with tmb := { s.tmb with ppsSec := min s.tmb.ppsSec sec } }
  | none => s

/-- The update of a domain at c_u; a step of the anchor domain re-bases the media timescale (R267, R271, R273). -/
def applyUpdate (s : State) (x : Nat) (u : DomUpdate) : State :=
  let ts := tsOf u.cu 0
  let old := domTime s x ts
  let d := s.dom x
  let b0 : Int := match u.set with
    | some t => t
    | none => old
  let b1 : Int := b0 + u.adj.getD 0
  let s := setPend (s.setDom x { d with base := (b1 % 2 ^ 112).toNat, anchor := u.cu, rate := u.rate.getD d.rate }) x none
  let s := s.when (s.fget TMB_PPS_OUT_CFG_SRC == x) (ppsBack · ts)
  if s.anchor = x ∧ s.ref.mediaSet ∧ (u.set.isSome ∨ u.adj.isSome) then
    let s := rebase s (s.beta - (domTime s x ts - old)) u.cu
    if maxDelta s < s.beta.natAbs then raise (s.fset TMB_MEDIA_STATUS_DELTA_ERR 1) (srcOf 55 1) 0 else s
  else s

/-- Counter C reaches `c`, if TCLK has qualified (R263): updates whose count has come apply on the way, and sample-exact
commands of the running tick whose sample has come complete (R29). -/
def advance (s : State) (c : Nat) : State :=
  let c := if good s 5 then max c s.tmb.c else s.tmb.c
  let s := s.each (List.range 3) fun s x => match (s.dom x).pend with
    | some u => if u.cu ≤ c then applyUpdate s x u else s
    | none => s
  let s := { s with tmb := { s.tmb with c := c } }
  endPlanned s s.nNow

/-- The next instant at which C is a multiple of `step`, after the one at `last` (R461). -/
def nextInstant (c last step : Nat) : Nat := if c % step = 0 ∧ last ≠ c then c else (c / step + 1) * step

def execDomainUpdate (dom : Nat) (s : State) : Host.Outcome State Fault Refusal :=
  done (decide (dom < 3)) (match (s.dom dom).pend with
    | some u => advance s u.cu
    | none => s)

/-- APPLY: the staged values become the pending update (R266, R267). -/
def stageUpdate (s : State) (x : Nat) : State :=
  let d := s.dom x
  let st := d.stRate.toNat
  let r := clampN rateLo rateHi st
  let use := s.on (TMB_DOM_CTRL_USE_RATE x)
  let s := s.when (use && r != st) fun s => s.fset (TMB_DOM_STATUS_RATE_CLIP x) 1
  let s := s.when d.pend.isSome fun s => s.fset (TMB_DOM_STATUS_REPLACED x) 1
  let t := s.get64 (TMB_DOM_SET_SEC x) * 1000000000 * 65536 + s.fget (TMB_DOM_SET_NS_NS x) * 65536 +
    s.fget (TMB_DOM_SET_FRAC_FRAC x)
  let c := s.get64 (TMB_DOM_APPLY_AT x)
  setPend s x (some
    { cu := if s.tmb.c < c then c else s.tmb.c + 1
      rate := if use then some r else none
      set := if s.on (TMB_DOM_CTRL_USE_SET x) then some t else none
      adj := if s.on (TMB_DOM_CTRL_USE_ADJ x) then some (sgn 64 (s.get64 (TMB_DOM_ADJ x))) else none })

/-- The owner of a domain (R268). -/
def domOwner (s : State) (x : Nat) : Agent := if x = 2 ∨ s.on (TMB_DOM_CTRL_OWNER x) then .host else .mgmt

/-- A write that is ignored because its party does not own the domain (R268). -/
def refuseDom (s : State) (x off : Nat) : State := regAccess (s.fset (TMB_DOM_STATUS_REFUSED x) 1) 3 off

/-- A write of TMB_DOM_CTRL (R267, R268). -/
def writeDomCtrl (s : State) (ag : Agent) (x v : Nat) : State :=
  let owns := domOwner s x == ag
  let same := bits v 2 3 == bits (s.rd (TMB_DOM_CTRL x)).toNat 2 3 && bit v 8 == s.on (TMB_DOM_CTRL_VALID x) &&
    !bit v 1 && !bit v 5
  let s := if owns || same then s else refuseDom s x (TMB_DOM_CTRL x)
  let s := if ag = .host ∧ x ≠ 2 ∧ bit v 0 ≠ s.on (TMB_DOM_CTRL_OWNER x) then
    setPend (s.fset (TMB_DOM_CTRL_OWNER x) (bits v 0 1)) x none else s
  if ¬ owns then s
  else
    let s := s.when (bit v 5) (setPend · x none)
    let s := s.fset ⟨TMB_DOM_CTRL x, 2, 3⟩ (bits v 2 3)
    let s := s.fset (TMB_DOM_CTRL_VALID x) (bits v 8 1)
    s.when (bit v 1) (stageUpdate · x)

/-! ## GO (R269) -/

def putTod (s : State) (sec ns frac : Nat) (t : Int) : State :=
  let d := tod t
  ((s.set64 sec d.1).wr ns (BitVec.ofNat 32 d.2.1)).wr frac (BitVec.ofNat 32 d.2.2)

/-- Capture C and the times of A, B, F and the media timescale at one count. -/
def goSnap (s : State) : State :=
  let ts := tsOf s.tmb.c 0
  let s := s.set64 TMB_SNAP_CNT s.tmb.c
  let s := s.each (List.range 3) fun s x =>
    putTod s (TMB_DOM_SNAP_SEC x) (TMB_DOM_SNAP_NS x) (TMB_DOM_SNAP_FRAC x) (domTime s x ts)
  putTod s TMB_MEDIA_SNAP_SEC TMB_MEDIA_SNAP_NS TMB_MEDIA_SNAP_FRAC (if mediaNone s then 0 else mediaTime s ts)

/-! ## PPS_OUT (R283) -/

/-- The source time plus OFS, in whole seconds, at the present count. -/
def ppsSecond (s : State) : Option Nat := ppsAt s (tsOf s.tmb.c 0)

/-- Whether PPS_OUT is driven: enabled, and by the chip that drives the balls. -/
def ppsDriven (s : State) : Bool := s.on TMB_PPS_OUT_CFG_EN && s.drivesBalls

/-- The look at the source time at counter value `c`: a pulse begins at a second boundary that has been passed, and one
that runs ends after WIDTH ms. -/
def ppsLook (s : State) : State :=
  let c := s.tmb.c
  let ended := match s.tmb.ppsLast with
    | some l => decide (l + s.fget TMB_PPS_OUT_CFG_WIDTH * 500000 ≤ c)
    | none => true
  let on := s.tmb.ppsOn && !ended && ppsDriven s
  match ppsSecond s with
  | none => { s with tmb := { s.tmb with ppsOn := on } }
  | some sec =>
    let apart : Bool := match s.tmb.ppsLast with
      | some l => decide (l + 250000000 ≤ c)
      | none => true
    if ppsDriven s ∧ s.tmb.ppsSec < sec ∧ apart then
      { s with tmb := { s.tmb with ppsOn := true, ppsLast := some c, ppsSec := sec } }
    else if s.tmb.ppsSec < sec ∧ ppsDriven s then { s with tmb := { s.tmb with ppsOn := on } }
    else { s with tmb := { s.tmb with ppsOn := on, ppsSec := sec } }

def execPpsOut (c : Nat) (s : State) : Host.Outcome State Fault Refusal := done (decide (c < 2 ^ 64)) (ppsLook (advance s c))

end Sys2Proof.Machine
end

