-- ==== Sys2Proof/Machine/Net.lean ====
section
/-! DEFINITION. Machine/Net.lean: the MAC (R231 to R237), low-power idle (R238), PTP timestamps and one-step insertion (R276
to R281). A frame is its bytes from the destination address on, without its FCS, whose 4 bytes its length counts. The
layouts of Ethernet, IP, UDP and PTP headers are those of their standards, which the spec names (PRESUMED). -/

namespace Sys2Proof.Machine

/-! ## Frames -/

/-- The big-endian number of `n` bytes at offset `o`. -/
def be (bs : List Byte) (o n : Nat) : Nat := ((bs.drop o).take n).foldl (fun a b => 256 * a + b.toNat) 0

def beBytes (n v : Nat) : List Byte := (leBytes n v).reverse

/-- `bs` with the bytes at `o` replaced. -/
def patch (bs : List Byte) (o : Nat) (v : List Byte) : List Byte := bs.take o ++ v ++ bs.drop (o + v.length)

/-- What the MAC reads of a frame: addresses, VLAN ID, EtherType and where its payload begins. -/
structure Eth where
  da : Nat
  sa : Nat
  vlan : Option Nat
  type : Nat
  pl : Nat
  deriving DecidableEq, Repr

def ethOf (bs : List Byte) : Eth :=
  if be bs 12 2 = 0x8100 then ⟨be bs 0 6, be bs 6 6, some (be bs 14 2 % 4096), be bs 16 2, 18⟩
  else ⟨be bs 0 6, be bs 6 6, none, be bs 12 2, 14⟩

def Eth.multicast (e : Eth) : Bool := bit e.da 40
def Eth.broadcast (e : Eth) : Bool := e.da == 2 ^ 48 - 1

/-- UDP over IPv4 or IPv6: whether IPv6, where the IP header and the UDP header begin. -/
def udpOf (e : Eth) (bs : List Byte) : Option (Bool × Nat × Nat) :=
  if e.type = 0x0800 ∧ be bs (e.pl + 9) 1 = 17 then some (false, e.pl, e.pl + 4 * (be bs e.pl 1 % 16))
  else if e.type = 0x86DD ∧ be bs (e.pl + 6) 1 = 17 then some (true, e.pl, e.pl + 40)
  else none

/-- Where the PTP message of a frame begins (R276). -/
def ptpOf (e : Eth) (bs : List Byte) : Option Nat :=
  if e.type = 0x88F7 then some e.pl
  else match udpOf e bs with
    | some (_, _, u) => if be bs (u + 2) 2 = 319 ∨ be bs (u + 2) 2 = 320 then some (u + 8) else none
    | none => none

/-- ARP, NDP, IGMP, MLD or LLDP (R234). -/
def mgmtFrame (e : Eth) (bs : List Byte) : Bool :=
  let icmp := be bs (e.pl + 40) 1
  e.type == 0x0806 || e.type == 0x88CC || (e.type == 0x0800 && be bs (e.pl + 9) 1 == 2) ||
  (e.type == 0x86DD && ((be bs (e.pl + 6) 1 == 58 && ((decide (130 ≤ icmp) && decide (icmp ≤ 137)) || icmp == 143)) ||
    (be bs (e.pl + 6) 1 == 0 && be bs (e.pl + 40) 1 == 58)))

/-! ## Checksums -/


def onesSum (bs : List Byte) : Nat :=
  let v := ((List.range ((bs.length + 1) / 2)).map fun (i : Nat) => be (bs ++ [0]) (2 * i) 2).sum
  let v := v % 65536 + v / 65536
  v % 65536 + v / 65536

def ipChecksum (bs : List Byte) : Nat := 65535 - onesSum bs

/-- The UDP checksum of a frame, over the pseudo header, the UDP header and the payload. -/
def udpChecksum (bs : List Byte) (v6 : Bool) (ip udp : Nat) : Nat :=
  let len := be bs (udp + 4) 2
  let addrs := if v6 then (bs.drop (ip + 8)).take 32 else (bs.drop (ip + 12)).take 8
  let body := (patch bs (udp + 6) [0, 0]).drop udp
  let c := 65535 - onesSum (addrs ++ [0, 17] ++ beBytes 2 len ++ body.take len)
  if c = 0 then 65535 else c

/-- Rewrite the UDP checksum; an IPv4 zero checksum stays zero (R280). -/
def fixUdp (bs : List Byte) : List Byte :=
  match udpOf (ethOf bs) bs with
  | none => bs
  | some (v6, ip, udp) =>
    if ¬ v6 ∧ be bs (udp + 6) 2 = 0 then bs else patch bs (udp + 6) (beBytes 2 (udpChecksum bs v6 ip udp))

/-! ## Port settings and counters -/

/-- The line mode in effect: a mode that Table 9.1 does not allow is OFF (R231). -/
def modeAllowed (p m : Nat) : Bool := if p < 4 then m == 1 || m == 2 else m == 2 || m == 3 || m == 4
def netMode (s : State) (p : Nat) : Nat :=
  let m := s.fget (NET_CFG_MODE p)
  if modeAllowed p m then m else 0
def lineRate (s : State) (p : Nat) : Nat := match netMode s p with
  | 1 => 25000000000
  | 2 => 10000000000
  | 3 | 4 => 1000000000
  | _ => 0
def State.link (s : State) (p : Nat) : Bool := s.on (NET_STATUS_LINK p)
def State.convoyPort (s : State) (p : Nat) : Bool := decide (4 ≤ p) && s.on (NET_CFG_CONVOY p)

/-- Sources of a network port (Table 16.1). -/
def netSrc (p o : Nat) : Nat := srcOf (48 + p) o

/-- Add to a counter of Table 9.2; half range sets its bit and is an event (R237). -/
def addStat (s : State) (p : Nat) (rx : Bool) (i d : Nat) : State :=
  let off := if rx then NET_STAT_RX p i else NET_STAT_TX p i
  let old := s.get64 off % 2 ^ 40
  let new := min (old + d) (2 ^ 40 - 1)
  let s := s.set64 off new
  if old < 2 ^ 39 ∧ 2 ^ 39 ≤ new then
    let h := if rx then NET_HALF_RX p (i / 32) else NET_HALF_TX p (i / 32)
    raise (s.fset ⟨h, i % 32, 1⟩ 1) (netSrc p 1) 0
  else s

def sizeBin (len : Nat) : Nat :=
  if len ≤ 64 then 16 else if len ≤ 127 then 17 else if len ≤ 255 then 18 else if len ≤ 511 then 19
  else if len ≤ 1023 then 20 else if len ≤ 1522 then 21 else if len ≤ 4095 then 22 else 23

/-- The counts that every good frame, or every frame sent, makes. -/
def frameStats (s : State) (p : Nat) (rx : Bool) (bs : List Byte) : State :=
  let e := ethOf bs
  let len := bs.length + 4
  let s := addStat s p rx 0 len
  let s := s.when (!rx) fun s => addStat s p rx 1 len
  let s := addStat s p rx 2 1
  let s := addStat s p rx (if e.broadcast then 5 else if e.multicast then 4 else 3) 1
  let s := s.when e.vlan.isSome fun s => addStat s p rx 6 1
  let s := match ptpOf e bs with
    | some o => addStat s p rx (if be bs o 1 % 16 < 8 then 8 else 9) 1
    | none => s
  addStat s p rx (sizeBin len) 1

/-- A frame leaves port `p`; `kind` is its counter of Table 9.2. While LINK is clear it is a LINK_DROP (R232). -/
def sendFrame (s : State) (p kind : Nat) (bs : List Byte) : State :=
  if ¬ s.link p then addStat s p false 25 1
  else
    let s := s.setNet p { s.net p with sent := bs :: (s.net p).sent }
    let s := s.fset ⟨NET_STATUS p, 5, 1⟩ 0
    addStat (frameStats s p false bs) p false kind 1

/-! ## Link events -/

def execLinkChange (port : Nat) (up : Bool) (s : State) : Host.Outcome State Fault Refusal :=
  done (decide (port < 6))
    (if up then
       (if netMode s port = 0 ∨ s.pwr.nets.contains port then s
        else
          let fec := s.fget (NET_CFG_FEC port)
          let s := (s.fset (NET_STATUS_LINK port) 1).fset (NET_STATUS_BLOCK_LOCK port) (b2n (decide (netMode s port ≤ 2)))
          let s := s.fset (NET_STATUS_FEC_LOCK port) (b2n (fec == 1 || fec == 2))
          s.fset (NET_STATUS_AN_DONE port) (b2n (netMode s port == 4 || (netMode s port == 3 && s.on (NET_CFG_AN port)))))
     else if s.link port then raise (s.wr (NET_STATUS port) 0) (netSrc port 0) 0
     else s)

/-- A write of NET_CFG restarts the link (R231, R232). -/
def writeNetCfg (s : State) (p : Nat) (v : W32) : State :=
  let was := s.link p
  let v := v.toNat % 128
  let v := if p < 4 then putBits v 6 1 0 else v
  let s := (s.wr (NET_CFG p) (BitVec.ofNat 32 v)).wr (NET_STATUS p) 0
  let s := s.when was fun s => raise s (netSrc p 0) 0
  let m := v % 8
  s.when (m != 0 && !modeAllowed p m) fun s => regAccess s 3 (NET_CFG p)

/-- LPI_ENTRY: the port enters low-power idle (R238), or its link partner does, which bit 4 of LPI shows until the
next frame; the model's transmit queues are empty between its commands. -/
def execLpiEntry (side : LpiSide) (s : State) : Host.Outcome State Fault Refusal :=
  let port := side.port
  done (decide (port < 6))
    (if side.rx then s.when (s.link port && s.on (NET_EEE_EN port)) fun s => s.fset ⟨NET_STATUS port, 4, 1⟩ 1
     else s.when (s.link port && s.on (NET_EEE_EN port) && s.fget (NET_EEE_TW_SYS port) != 0 &&
        !bit (s.fget (NET_STATUS_LPI port)) 1) fun s =>
      addStat (s.fset ⟨NET_STATUS port, 5, 1⟩ 1) port false 26 1)

/-! ## PTP (R276 to R281) -/

/-- The timebase domain whose PTP instance has domainNumber `d`. -/
def ptpDomain (s : State) (d : Nat) : Option Nat :=
  (List.range 2).find? fun x => match Tbl.find s.mgmt.ptp x with
    | some cfg => (cfg[1]?.getD 0).toNat == d
    | none => false

/-- A signed 32-bit latency register. -/
def lat (s : State) (off : Nat) : Int := (s.rd off).toInt

def egressTs (s : State) (p c phase : Nat) : Int :=
  (tsOf c phase : Int) + Config.latTx (netMode s p) + lat s (NET_TS_TX_LAT p)
def ingressTs (s : State) (p c phase : Nat) : Int :=
  (tsOf c phase : Int) - Config.latRx (netMode s p) - lat s (NET_TS_RX_LAT p)

def addCorrection (bs : List Byte) (o : Nat) (d : Int) : List Byte :=
  patch bs (o + 8) (beBytes 8 (uns 64 (sgn 64 (be bs (o + 8) 8) + d)))

/-- One-step insertion into a Sync or a Pdelay_Resp (R279, R280), at message offset `o`. -/
def oneStepInsert (s : State) (bs : List Byte) (o : Nat) (ts reqTs : Int) : List Byte :=
  let x := (ptpDomain s (be bs (o + 4) 1)).getD 2
  let m := be bs o 1 % 16
  if m = 0 then
    let t := domTime s x ts.toNat
    let d := tod t
    let bs := patch bs (o + 34) (beBytes 6 (d.1 % 2 ^ 48) ++ beBytes 4 d.2.1)
    fixUdp (addCorrection bs o d.2.2)
  else if m = 3 then fixUdp (addCorrection bs o (((s.dom x).rate * (ts - reqTs)) / 2 ^ 41))
  else bs

/-- The instance that sends a general message of a two-step exchange has read the queue up to the timestamp of its event message
(R278): Sync for Follow_Up, Delay_Req for Delay_Resp, Pdelay_Resp for Pdelay_Resp_Follow_Up (DEDUCED, log entry 82). -/
def readTs (s : State) (p m dom seq : Nat) : State :=
  let event : Option Nat := if m = 8 then some 0 else if m = 9 then some 1 else if m = 10 then some 3 else none
  let q := (s.net p).tsq
  match event with
  | none => s
  | some t => match q.findIdx? fun e => e.mtype == t && e.domain == dom && e.seqId == seq with
    | some i => s.setNet p { s.net p with tsq := q.drop (i + 1) }
    | none => s

/-- An egress timestamp enters the port's queue of 64 (R278). -/
def queueTs (s : State) (p : Nat) (e : TsEntry) : State :=
  if (s.net p).tsq.length < 64 then s.setNet p { s.net p with tsq := (s.net p).tsq ++ [e] }
  else raise (s.count (NET_TS_QSTAT_QDROP p) 1) (netSrc p 4) 0

/-- FRAME_FROM_MANAGEMENT: the instant is that of the frame's first bit. -/
def execFrameFromManagement (port : Nat) (bytes : List Byte) (oneStep wantTs : Bool) (reqTs c phase : Nat) (s : State) :
    Host.Outcome State Fault Refusal :=
  let s' := advance s c
  let ts := egressTs s' port c phase
  done (decide (port < 6) && decide (c < 2 ^ 64) && decide (phase < 2 ^ 17))
    (match ptpOf (ethOf bytes) bytes with
     | none => sendFrame s' port 13 bytes
     | some o =>
       let bs := if oneStep then oneStepInsert s' bytes o ts reqTs else bytes
       let s' := readTs s' port (be bs o 1 % 16) (be bs (o + 4) 1) (be bs (o + 30) 2)
       let s' := s'.when (wantTs && s'.link port && decide (be bs o 1 % 16 < 8)) fun s =>
         queueTs s port ⟨be bs o 1 % 16, be bs (o + 4) 1, be bs (o + 30) 2, ts.toNat⟩
       sendFrame s' port 13 bs)

/-- The other ring port. -/
def ringOther (p : Nat) : Nat := if p = 4 then 5 else 4

/-- A transparent clock's forwarding (R281): an event message gains its residence time, in which the time until it leaves
is a free value. -/
def forwardPtp (s : State) (p o c phase : Nat) (bs : List Byte) : State :=
  let q := ringOther p
  let (wait, s) := s.draw Config.forwardDelay
  let rate := match ptpDomain s (be bs (o + 4) 1) with
    | some x => (s.dom x).rate
    | none => 2 ^ 41
  let d := (rate * (egressTs s q c phase + wait - ingressTs s p c phase)) / 2 ^ 41
  sendFrame s q 14 (if be bs o 1 % 16 < 8 then fixUdp (addCorrection bs o d) else bs)

def portMac (s : State) (p : Nat) : Nat := s.get64 (NET_MAC p) % 2 ^ 48

/-- A received PTP message (R276, R278, R281); the ring carries one on that is not addressed to the port (R261). -/
def takePtp (s : State) (p o c phase : Nat) (bs : List Byte) : State :=
  let known := (ptpDomain s (be bs (o + 4) 1)).isSome
  let s := if known then s.setNet p { s.net p with
      toPtp := (s.net p).toPtp ++ [((if be bs o 1 % 16 < 8 then ingressTs s p c phase else 0).toNat, bs)] }
    else if s.convoyPort p then s else addStat s p true 14 1
  s.when (s.convoyPort p && decide (bs.length + 4 ≤ 1522) && be bs 0 6 != portMac s p) fun s => forwardPtp s p o c phase bs

/-! ## Reception up to the streams (R232 to R236, R261) -/

/-- MAXLEN, at most 9,216 (R233). -/
def maxLen (s : State) (p : Nat) : Nat := min 9216 (s.fget (NET_MTU_MAXLEN p))

/-- The length and FCS checks: the counts of a frame, and whether it goes on. -/
def macChecks (s : State) (p : Nat) (bs : List Byte) (fcsOk : Bool) : State × Bool :=
  let len := bs.length + 4
  let s := addStat s p true 1 len
  let short := decide (len < 64)
  let long := decide (maxLen s p < len)
  if ¬ fcsOk then (addStat s p true (if short then 27 else if long then 28 else 24) 1, false)
  else if short then (addStat s p true 25 1, false)
  else if long then (addStat s p true 26 1, false)
  else (frameStats s p true bs, true)

/-- What the line reports with a frame (R235, R237): the counts, and whether a staging buffer takes the frame. BUF_DROP is an event
at most once a second. -/
def lineChecks (s : State) (p : Nat) (l : LineErr) : State × Bool :=
  let add := fun (s : State) i d => if d = 0 then s else addStat s p true i d
  let s := add (add (add s 29 l.pcs) 30 l.corrected) 31 l.uncorrectable
  let s := s.fset ⟨NET_STATUS p, 4, 1⟩ 0
  if ¬ l.full then (s, true)
  else
    let s := addStat s p true 32 1
    let due := (s.net p).bufDropAt.all fun a => decide (a + 500000000 ≤ s.tmb.c)
    (s.when due fun s => raise (s.setNet p { s.net p with bufDropAt := some s.tmb.c }) (netSrc p 2) 0, false)

/-- A PAUSE frame, or one of priority-based flow control (R235). -/
def flowControl (e : Eth) (bs : List Byte) : Bool :=
  e.type == 0x8808 && (be bs e.pl 2 == 0x0001 || be bs e.pl 2 == 0x0101)

/-! ## Address resolution (R234) -/

def ipv4Of (s : State) (p : Nat) : List Byte := beBytes 4 (s.rd (NET_IPV4 p)).toNat
def ipv6Of (s : State) (p : Nat) : List Byte := (List.range 4).flatMap fun m => beBytes 4 (s.rd (NET_IPV6 p m)).toNat

/-- The Ethernet header of an answer to a frame, on its VLAN. -/
def answerHdr (s : State) (p da type : Nat) (e : Eth) : List Byte :=
  beBytes 6 da ++ beBytes 6 (portMac s p) ++ (e.vlan.elim [] fun v => beBytes 2 0x8100 ++ beBytes 2 v) ++ beBytes 2 type

/-- The neighbour advertisement for `target`, to `dst`. -/
def advertise (mac : Nat) (target dst : List Byte) : List Byte :=
  let icmp := [136, 0, 0, 0, 0x60, 0, 0, 0] ++ target ++ [2, 1] ++ beBytes 6 mac
  let sum := 65535 - onesSum (target ++ dst ++ [0, 0, 0, 32, 0, 0, 0, 58] ++ icmp)
  [0x60, 0, 0, 0, 0, 32, 58, 255] ++ target ++ dst ++ patch icmp 2 (beBytes 2 sum)

/-- Management's answer to a request for an address of the port: ARP for NET_IPV4, NDP for NET_IPV6, 0 being none. The layouts are
those of the protocols (PRESUMED, log entry 44). -/
def resolveAnswer (s : State) (p : Nat) (e : Eth) (bs : List Byte) : Option (List Byte) :=
  let f := fun o n => (bs.drop (e.pl + o)).take n
  let pad := fun (l : List Byte) => l ++ List.replicate (60 - l.length) 0
  if e.type = 0x0806 ∧ be bs (e.pl + 6) 2 = 1 ∧ f 24 4 = ipv4Of s p ∧ s.rd (NET_IPV4 p) ≠ 0 then
    some (pad (answerHdr s p (be bs (e.pl + 8) 6) 0x0806 e ++ f 0 6 ++ [0, 2] ++ beBytes 6 (portMac s p) ++ ipv4Of s p ++ f 8 10))
  else if e.type = 0x86DD ∧ be bs (e.pl + 6) 1 = 58 ∧ be bs (e.pl + 40) 1 = 135 ∧ f 48 16 = ipv6Of s p ∧
      (ipv6Of s p).any (· != 0) then
    (let src := f 8 16
     let any := src.all (· == 0)
     let dst := if any then [0xFF, 2] ++ List.replicate 13 0 ++ [1] else src
     some (answerHdr s p (if any then 0x333300000001 else e.sa) 0x86DD e ++ advertise (portMac s p) (ipv6Of s p) dst))
  else none

/-- A frame for the management subsystem, with what that answers at once. -/
def toManagement (s : State) (p c : Nat) (e : Eth) (bs : List Byte) : State :=
  let s := addStat s p true 13 1
  let s := s.setNet p { s.net p with toMgmt := (s.net p).toMgmt ++ [(c, bs)] }
  match resolveAnswer s p e bs with
  | some a => sendFrame s p 13 a
  | none => s

/-- The frame carries the port's address, a group address or the broadcast address. -/
def addressed (s : State) (p : Nat) (e : Eth) : Bool := e.da == portMac s p || e.multicast

end Sys2Proof.Machine
end

