-- ==== Sys2Proof/Machine/PortOps.lean ====
section
/-! DEFINITION. Machine/PortOps.lean: frames received, non-audio detection, clock events, what a port does at a tick
start, and the port commands (R159 to R161, R165, R170 to R184, R193, R196). -/

namespace Sys2Proof.Machine

/-! ## Non-audio detection (R180, R181) -/

/-- The patterns of Table 6.6 as words of the slot: width, Pa, Pb. -/
def syncPatterns : List (Nat × Nat × Nat) :=
  [(16, 0xF872, 0x4E1F), (20, 0x6F872, 0x54E1F), (24, 0x96F872, 0xA54E1F)]

/-- Pa in word `a` and Pb in word `b`, at an alignment that DW allows. -/
def syncPair (dw : Nat) (a b : W32) : Bool :=
  syncPatterns.any fun t => (t.1 == 16 || decide (t.1 ≤ dw)) && bits a.toNat (32 - t.1) t.1 == t.2.1 &&
    bits b.toNat (32 - t.1) t.1 == t.2.2

/-- The pair partner of a channel: the other subframe, or the other TDM slot of the pair in the lane. -/
def partner (c : Nat) : Nat := if c % 2 = 0 then c + 1 else c - 1

/-- Channels that non-audio detection looks at. -/
def naChans (s : State) (p : Nat) : List Nat :=
  if s.on (PRT_MODE_NA_EN p) ∧ (s.mode p = mTdm ∨ s.mode p = mAes) then
    ((rxChans s p).filter fun e => !e.data).map (·.c) else []

/-- Drop the words of a channel from frames that wait. -/
def dropChan (c : Nat) (f : List (Nat × W32)) : List (Nat × W32) := f.filter fun e => e.1 != c

/-- Mute a channel, with the `n` latest of its delayed words (R181); a detection that mutes is an event. -/
def naMute (s : State) (p c n : Nat) : State :=
  let q := s.port p
  let first := !s.on (naBit p c)
  let s := s.setPort p { q with
    delay := q.delay.take (q.delay.length - n) ++ (q.delay.drop (q.delay.length - n)).map (dropChan c)
    rel := Tbl.put 0 q.rel c 0, fades := Tbl.clear q.fades c (c + 1) }
  let s := s.fset (naBit p c) 1
  s.when first fun s => raise s (portSrc p 2) (plain 0 c 0 0)

/-- Release a channel: a DIRECT one fades in over 32 words, an ASRC one ramps up or stays muted. -/
def naUnmute (s : State) (p c : Nat) : State :=
  if ¬ s.on (naBit p c) then s
  else
    let s := (s.fset (naBit p c) 0).setPort p { s.port p with rel := Tbl.put 0 (s.port p).rel c 0 }
    match (rxChans s p).find? fun e => e.c == c with
    | some e =>
      if e.path = 1 then
        (if s.ast e.idx = aRun ∨ s.ast e.idx = aRampUp ∨ s.ast e.idx = aRampDown ∨ s.ast e.idx = aMuted then
          asrcOpen s e.idx else s)
      else s.setPort p { s.port p with fades := Tbl.put 0 (s.port p).fades c 1 }
    | none => s

def applyNa (s : State) (p c : Nat) (mute : Bool) (n : Nat) : State := if mute then naMute s p c n else naUnmute s p c

/-- Mute, with the latest `n` delayed words, or release. -/
def naDecide (s : State) (p c : Nat) (mute : Bool) (n : Nat) : State :=
  leadDecides s (fun d => { d with naDec := d.naDec ++ [(p, c, mute)] }) fun s => applyNa s p c mute n

/-- A match that mutes the channels `hit`, with the `n` latest of their delayed words. -/
def matchHit (s : State) (p : Nat) (hit : List Nat) (n : Nat) : State :=
  s.each (hit.filter (naChans s p).contains) fun s c =>
    naDecide (s.setPort p { s.port p with rel := Tbl.put 0 (s.port p).rel c 0 }) p c true n

/-- A sync match on a channel (R180), in the pair form or in the single form, whose Pa is the frame before. -/
def syncHit (s : State) (p c : Nat) (pair : Bool) : State :=
  if pair then matchHit s p [c, partner c] 0 else matchHit s p [c] 1

/-- SYNC_MATCH: sync words, or the non-audio bit of the block of subframe `ch`, which its frame 1 brings: the two words that wait
in the delay are those of frames 0 and 1 (R180). -/
def execSyncMatch (port ch : Nat) (found : NaFind) (s : State) : Host.Outcome State Fault Refusal :=
  done (decide (port < 48) && decide (ch < 128))
    (s.when (s.pst port == stRun && (naChans s port).contains ch) fun s =>
      if found.nonaudio then
        s.when (s.mode port == mAes) fun s =>
          matchHit (s.setPort port { s.port port with nonaudio := putBits (s.port port).nonaudio.toNat ch 1 1 }) port [ch] 2
      else syncHit s port ch found.pair)

/-- Release after 4,096 frames with no match and with the non-audio bit clear (R181). -/
def execNaRelease (port ch : Nat) (s : State) : Host.Outcome State Fault Refusal :=
  let q := s.port port
  done (decide (port < 48) && decide (ch < 128))
    (s.when (s.pst port == stRun && decide (4096 ≤ Tbl.get 0 q.rel ch) && !(decide (ch < 2) && q.nonaudio.getLsbD ch))
      fun s => naDecide s port ch false 0)

/-- Look for sync words in a received frame, and in RUN count the frames without one: `f` has the words of the enabled entries and
`ws` those that the frame brought, which serve for a pair partner with no enabled entry. -/
def naDetect (s : State) (p : Nat) (ws f : List (Nat × W32)) : State :=
  let dw := wordWidth s p
  let sh := 32 - dw
  let prev := (s.port p).prev
  let word : Nat → Option W32 := fun c => match f.find? fun e => e.1 == c with
    | some e => some e.2
    | none => (ws.find? fun e => e.1 == c).map fun (e : Nat × W32) => e.2 <<< sh
  let s := s.each (naChans s p) fun s c =>
    match word c with
    | none => s
    | some w =>
      let single := (Tbl.find prev c).any fun v => syncPair dw v w
      let paired := (word (partner c)).any fun v => syncPair dw w v
      let s := s.when (s.pst p == stRun && s.on (naBit p c)) fun s =>
        s.setPort p { s.port p with rel := Tbl.put 0 (s.port p).rel c (min 4096 (Tbl.get 0 (s.port p).rel c + 1)) }
      let s := s.when single fun s => syncHit s p c false
      s.when paired fun s => syncHit s p c true
  s.setPort p { s.port p with prev := f.foldl (fun t e => Tbl.put 0 t e.1 e.2) prev }

/-! ## Frames received (R159 to R161, R168) -/

/-- Words that a port commits in the tick that runs: the first index it may commit. -/
def firstDue (s : State) (p n dom : Nat) : Nat :=
  match (s.port p).startN with
  | some m => max (domIndex n dom) (firstIndex m dom)
  | none => domIndex n dom

/-- Put a frame on the delay of two frames, where detection runs (R161), and what leaves it on the FIFO; at the start the
delay holds two frames of zeros. A muted channel stands in neither. -/
def pushFrame (s : State) (p : Nat) (f : List (Nat × W32)) : State :=
  let q := s.port p
  let f := f.filter fun e => !s.on (naBit p e.1)
  if s.on (PRT_MODE_NA_EN p) then
    match List.replicate (2 - q.delay.length) (f.map fun e => (e.1, (0 : W32))) ++ q.delay ++ [f] with
    | a :: t => s.setPort p { q with delay := t, fifo := q.fifo ++ [a] }
    | [] => s
  else s.setPort p { q with fifo := q.fifo ++ [f] }

/-- A frame's words, by channel, each channel of the port with its last good word where the frame brings none. -/
def fullFrame (s : State) (p : Nat) (ws : List (Nat × W32)) : List (Nat × W32) :=
  let sh := 32 - wordWidth s p
  (rxChans s p).map fun e => match ws.find? fun w => w.1 == e.c with
    | some w => (e.c, w.2 <<< sh)
    | none => (e.c, Tbl.get 0 (s.port p).lastGood e.c)

/-- One bit of each input that the frame brings, to its chain (R168). -/
def pushBits (s : State) (p : Nat) (ws : List (Nat × W32)) : State :=
  s.each (chainChans s p) fun s e =>
    let g := chainCfg s e.idx
    let b := match ws.find? fun w => w.1 == e.c with
      | some w => w.2.getLsbD 0
      | none => (s.chain e.idx).lastBit
    let s := s.setChain e.idx { s.chain e.idx with lastBit := b }
    let i := firstDue s p s.n g.dom + (s.chain e.idx).capture.length
    chainInput s e.idx g (bitWord b) (mIndex i g.dom)

/-- The words of these frames are the last good ones. -/
def keepGood (s : State) (p : Nat) (fs : List (List (Nat × W32))) : State :=
  s.setPort p { s.port p with lastGood := fs.flatten.foldl (fun t e => Tbl.put 0 t e.1 e.2) (s.port p).lastGood }

/-- The way of a received frame to the FIFO (R161, R180). -/
def passFrame (s : State) (p : Nat) (ws f : List (Nat × W32)) : State :=
  pushFrame (s.when (s.on (PRT_MODE_NA_EN p)) fun s => naDetect s p ws f) p f

/-- A frame of a running port. -/
def takeFrame (s : State) (p : Nat) (ws : List (Nat × W32)) : State :=
  if s.mode p = mBit then pushBits s p ws
  else
    let f := fullFrame s p ws
    passFrame (keepGood s p [f]) p ws f

/-- A frame of a slave port that waits for RUN: the four latest fill its FIFO then (R160). In LOST the last good words stay those
of the loss, which fade out (R183). -/
def waitFrame (s : State) (p : Nat) (ws : List (Nat × W32)) : State :=
  let f := fullFrame s p ws
  let s := passFrame (s.when (s.pst p != stLost) fun s => keepGood s p [f]) p ws f
  s.setPort p { s.port p with fifo := (s.port p).fifo.drop ((s.port p).fifo.length - 4) }

/-- The validity bit that an AES3 subframe brings, bit 24 of its word (Table 6.12). -/
def noteValid (s : State) (p : Nat) (ws : List (Nat × W32)) : State :=
  s.when (s.mode p == mAes) fun s =>
    s.each (ws.filter fun e => decide (e.1 < 2)) fun s e => s.fset ⟨PRT_AES_STATUS p, 5 + e.1, 1⟩ (b2n (e.2.getLsbD 24))

/-- PORT_FRAME_RECEIVE: a frame of a running port is taken; one of a slave that waits for its clock or for n_x only keeps the
four latest, which fill the FIFO when the port enters RUN; lead-in discards it (R172). -/
def execPortFrameReceive (port : Nat) (words : List (Nat × W32)) (s : State) : Host.Outcome State Fault Refusal :=
  let q := s.port port
  let st := s.pst port
  let waits := s.monitors port && s.mode port != mBit
  done (decide (port < 48) && words.all fun e => decide (e.1 < 128))
    (if st = stOff ∨ st = stLeadin then s
     else
       let s := noteValid s port words
       if st = stRun then
         (let early := decide (0 < q.early)
          let s := s.setPort port { q with miss := 0, early := q.early - 1 }
          if ¬ early then takeFrame s port words else s.when waits (waitFrame · port words))
       else s.when waits (waitFrame · port words))

/-- R165: an error in a received subframe; the frame then brings no word for it. Only a port in RUN counts it (DESIGN CHOICE, log
entry 36): in the other states it takes no word that the last good one could replace. -/
def execAesErr (port ch : Nat) (s : State) : Host.Outcome State Fault Refusal :=
  done (decide (port < 48) && decide (ch < 2))
    (s.when (s.mode port == mAes && s.pst port == stRun) fun s => s.count (PRT_CNT1_AES_ERR port) 1)

/-! ## Entering and leaving RUN -/

/-- A frame of zeros; a muted channel stands in none. -/
def zeroFrame (s : State) (p : Nat) : List (Nat × W32) :=
  ((rxChans s p).filter fun e => !s.on (naBit p e.c)).map fun e => (e.c, (0 : W32))

/-- The FIFO of a slave at its fill of 4 frames (R160): the latest frames, with zero frames before them. -/
def centre (s : State) (p : Nat) : List (List (Nat × W32)) :=
  if s.monitors p then refill (zeroFrame s p) 4 (s.port p).fifo else []

/-- The limits of the mode on a measured rate (R163, R164, R168, R184, R187). R168's limits on a slave's bit clock are scaled with
the family and taken with a tolerance of 1,000 ppm at both ends (DESIGN CHOICE, log entry 36). -/
def rateLimits (s : State) (p rate : Nat) : Bool :=
  (if s.mode p = mTdm then decide (8000 ≤ rate) && decide (rate ≤ 216000) && decide (rate * bpf s p ≤ 49152000)
   else if s.mode p = mAes then decide (31680 ≤ rate) && decide (rate ≤ 193920)
   else decide (fsM s * 32 * 999 ≤ rate * 1000) && decide (rate * 1000 ≤ fsM s * 256 * 1001) && chainRateOk s p 1000 (rate, 1)) &&
  (let d := domOfRate s rate 1 1000
   !(chans s p).any (fun e => e.path == 0) || (d.isSome && ((s.port p).dom.isNone || (s.port p).dom == d)))

/-- The zeros that fill a slave chain's FIFO to four words, under the chain's flag (R168, R195). -/
def chainFill (s : State) (c : Nat) : List W32 :=
  List.replicate 4 (if s.on (DEC_CH_CFG_FLAG c) ∧ s.fget (DEC_CH_STATUS_REMAIN c) ≠ 0 then 1 else 0)

/-- Start the chains of a port at sample `nx` (R188, R192, R193); a slave's FIFO holds four output words (R168). In LOST they wait
for the clock. -/
def startChains (s : State) (p nx : Nat) (run : Bool) : State :=
  s.each (chainChans s p) fun s e =>
    let g := chainCfg s e.idx
    let freeze := s.on (DEC_CH_CFG_FREEZE e.idx)
    let c0 := if s.masters p ∧ g.dom = 0 ∧ nx % 2 = 1 then 2 ^ (g.tap - 1) else 0
    if run then
      (let s := startChain s e.idx g freeze c0 nx
       s.when (s.monitors p) fun s => s.setChain e.idx { s.chain e.idx with capture := chainFill s e.idx })
    else
      let s := emptyChain s e.idx g freeze 0 nx
      (s.setChain e.idx { s.chain e.idx with fade := some (2, 32) }).fset (DEC_CH_STATUS_RUN e.idx) 0

/-- The port runs from sample `nx`, or waits in LOST for its clock, with nothing to fade (R170). -/
def enterRun (s : State) (p nx : Nat) : State :=
  let rate := s.fget (word (PRT_RATE p))
  let clk := !s.monitors p || s.on (PRT_STATUS_CLK_OK p)
  let fits := !s.monitors p || rateLimits s p rate
  let run := clk && fits
  let q := s.port p
  let s := s.when (clk && !fits) fun s => s.fset (PRT_STATUS_RATE_ERR p) 1
  let s := s.setPort p { q with
    startN := some nx, stopN := none, fifo := centre s p, fade := if run then none else some (2, 32), txFade := none
    fades := [], miss := 0, rel := [], tx := [], early := framesIn s (rxRate s p) s.n nx }
  let s := startChains s p nx run
  if run then
    let s := s.setPort p { s.port p with dom := rateDom s (rxRate s p) }
    setPst (s.each (asrcChans s p) fun s e => setAst s e.idx aAcquire) p stRun
  else setPst s p stLost

/-- The port is OFF: its ASRC channels and chains with it. -/
def portOff (s : State) (p : Nat) : State :=
  let s := s.each (asrcChans s p) fun s e => asrcOff s e.idx
  let s := s.each (chainChans s p) fun s e => stopChain s e.idx
  let s := s.each (List.range 4) fun s m => s.wr (PRT_NA_MUTED p m) 0
  let q := s.port p
  setPst (s.setPort p { ({} : Port) with skipRead := q.skipRead, nonaudio := q.nonaudio, blockTs := q.blockTs }) p stOff

/-- LEADIN_START: the clocks run, with a channel-status block of their own; what the port received is discarded (R172). -/
def execLeadinStart (port : Nat) (s : State) : Host.Outcome State Fault Refusal :=
  done (decide (port < 48)) (s.when (s.pst port == stArmed && s.drives port) fun s =>
    setPst (s.setPort port { s.port port with fifo := [], delay := [], lastGood := [], prev := [], csFrame := 0 }) port stLeadin)

/-! ## Clock events (R182 to R184) -/

/-- The decisions on a port: 0 slip, 1 glitch repeat, 2 lost, 3 recovered, 4 rate error. -/
def portSlip (s : State) (p : Nat) : State :=
  let s := raise (s.count (PRT_CNT1_SLIP p) 1) (portSrc p 0) 0
  let s := s.setPort p { s.port p with fade := some (0, 0), txFade := some (0, 0) }
  s.each (chainChans s p) fun s e =>
    let s := s.setChain e.idx { s.chain e.idx with fade := some (0, 0) }
    trigger s e.idx (firF (chainCfg s e.idx))

def glitchRepeat (s : State) (p : Nat) : State :=
  if s.mode p = mBit then
    (s.each (chainChans s p) fun s e => trigger s e.idx (firF (chainCfg s e.idx))) |> fun s => pushBits s p []
  else takeFrame s p []

/-- The clock is lost (R183, R196); a port in LOST only loses it again. -/
def clockLoss (s : State) (p : Nat) : State :=
  let rate := s.fget (word (PRT_RATE p))
  let was := s.pst p
  let s := (s.fset (PRT_STATUS_CLK_OK p) 0).wr (PRT_RATE p) 0
  let s := s.setPort p { s.port p with
    fifo := [], delay := [], miss := 0, rel := [], early := 0
    lastRate := if rate = 0 then (s.port p).lastRate else rate }
  if was = stLost then s
  else
    let s := setPst s p stLost
    let s := s.setPort p { s.port p with fade := some (2, 0), tx := if s.drives p then (s.port p).tx else [] }
    let s := s.each (asrcChans s p) fun s e => if e.tx then s else asrcLoss s e.idx
    s.each (chainChans s p) fun s e =>
      let ch := clearHist (s.chain e.idx) (chainCfg s e.idx).tap 0
      (s.setChain e.idx { ch with fade := some (2, 0), capture := [] }).fset (DEC_CH_STATUS_RUN e.idx) 0

/-- The clock is recovered (R184): the port runs again. -/
def clockBack (s : State) (p : Nat) : State :=
  let rate := s.fget (word (PRT_RATE p))
  let s := keepGood s p ((s.port p).fifo ++ (s.port p).delay)
  let s := s.setPort p { s.port p with
    fifo := centre s p, fade := some (1, 0), miss := 0, rel := [], early := 0
    txFade := if s.mode p = mTdm then some (1, 0) else (s.port p).txFade }
  let s := s.each (asrcChans s p) fun s e => asrcRecover s p e.idx rate
  let s := s.each (chainChans s p) fun s e =>
    let ch := clearHist (s.chain e.idx) (chainCfg s e.idx).tap 0
    let s := s.setChain e.idx { ch with fade := some (1, 0) }
    let s := trigger (s.fset (DEC_CH_STATUS_RUN e.idx) 1) e.idx (firF (chainCfg s e.idx))
    s.setChain e.idx { s.chain e.idx with capture := chainFill s e.idx }
  setPst (s.setPort p { s.port p with dom := rateDom s (rxRate s p) }) p stRun

def applyPortDec (s : State) (p kind : Nat) : State :=
  match kind with
  | 0 => s.when (s.pst p == stRun) (portSlip · p)
  | 1 => s.when (s.pst p == stRun) (glitchRepeat · p)
  | 2 => s.when (s.pst p == stRun || s.pst p == stLost) fun s => raise (clockLoss s p) (portSrc p 0) 0
  | 3 => s.when (s.pst p == stLost) (clockBack · p)
  | _ => s.when (s.pst p == stLost) fun s => s.fset (PRT_STATUS_RATE_ERR p) 1

def portDecide (s : State) (p kind : Nat) : State :=
  leadDecides s (fun d => { d with portDec := d.portDec ++ [(p, kind)] }) fun s => applyPortDec s p kind

/-- SLIP: the fill of a slave's FIFO reaches 0 or 8 (R160, R168). -/
def execSlip (port : Nat) (_full : Bool) (s : State) : Host.Outcome State Fault Refusal :=
  done (decide (port < 48))
    (s.when (s.pst port == stRun && s.monitors port && !((s.port port).fade.any fun f => f.1 == 0)) fun s =>
      portDecide s port 0)

/-- The declaration of loss of a monitored clock: the port enters LOST, or stays there. One that waits for its start counts and
records the loss and waits on, and one that is OFF only loses CLK_OK (log entry 36). -/
def declareLost (s : State) (p : Nat) : State :=
  let st := s.pst p
  if st = stLost ∧ ¬ s.on (PRT_STATUS_CLK_OK p) then s
  else
    let s := s.when (st != stOff) fun s => s.count (PRT_CNT0_LOST p) 1
    if st = stRun ∨ st = stLost then portDecide s p 2
    else
      let s := ((s.fset (PRT_STATUS_CLK_OK p) 0).wr (PRT_RATE p) 0).setPort p { s.port p with miss := 0, fifo := [], delay := [] }
      s.when (st != stOff) fun s => raise s (portSrc p 0) 0

/-- GLITCH: a missing edge, or one that is ignored; the fourth in a row declares the clock lost (R182). -/
def execGlitch (port : Nat) (_missing : Bool) (s : State) : Host.Outcome State Fault Refusal :=
  let m := (s.port port).miss
  let st := s.pst port
  done (decide (port < 48))
    (if ¬ s.monitors port ∨ ¬ (st = stRun ∨ s.on (PRT_STATUS_CLK_OK port)) then s
     else if 3 ≤ m then declareLost s port
     else
       let s := (s.when (st != stOff) fun s => s.count (PRT_CNT0_GLITCH port) 1).setPort port { s.port port with miss := m + 1 }
       s.when (st == stRun) (portDecide · port 1))

def execClockLost (port : Nat) (s : State) : Host.Outcome State Fault Refusal :=
  done (decide (port < 48)) (s.when (s.monitors port) (declareLost · port))

/-- CLOCK_RECOVERED: 16 edges in place, at `rate` Hz (R184). -/
def execClockRecovered (port rate : Nat) (s : State) : Host.Outcome State Fault Refusal :=
  let s1 := (s.wr (PRT_RATE port) (BitVec.ofNat 32 rate)).fset (PRT_STATUS_CLK_OK port) 1
  let fits := rateLimits s port rate
  done (decide (port < 48) && decide (rate < 2 ^ 32))
    (if ¬ s.monitors port ∨ s.pst port = stRun then s
     else
       let s1 := s1.setPort port { s1.port port with miss := 0 }
       if s.pst port = stLost then portDecide s1 port (if fits then 3 else 4)
       else s1.when (s.pst port != stOff && !fits) fun s => s.fset (PRT_STATUS_RATE_ERR port) 1)

/-! ## Channel status (R166, R167) -/

/-- CRCC of the first 23 bytes: the CRC-8 of the professional format, x^8 + x^4 + x^3 + x^2 + 1 from all ones, bit 0 of
byte 0 first (PRESUMED: R166 names the byte and the format, not its arithmetic). -/
def crccStep (a : Nat) (b : Byte) : Nat :=
  (List.range 8).foldl (fun a _ => if a % 2 = 1 then a / 2 ^^^ 0xB8 else a / 2) (a ^^^ b.toNat)

def crcc (bs : List Byte) : Nat := bs.foldl crccStep 0xFF

/-- A received channel-status block of 24 bytes of subframe `sub`. -/
def csBlock (s : State) (p sub : Nat) (bs : List Byte) : State :=
  let pro := (bs[0]?.getD 0).getLsbD 0
  let good := !pro || crcc (bs.take 23) == (bs[23]?.getD 0).toNat
  let na := (bs[0]?.getD 0).getLsbD 1
  let s := s.when (!good) fun s => s.count (PRT_CNT1_AES_ERR p) 1
  let s := s.when good fun s =>
    let s := s.each (List.range 6) fun s i => s.wr (PRT_CS_RX p sub i) (BitVec.ofNat 32 (leNat ((bs.drop (4 * i)).take 4)))
    let s := (s.fset (PRT_AES_STATUS_CS_OK p) 1).fset ⟨PRT_AES_STATUS p, 3 + sub, 1⟩ (b2n na)
    let s := s.setPort p { s.port p with nonaudio := putBits (s.port p).nonaudio.toNat sub 1 (b2n na) }
    s.when (sub == 0) fun s =>
      (s.fset (PRT_AES_STATUS_PRO p) (b2n pro)).fset (PRT_AES_STATUS_GRADE p) (if pro then (bs[4]?.getD 0).toNat % 4 else 0)
  s.when (good && na && s.pst p == stRun && (naChans s p).contains sub) fun s =>
    naDecide (s.setPort p { s.port p with rel := Tbl.put 0 (s.port p).rel sub 0 }) p sub true 2

/-! ## Tick start: commits and words to send (R158, R159, R161) -/

/-- The fading words of one DIRECT channel of a tick, with its own fade-in, if it has one. -/
def channelFade (k : Nat) : List (Option W32) → List (Option W32) × Nat
  | [] => ([], k)
  | x :: t =>
    let y := if k = 0 then x else x.map fun v => BitVec.ofInt 32 (fadeWord v.toInt (k - 1) true)
    let r := channelFade (if k = 0 ∨ 32 ≤ k then 0 else k + 1) t
    (y :: r.1, r.2)

/-- Words of one channel from the frames that are committed; a muted channel stands in none of them. -/
def channelWords (fade : Option (Nat × Nat)) (c : Nat) (frames : List (List (Nat × W32))) : List (Option W32) × Option (Nat × Nat) :=
  let raw := frames.map fun f => (f.find? fun e => e.1 == c).map (·.2)
  let vs := fadeRun fade (raw.map fun w => w.getD 0)
  (vs.1.zipIdx.map fun e => if ((raw[e.2]?).getD none).isNone then none else e.1, vs.2)

/-- Commit the words of one DIRECT channel, or count the skip; a channel that is muted or lost writes nothing and skips
nothing (R158). -/
def commitChannel (s : State) (p : Nat) (e : Chan) (dom tp pos : Nat) (vs : List (Option W32)) : State :=
  let fits := slotFits s e.slot (0x100 + p) dom e.data
  if vs.all (·.isNone) && (vs.isEmpty || fits || s.on (naBit p e.c) || s.pst p == stLost) then s
  else if fits then commitWords s (0x100 + p) e.slot dom tp pos vs
  else portSkip s p 1

/-- The fade-out of the last good words of a port in LOST, then nothing (R183). -/
def commitLost (s : State) (p tp : Nat) : State :=
  let q := s.port p
  let run := fun e : Chan => fadeRun q.fade
    (List.replicate (domWords tp (s.fget (SCH_SLOT_CFG_DOMAIN e.slot))) (Tbl.get 0 q.lastGood e.c))
  let es := (directRx s p).filter fun e => !s.on (naBit p e.c)
  let s := s.each es fun s e => commitChannel s p e (s.fget (SCH_SLOT_CFG_DOMAIN e.slot)) tp 0 (run e).1
  match es with
  | [] => s
  | e :: _ => s.setPort p { s.port p with fade := (run e).2 }

/-- Commit the DIRECT receive channels of a running port: the frames of the tick of length `tp` at sample `np`. -/
def commitRun (s : State) (p np tp : Nat) : State :=
  match rateDom s (rxRate s p) with
  | none => s.setPort p { s.port p with fifo := [] }
  | some d =>
    let first := firstDue s p np d - domIndex np d
    let stop := match (s.port p).stopN with
      | some m => firstIndex m d - domIndex np d
      | none => domWords tp d
    let n := min (domWords tp d) stop - first
    let q := s.port p
    let last := ((rxChans s p).filter fun e => !s.on (naBit p e.c)).map fun e => (e.c, Tbl.get 0 q.lastGood e.c)
    let r := takeFifo (if s.monitors p then last else []) (zeroFrame s p) q.fade n q.fifo
    let s := s.each (directRx s p) fun s e =>
      let r := channelFade (Tbl.get 0 (s.port p).fades e.c) (channelWords q.fade e.c r.1).1
      let s := s.setPort p { s.port p with fades := Tbl.put 0 (s.port p).fades e.c r.2 }
      commitChannel s p e d tp first r.1
    let fade := (fadeRun q.fade (List.replicate n 0)).2
    let s := s.setPort p { s.port p with
      fade := fade, fifo := if s.monitors p then r.2.drop (r.2.length - 8) else [] }
    s.when (s.monitors p && (directRx s p != []) && (r.2 == [] || decide (8 ≤ r.2.length)) && !(fade.any fun f => f.1 == 0))
      fun s => portDecide s p 0

/-- Commit the chains of a port (R196). The fades work on the audio of the words: the flag of R195 stays. -/
def commitChains (s : State) (p np tp : Nat) : State :=
  s.each (chainChans s p) fun s e =>
    let g := chainCfg s e.idx
    let ch := s.chain e.idx
    let w := domWords tp g.dom
    let lost := s.pst p == stLost
    let slave := s.monitors p
    let first := firstDue s p np g.dom - domIndex np g.dom
    let stop := match (s.port p).stopN with
      | some m => firstIndex m g.dom - domIndex np g.dom
      | none => w
    let n := min w stop - first
    let t := if lost then (List.replicate w ch.lastOut, [])
      else if slave then takeFifo ch.lastOut 0 ch.fade n ch.capture
      else (ch.capture.take n, [])
    let r := fadeRun ch.fade (if g.flag then t.1.map fun x => x - (x &&& 1) else t.1)
    let words := t.1.zipWith (keepFlag g.flag) r.1
    let s := s.setChain e.idx { ch with fade := r.2, capture := t.2.drop (t.2.length - 8) }
    if words.all (·.isNone) && (!words.isEmpty || lost || slave || n == 0) then s
    else if slotFits s (s.fget (DEC_CH_CFG_SLOT e.idx)) (0x800 + e.idx) g.dom false then
      commitWords s (0x800 + e.idx) (s.fget (DEC_CH_CFG_SLOT e.idx)) g.dom tp (if lost then 0 else first) words
    else portSkip s p 1

/-! ## Words sent (R159, R161, R164, R394, R395) -/

/-- A word as a transmit channel sends it: DW bits, and whether it clips. -/
def sendWord (dw : Nat) (data : Bool) (x : W32) : Nat × Bool :=
  if data then (bits x.toNat (32 - dw) dw, false)
  else if dw = 32 then (x.toNat, false)
  else (uns dw (clip dw (rnd x.toInt (32 - dw))), clips dw (rnd x.toInt (32 - dw)))

/-- The words that a port sends for a channel, from the samples that are due: rounded, counted in CLIP, and with the AES3 validity
bit (R159, R164). -/
def putSent (s : State) (p : Nat) (e : Chan) (vs : List W32) (dead : Bool) : State :=
  let sent := vs.map fun x => sendWord (wordWidth s p) e.data x
  let s := s.count (PRT_CNT2_CLIP p) (sent.countP fun x => x.2)
  let tx := sent.zipIdx.foldl (fun t x => Tbl.put 0 t (128 * e.c + x.2) (BitVec.ofNat 32 x.1.1)) (s.port p).tx
  let v := s.mode p == mAes && (dead || !s.slotLive e.slot)
  s.setPort p { s.port p with tx := Tbl.put 0 tx (128 * e.c + 127) (BitVec.ofNat 32 (b2n v)) }

/-- A DIRECT transmit channel over the tick: the words of its slot, at the port's frame rate in domain `d`. -/
def sendDirect (s : State) (p d : Nat) (dead : Bool) (e : Chan) : State :=
  let s := noteSlotRead s 0x22 e.slot
  let ws := readSlot s e.slot
  let i0 := domIndex s.n d
  let r := fadeRun (s.port p).txFade ((List.range (domWords s.tlen d)).map fun (j : Nat) =>
    if dead ∨ ¬ inRun s p d (i0 + j) then 0 else (ws[j]?).getD 0)
  let out := channelFade (Tbl.get 0 (s.port p).fades e.c) r.1
  let s := putSent s p e (out.1.map (·.getD 0)) dead
  s.setPort p { s.port p with fades := Tbl.put 0 (s.port p).fades e.c out.2 }

/-- An ASRC transmit channel over the tick (R157, R178): the soft mute ramp works on the words of its slot, which the conversion
then takes. R176 does not state its arithmetic: each converted word is a free value, and a channel that has none sends zeros. -/
def sendAsrc (s : State) (p : Nat) (dead : Bool) (e : Chan) : State :=
  let s := noteSlotRead s 0x22 e.slot
  let ws := readSlot s e.slot
  let r := asrcWords (fun j s => (if dead then 0 else (ws[j]?).getD 0, s)) s p e.idx s.n s.tlen
  let words := r.2.map (·.getD 0)
  let s := r.1.setAsrc e.idx { r.1.asrcCh e.idx with words := words }
  let rate := txRate s p
  let f0 := frameAt s rate s.n
  let gone := fun f => ((s.port p).startN.any fun m => decide (f < frameAt s rate m)) ||
    ((s.port p).stopN.any fun m => decide (frameAt s rate m ≤ f))
  let none' := r.2.all (·.isNone)
  let bw := groupBw s p
  let r := (List.range (framesIn s rate s.n (s.n + s.tlen))).foldl (fun (a : List W32 × State) j =>
    if dead ∨ none' ∨ gone (f0 + j) then (a.1 ++ [0], a.2)
    else
      let x := a.2.draw (Config.asrcSent bw words)
      (a.1 ++ [x.1], x.2)) ([], s)
  putSent r.2 p e r.1 dead

/-- The channel-status block that a subframe sends: bytes 0 to 22 of PRT_CS_TX and their CRCC (R166). -/
def csTx (s : State) (p sub : Nat) : List Byte :=
  let bs := ((List.range 6).flatMap fun i => leBytes 4 (s.rd (PRT_CS_TX p sub i)).toNat).take 23
  bs ++ [BitVec.ofNat 8 (crcc bs)]

/-- The channel-status bits of the tick's AES3 frames, bit i of a block in its frame i. -/
def sendStatus (s : State) (p : Nat) : State :=
  if s.mode p ≠ mAes then s
  else
    let q := s.port p
    let n := framesIn s (txRate s p) s.n (s.n + s.tlen)
    let bitOf := fun sub j => bit (leNat (csTx s p sub)) ((q.csFrame + j) % 192)
    s.setPort p { q with
      csFrame := (q.csFrame + n) % 192, csBits := (List.range n).map fun (j : Nat) => (bitOf 0 j, bitOf 1 j) }

/-- What a port sends in the tick that begins at sample `s.n`: zeros in lead-in (R172), in the safe state (R394) and while n does not
count. -/
def portSend (s : State) (p : Nat) : State :=
  let s := sendStatus (s.setPort p { s.port p with tx := [] }) p
  let dead := decide (1 ≤ s.fget FLT_STATUS_STATE) || !s.nValid
  let tx := (chans s p).filter fun e => e.tx
  if s.pst p = stLeadin then s
  else
    let s := match rateDom s (txRate s p) with
      | none => s
      | some d =>
        let s := s.each (tx.filter fun (e : Chan) => e.path == 0) fun s e => sendDirect s p d dead e
        s.setPort p { s.port p with txFade := (fadeRun (s.port p).txFade (List.replicate (domWords s.tlen d) 0)).2 }
    s.each (tx.filter fun (e : Chan) => e.path == 1) fun s e => sendAsrc s p dead e

/-- The words of R159 that the collector's return to NORMAL fades in (R395). -/
def portsFadeIn (s : State) : State :=
  s.each ((List.range 48).filter fun p => s.pst p == stRun && (s.mode p == mTdm || s.mode p == mAes)) fun s p =>
    s.each ((chans s p).filter fun e => e.tx && e.path == 0) fun s e =>
      s.setPort p { s.port p with fades := Tbl.put 0 (s.port p).fades e.c 1 }

/-- Ports that are not OFF. -/
def livePorts (s : State) : List Nat := (List.range 48).filter fun p => s.pst p != stOff && s.mode p != mFlue

/-- The port work at a tick start: commits of the tick of length `tp` at sample `np`, the end of a stop, and the words to
send. -/
def portsTick (s : State) (np tp : Nat) : State :=
  s.each (livePorts s) fun s p =>
    let s := if s.pst p = stRun then
        asrcTick (commitChains (if s.mode p = mBit then s else commitRun s p np tp) p np tp) p np tp
      else if s.pst p = stLost then asrcTick (commitChains (commitLost s p tp) p np tp) p np tp
      else s
    s.when ((s.port p).stopN.any fun m => decide (m < s.n)) (portOff · p)

/-- The words that ports send, after the commands of the tick. -/
def portsSend (s : State) : State :=
  s.each ((livePorts s).filter fun p => s.pst p == stLeadin || s.pst p == stRun ||
    (s.pst p == stLost && s.mode p == mAes)) portSend

/-! ## Commands (R171 to R174) -/

def isPortStart (p : Nat) : HostOp → Bool
  | .portStart q => q.toNat == p
  | _ => false

/-- PORT_START when scheduled: its checks, and ARMED. -/
def schedPortStart (s : State) (p : Nat) : State × Result :=
  if 47 < p then (s, stInvalid 0)
  else if s.pst p ≠ stOff then (s, stConflict)
  else
    let why := portReject s p
    let s := s.fset (PRT_STATUS_REJECT p) (if why = 0 then s.fget (PRT_STATUS_REJECT p) else why)
    if why = 0 then (setPst s p stArmed, stOk) else (s, stInvalid why)

def effPortStart (s : State) (p nx : Nat) : State × Result := (enterRun s p nx, stOk)

/-- PORT_STOP when scheduled: the ramps of its ASRC receive channels (R179). -/
def schedPortStop (s : State) (p nx now : Nat) : State × Result :=
  if 47 < p then (s, stInvalid 0)
  else (s.when (s.mode p != mFlue) fun s =>
    s.each (asrcChans s p) fun s e => planRampDown s e.idx nx now aOff, stOk)

/-- PORT_STOP at its sample (R174). -/
def effPortStop (s : State) (p nx : Nat) : State × Result :=
  let st := s.pst p
  let noStart := fun s => abortHeld s fun x => x.sched && isPortStart p x.op
  if st = stOff ∨ s.mode p = mFlue then (s, stIdle)
  else if st = stArmed ∨ st = stLeadin then (portOff (noStart s) p, stOk)
  else (s.setPort p { s.port p with stopN := some nx }, stOk)

end Sys2Proof.Machine
end

