-- ==== Sys2Proof/Machine/Streams.lean ====
section
/-! DEFINITION. Machine/Streams.lean: stream descriptors (R256), the checks of STREAM_START (R251), packets sent (R242 to
R247) and received (R248 to R254), and the stream commands (R257). -/

namespace Sys2Proof.Machine

/-! ## Descriptors (Tables 9.5 and 9.6) -/

/-- A descriptor, receive or transmit; what only the other kind has is zero. -/
structure Desc where
  fmt : Nat
  dom : Nat
  ch : Nat
  p : Nat
  flags : Nat
  portA : Nat
  portB : Nat
  slot0 : Nat
  sid : Nat
  tsOfs : Nat
  vlan : Nat := 0
  linkOfs : Nat := 0
  jbLen : Nat := 0
  owner : Nat := 0
  dstA : List Byte := []
  srcA : List Byte := []
  udpA : Nat := 0
  dstB : List Byte := []
  srcB : List Byte := []
  udpB : Nat := 0
  hdrA : List Byte := []
  hdrB : List Byte := []
  hlenA : Nat := 0
  hlenB : Nat := 0
  zero : Bool := true
  deriving DecidableEq, Repr

def rxDescAddr (i : Nat) : Nat := netBase + 96 * i
def txDescAddr (i : Nat) : Nat := netBase + 0x18000 + 256 * i

def rxDesc (s : State) (i : Nat) : Desc :=
  let a := rxDescAddr i
  let f := fun o n => leNat (Memory.rdN s.mem (a + o) n)
  let b := fun o n => Memory.rdN s.mem (a + o) n
  { fmt := f 0 1, dom := f 1 1, ch := f 2 2, p := f 4 2, flags := f 6 1, portA := f 7 1 % 16, portB := f 7 1 / 16
    slot0 := f 8 2, vlan := f 10 2, linkOfs := f 12 4, jbLen := f 16 4, tsOfs := f 20 4, dstA := b 24 16, srcA := b 40 16
    udpA := f 56 2, sid := f 58 2, owner := f 60 1, dstB := b 64 16, srcB := b 80 12, udpB := f 92 2
    zero := f 61 3 == 0 && f 94 2 == 0 && decide (f 6 1 < 32) && (f 0 1 == 4 || f 60 1 == 0) &&
      (bit (f 6 1) 4 || (f 28 12 == 0 && f 44 12 == 0 && f 68 12 == 0 && f 84 8 == 0)) }

def txDesc (s : State) (i : Nat) : Desc :=
  let a := txDescAddr i
  let f := fun o n => leNat (Memory.rdN s.mem (a + o) n)
  { fmt := f 0 1, dom := f 1 1, ch := f 2 2, p := f 4 2, flags := f 6 1, portA := f 7 1 % 16, portB := f 7 1 / 16
    slot0 := f 8 2, sid := f 10 2, tsOfs := f 12 4, hlenA := f 16 1, hlenB := f 17 1
    hdrA := Memory.rdN s.mem (a + 32) (f 16 1), hdrB := Memory.rdN s.mem (a + 128) (f 17 1)
    zero := f 18 14 == 0 && f 224 32 == 0 && decide (f 6 1 < 16) }

/-- Flags: DATA, REPEAT, DUAL, SRC_FILT and IPV6 of a receive stream; DATA, DUAL, TWIN_SPLIT and IPV6 of a transmit one. -/
def Desc.data (d : Desc) : Bool := bit d.flags 0
def rxRepeat (d : Desc) : Bool := bit d.flags 1
def rxDual (d : Desc) : Bool := bit d.flags 2
def rxFilt (d : Desc) : Bool := bit d.flags 3
def rxV6 (d : Desc) : Bool := bit d.flags 4
def txDual (d : Desc) : Bool := bit d.flags 1
def txSplit (d : Desc) : Bool := bit d.flags 2
def txV6 (d : Desc) : Bool := bit d.flags 3

/-- Bits of a word on the wire (Table 9.3). -/
def Desc.dw (d : Desc) : Nat := if d.fmt = 1 then 24 else if d.fmt = 2 then 16 else 32
def Desc.rtp (d : Desc) : Bool := d.fmt == 1 || d.fmt == 2
/-- Payload after the RTP header, or after the EtherType. -/
def Desc.payload (d : Desc) : Nat :=
  if d.rtp then d.ch * d.p * (d.dw / 8) else 24 + 4 * ceilDiv d.ch 32 + 4 * d.ch * d.p

/-! ## Limits (R239, R241, R251) -/

def rtpSizes (dom : Nat) : List Nat := if dom = 0 then [6, 12, 16, 48, 192] else if dom = 1 then [12, 24, 32, 96, 384] else []
def nativeSizes (dom : Nat) : List Nat :=
  if dom = 0 then [1, 2, 4] else if dom = 1 then [2, 4, 8] else if dom = 2 then [4, 8, 16] else []

def formatFits (s : State) (d : Desc) : Bool :=
  d.zero &&
  (if d.rtp then (rtpSizes d.dom).contains d.p && decide (1 ≤ d.ch) && decide (d.ch ≤ 64)
   else if d.fmt = 3 then (nativeSizes d.dom).contains d.p && decide (1 ≤ d.ch) && decide (d.ch ≤ 256)
   else d.fmt == 4 && d.dom == 1 && d.p == s.tlen && decide (1 ≤ d.ch) && decide (d.ch ≤ 256)) &&
  decide (d.slot0 + d.ch ≤ 8192)

/-- A caravan's payload after the EtherType (R261). -/
def cvPayloadLen (s : State) : Nat := 24 + 4 * ceilDiv (s.fget NET_CV_SIZE_C) 32 + 4 * s.fget NET_CV_SIZE_C * s.tlen

/-- Frame lengths on path A and path B; a CARAVAN stream's is that of its ring's caravan. -/
def frameLen (s : State) (d : Desc) (tx pathB : Bool) : Nat :=
  let hdr := if tx then (if pathB then d.hlenB else d.hlenA)
    else (if d.vlan = 0xFFFF then 14 else 18) + (if d.rtp then (if rxV6 d then 40 else 20) + 20 else 0)
  hdr + (if d.fmt = 4 then cvPayloadLen s else d.payload) + 4

def dual (d : Desc) (tx : Bool) : Bool := if tx then txDual d else rxDual d
def pathPorts (d : Desc) (tx : Bool) : List (Nat × Bool) := (d.portA, false) :: (if dual d tx then [(d.portB, true)] else [])

def sizeFits (s : State) (d : Desc) (tx : Bool) : Bool :=
  (!tx || (decide (14 ≤ d.hlenA) && decide (d.hlenA ≤ 96) && (!txDual d || (decide (14 ≤ d.hlenB) && decide (d.hlenB ≤ 96))))) &&
  (pathPorts d tx).all fun e => decide (frameLen s d tx e.2 ≤ maxLen s e.1)

def portFits (s : State) (d : Desc) (tx : Bool) : Bool :=
  (pathPorts d tx).all fun e => decide (e.1 < 6) && netMode s e.1 != 0 && !s.on (NET_EEE_EN e.1) &&
    (d.fmt == 4 || !s.convoyPort e.1)

/-- Running or armed streams of a direction. -/
def busyRx (s : State) : List Nat := (s.rx.filter fun e => e.2.state != 0).map (·.1)
def busyTx (s : State) : List Nat := (s.tx.filter fun e => e.2.state != 0).map (·.1)

/-- Running streams of a direction. -/
def runningRx (s : State) : List Nat := (s.rx.filter fun e => e.2.state == 2).map (·.1)
def runningTx (s : State) : List Nat := (s.tx.filter fun e => e.2.state == 2).map (·.1)

def weight (d : Desc) : Nat := d.ch * 2 ^ d.dom

def loadOf (s : State) (tx : Bool) : Nat :=
  ((if tx then (busyTx s).map (txDesc s) else (busyRx s).map (rxDesc s)).map weight).sum
def poolOf (s : State) : Nat := ((busyRx s).map fun i => (rxDesc s i).ch * (rxDesc s i).jbLen).sum

/-- NET_POOL and NET_CH_LOAD (R241). -/
def showLoad (s : State) : State :=
  ((s.fset NET_POOL_USED (poolOf s)).fset NET_CH_LOAD_RX_W2 (loadOf s false)).fset NET_CH_LOAD_TX_W2 (loadOf s true)

def poolFits (s : State) (d : Desc) : Bool :=
  let ofs := if d.fmt = 4 then 0 else d.linkOfs
  let need := (ofs * 2 ^ d.dom + 2 * d.p + 1) / 2
  decide (1 ≤ d.p) && d.jbLen % d.p == 0 && decide (16 ≤ d.jbLen) && decide (d.jbLen ≤ 65536) &&
  decide (ceilDiv need d.p * d.p ≤ d.jbLen) && decide (poolOf s + d.ch * d.jbLen ≤ 2097152)

/-- Bits per second, times P, that a transmit stream puts on a port. -/
def lineLoad (s : State) (d : Desc) (port : Nat) : Nat :=
  if d.fmt = 4 ∨ d.p = 0 then 0
  else ((pathPorts d true).filter fun e => e.1 == port).foldl (fun a e =>
    a + (frameLen s d true e.2 + 20) * 8 * (fsM s * 2 ^ d.dom) / (2 * d.p)) 0

def loadFits (s : State) (d : Desc) : Bool :=
  (List.range 6).all fun p =>
    decide (10 * (lineLoad s d p + ((busyTx s).map fun i => lineLoad s (txDesc s i) p).sum) ≤ 9 * lineRate s p) ||
    lineLoad s d p == 0

/-- The match keys of a receive stream, one per path (R248). Path A compares all of an IPv6 source, path B its low 12 bytes. -/
def keysOf (d : Desc) : List (Nat × Nat × Nat × List Byte × Nat × List Byte) :=
  (pathPorts d false).map fun e =>
    if d.rtp then
      (1 + b2n (rxV6 d), e.1, d.vlan, if e.2 then d.dstB else d.dstA, if e.2 then d.udpB else d.udpA,
        if rxFilt d then (if e.2 then d.srcB else if rxV6 d then d.srcA else d.srcA.take 12) else [])
    else (d.fmt + 1, e.1, d.vlan, [], d.sid, [])

def keyFits (s : State) (i : Nat) (d : Desc) : Bool :=
  d.fmt == 4 || (busyRx s).all fun j => j == i || (rxDesc s j).fmt == 4 ||
    (keysOf d).all fun k => !(keysOf (rxDesc s j)).contains k

/-- The first reason of R251, or 0. -/
def streamReject (s : State) (tx : Bool) (i : Nat) : Nat :=
  let d := if tx then txDesc s i else rxDesc s i
  if ¬ formatFits s d then 1
  else if ¬ sizeFits s d tx then 2
  else if ¬ portFits s d tx then 3
  else if 8192 < loadOf s tx + weight d then 4
  else if ¬ tx ∧ ¬ poolFits s d then 5
  else if tx ∧ ¬ loadFits s d then 6
  else if ¬ tx ∧ ¬ keyFits s i d then 7
  else 0

/-! ## Start and stop (R251) -/

def State.stream (s : State) (tx : Bool) (i : Nat) : Stream := if tx then s.txs i else s.rxs i
def setStream (s : State) (tx : Bool) (i : Nat) (x : Stream) : State := if tx then s.setTxs i x else s.setRxs i x

def isStreamStart (tx : Bool) (i : Nat) : HostOp → Bool
  | .streamStart d n => (d == 1) == tx && n.toNat == i
  | _ => false

def schedStreamStart (s : State) (tx : Bool) (i : Nat) : State × Result :=
  if 1023 < i then (s, stInvalid 0)
  else if (s.stream tx i).state ≠ 0 then (s, stConflict)
  else
    let why := streamReject s tx i
    if why = 0 then (showLoad (setStream s tx i { s.stream tx i with state := 1 }), stOk)
    else (setStream s tx i { s.stream tx i with reason := why }, stInvalid why)

/-- The first multiple of P whose M index is `n` or later. -/
def firstPacket (n : Nat) (d : Desc) : Nat := ceilDiv (firstIndex n d.dom) (max 1 d.p) * max 1 d.p

/-- Twice the M index of a domain index (R249). -/
def twiceM (i : Int) (dom : Nat) : Int := 4 * i / 2 ^ dom

/-- The M index at which a receive stream presents the word of domain index `i`. -/
def presented (d : Desc) (i : Int) : Int := (twiceM i d.dom + 2 * d.linkOfs) / 2

/-- The indices that are presented in tick `k` (R249). -/
def presentedIn (s : State) (d : Desc) (k : Nat) : List Int :=
  let c := (k * s.tlen - d.linkOfs : Int) * 2 ^ d.dom
  (List.range (domWords s.tlen d.dom)).map fun (j : Nat) => (c + 1) / 2 + j

def effStreamStart (s : State) (tx : Bool) (i nx : Nat) : State × Result :=
  let x := s.stream tx i
  let d := if tx then txDesc s i else rxDesc s i
  (setStream s tx i { x with
    state := 2, startN := some nx, stopN := none, seq := 0, jb := [], tx := [], chans := [], nextI := firstPacket nx d
    dropA := false, dropB := false, peer := none }, stOk)

def schedStreamStop (i : Nat) : Result := if 1023 < i then stInvalid 0 else stOk

def streamOff (s : State) (tx : Bool) (i : Nat) : State :=
  showLoad (setStream s tx i { s.stream tx i with state := 0, startN := none, stopN := none, jb := [], tx := [], chans := [] })

/-- A receive stream presents no word from sample `nx` on: those of this tick, which were written before the stop was known, are
zeros (R251). -/
def unpresent (s : State) (i nx : Nat) : State :=
  let d := rxDesc s i
  let d := if d.fmt = 4 then { d with linkOfs := max 2 (s.fget NET_CV_CFG_LAT) * s.tlen } else d
  let js := (presentedIn s d s.k).zipIdx.filter fun e => decide ((nx : Int) ≤ presented d e.1)
  s.each (List.range d.ch) fun s c => s.when (s.fget (SCH_SLOT_CFG_PRODUCER (d.slot0 + c)) == 0x200 + i) fun s =>
    s.each js fun s e => storeBytes s (slotAddr s.rbuf (d.slot0 + c) e.2) (leBytes 4 0)

def effStreamStop (s : State) (tx : Bool) (i nx : Nat) : State × Result :=
  let x := s.stream tx i
  if x.state = 0 then (s, stIdle)
  else if x.state = 1 then (streamOff (abortHeld s fun h => h.sched && isStreamStart tx i h.op) tx i, stOk)
  else (setStream (s.when (!tx) (unpresent · i nx)) tx i { x with stopN := some (x.stopN.elim nx (min nx)) }, stOk)

/-! ## STREAM_WRITE and STREAM_STATS (R256, R257) -/

def applyStreamWrite (s : State) (tx : Bool) (i src : Nat) : State × Result :=
  let n := if tx then 256 else 96
  if 1023 < i then (s, stInvalid 0)
  else if (s.stream tx i).state ≠ 0 then (s, stConflict)
  else if s.hostBad src n then (hostFail s, stHostErr)
  else (storeBytes s (if tx then txDescAddr i else rxDescAddr i) (Memory.rdN s.hostMem src n), stOk)

/-- A status record (Table 9.7). -/
def statsRecord (x : Stream) (tx : Bool) : List Byte :=
  let w := fun v : W32 => leBytes 4 v.toNat
  [BitVec.ofNat 8 x.state, BitVec.ofNat 8 x.reason, 0, 0] ++ w x.pktsA ++ w x.pktsB ++ w x.dup ++ w x.late ++
  (if tx then leBytes 4 0 ++ leBytes 4 0 ++ leBytes 2 0 else w x.early ++ w x.missing ++ leBytes 2 x.margin.toNat) ++
  leBytes 2 x.clip.toNat

def clearCounts (x : Stream) : Stream :=
  { x with pktsA := 0, pktsB := 0, dup := 0, late := 0, early := 0, missing := 0, margin := 0xFFFF, clip := 0 }

def applyStreamStats (s : State) (tx clear : Bool) (first count dst : Nat) : State × Result :=
  if 1024 < first + count then (s, stInvalid 0)
  else if s.hostBad dst (32 * count) then (hostFail s, stHostErr)
  else
    let is := (List.range count).map (first + ·)
    let s := hostStore s dst (is.flatMap fun i => statsRecord (s.stream tx i) tx)
    (s.when clear fun s => s.each is fun s i => setStream s tx i (clearCounts (s.stream tx i)), stOk)

/-! ## Sending (R242 to R247, R394) -/

/-- A 32-bit count that holds at its highest value. -/
def up (v : W32) (d : Nat) : W32 := BitVec.ofNat 32 (min (v.toNat + d) (2 ^ 32 - 1))

/-- Read the slots of a running transmit stream at a tick start. -/
def txRead (s : State) (i : Nat) : State :=
  let d := txDesc s i
  let i0 := domIndex s.n d.dom
  let w := domWords s.tlen d.dom
  let s := s.each (List.range d.ch) fun s c => noteSlotRead s 0x21 (d.slot0 + c)
  let words := (List.range d.ch).flatMap fun c =>
    let ws := readSlot s (d.slot0 + c)
    let live := s.slotLive (d.slot0 + c)
    (List.range w).map fun (j : Nat) => (256 * (i0 + j) + c, (⟨live, (ws[j]?).getD 0, false⟩ : JbWord))
  let x := s.txs i
  let from' := if d.fmt = 4 then s.n - 8 * s.tlen else x.nextI
  s.setTxs i { x with tx := (x.tx.filter fun e => decide (256 * from' ≤ e.1)) ++ words }

/-- The words of samples [i, i + P), sample by sample, with each channel's LIVE bit. -/
def packetWords (x : Stream) (d : Desc) (i : Nat) : List (List JbWord) :=
  (List.range d.p).map fun (j : Nat) => (List.range d.ch).map fun (c : Nat) =>
    ((x.tx.find? fun e => e.1 == 256 * (i + j) + c).map (·.2)).getD ⟨false, 0, false⟩

def packetComplete (x : Stream) (d : Desc) (i : Nat) : Bool :=
  (List.range d.p).all fun j => x.tx.any fun e => e.1 == 256 * (i + j)

/-- The LIVE bitmap: bit 31 of the first word for channel 0 (R255). -/
def liveBitmap (ls : List Bool) : List Byte :=
  (List.range (ceilDiv ls.length 32)).flatMap fun k =>
    beBytes 4 ((((ls.drop (32 * k)).take 32).zipIdx.map fun e => if e.1 then 2 ^ (31 - e.2) else 0).sum)

/-- A packet's bytes on one path (R245, R255). -/
def packetBytes (d : Desc) (pathB : Bool) (i seq : Nat) (ws : List (List Nat)) (live : List Bool) : List Byte :=
  let hdr := if pathB then d.hdrB else d.hdrA
  let body := ws.flatMap fun f => f.flatMap fun v => beBytes (d.dw / 8) v
  if d.rtp then
    let e := ethOf hdr
    let ip := e.pl
    let v6 := txV6 d
    let udp := if v6 then ip + 40 else ip + 4 * (be hdr ip 1 % 16)
    let rtp := udp + 8
    let bs := hdr ++ body
    let bs := patch bs (rtp + 1) [BitVec.ofNat 8 (be bs (rtp + 1) 1 % 128)]
    let bs := patch bs (rtp + 2) (beBytes 2 (seq % 65536) ++ beBytes 4 ((i + d.tsOfs) % 2 ^ 32))
    let bs := patch bs (udp + 4) (beBytes 2 (bs.length - udp))
    let bs := if v6 then patch bs (ip + 4) (beBytes 2 (bs.length - udp))
      else
        let bs := patch bs (ip + 2) (beBytes 2 (bs.length - ip) ++ [0, 0])
        let bs := patch bs (ip + 10) [0, 0]
        patch bs (ip + 10) (beBytes 2 (ipChecksum ((bs.drop ip).take (udp - ip))))
    patch bs (udp + 6) (beBytes 2 (udpChecksum bs v6 ip udp))
  else
    let flags := b2n pathB + 2 * b2n d.data + 4 * d.dom
    hdr ++ [0x11, BitVec.ofNat 8 flags] ++ beBytes 2 d.sid ++ beBytes 8 i ++ beBytes 2 d.ch ++ beBytes 2 d.p ++
      beBytes 4 seq ++ leBytes 4 0 ++ liveBitmap live ++ body

/-- The paths that this chip sends (R244, R315): A and B, with the copies dropped late taken out. -/
def sendPaths (s : State) (d : Desc) (x : Stream) : List (Nat × Bool) :=
  let present := s.on TWN_CFG_EN && inStepPair s
  (pathPorts d true).filter fun e =>
    (if s.lead then !(present && txDual d && txSplit d && e.2) else present && txDual d && txSplit d && e.2) &&
    !(if e.2 then x.dropB else x.dropA)

/-- The packet at `nextI` leaves, and the next one is due after it. -/
def sendPacket (s : State) (i : Nat) : State :=
  let d := txDesc s i
  let x := s.txs i
  let safe := decide (1 ≤ s.fget FLT_STATUS_STATE)
  let ws := packetWords x d x.nextI
  let conv := ws.map fun f => f.map fun w => sendWord d.dw d.data (if safe || !w.live then 0 else w.word)
  let live := (List.range d.ch).map fun (c : Nat) => !safe && ws.all fun f => ((f[c]?).map (·.live)).getD false
  let clips := (conv.map fun f => f.countP (·.2)).sum
  let kind := if d.rtp then 10 else 11
  let s := s.each (sendPaths s d x) fun s e =>
    let y := s.txs i
    let s := s.setTxs i (if s.link e.1 then
        (if e.2 then { y with pktsB := up y.pktsB 1 } else { y with pktsA := up y.pktsA 1 })
      else { y with late := up y.late 1 })
    sendFrame s e.1 kind (packetBytes d e.2 x.nextI x.seq (conv.map fun f => f.map (·.1)) live)
  let y := s.txs i
  s.setTxs i { y with
    nextI := x.nextI + d.p, seq := x.seq + 1, dropA := false, dropB := false
    clip := BitVec.ofNat 16 (min (y.clip.toNat + clips) 0xFFFF)
    tx := y.tx.filter fun e => decide (256 * (x.nextI + d.p) ≤ e.1) }

/-- Every sample of the packet at `nextI` lies before the stop (R251). -/
def beforeStop (x : Stream) (d : Desc) : Bool :=
  match x.stopN with
  | some m => decide (x.nextI + d.p ≤ firstIndex m d.dom)
  | none => true

/-- A running stream that sends packets has a complete one, which it may send. -/
def packetReady (s : State) (i : Nat) : Bool :=
  let d := txDesc s i
  let x := s.txs i
  x.state == 2 && d.fmt != 4 && decide (1 ≤ d.p) && packetComplete x d x.nextI && beforeStop x d

/-- The due instant of a stream's next packet in FCLK counts: domain index i + P begins (R243). -/
def dueAt (s : State) (i : Nat) : Nat := 2048 * (twiceM ((s.txs i).nextI + (txDesc s i).p : Nat) (txDesc s i).dom).toNat

/-- The packet has not started within T M samples after its due instant (R247). -/
def pastDue (s : State) (i : Nat) : Bool := decide (dueAt s i + 4096 * s.tlen < fclkNow s)

/-- A copy of the next packet is discarded; a packet without any copy left is over (R247). -/
def dropCopy (s : State) (i : Nat) (pathB : Bool) : State :=
  let d := txDesc s i
  let x := s.txs i
  let y := { x with dup := up x.dup 1, dropA := x.dropA || !pathB, dropB := x.dropB || pathB }
  let s := addStat s (if pathB then d.portB else d.portA) false 24 1
  let gone := (pathPorts d true).all fun e => if e.2 then y.dropB else y.dropA
  s.setTxs i (if gone then { y with nextI := x.nextI + d.p, seq := x.seq + 1, dropA := false, dropB := false } else y)

/-- The next packet leaves, or what is left of it is discarded. -/
def leave (s : State) (i : Nat) : State :=
  if pastDue s i then s.each (sendPaths s (txDesc s i) (s.txs i)) fun s e => dropCopy s i e.2 else sendPacket s i

/-- The streams of lower number whose packets are due at the same instant on a port that stream `i` uses: they leave first. -/
def aheadOf (s : State) (i : Nat) : List Nat :=
  let ports := fun i => (pathPorts (txDesc s i) true).map (·.1)
  (runningTx s).filter fun j => decide (j < i) && packetReady s j && dueAt s j == dueAt s i && (ports j).any (ports i).contains

/-- PACKET_DUE: a packet that is complete leaves at its due instant (R243). -/
def execPacketDue (stream c phase : Nat) (s : State) : Host.Outcome State Fault Refusal :=
  let s' := advance s c
  done (decide (stream < 1024) && decide (c < 2 ^ 64) && decide (phase < 2 ^ 17))
    (s'.when (packetReady s' stream && s'.reached (dueAt s' stream)) fun s => s.each (aheadOf s stream ++ [stream]) leave)

/-- LATE_DROP: a copy that has not started to leave in time is discarded (R247). -/
def execLateDrop (stream : Nat) (pathB : Bool) (s : State) : Host.Outcome State Fault Refusal :=
  done (decide (stream < 1024))
    (s.when (packetReady s stream && pastDue s stream && (sendPaths s (txDesc s stream) (s.txs stream)).any fun e => e.2 == pathB)
      (dropCopy · stream pathB))

/-! ## Receiving (R248 to R250) -/

/-- Path of a stream that a frame matches: none, A (false) or B (true). -/
def matchPath (s : State) (p : Nat) (e : Eth) (bs : List Byte) (i : Nat) : Option Bool :=
  let d := rxDesc s i
  let vlan := e.vlan.getD 0xFFFF == d.vlan
  let net := fun (pathB : Bool) =>
    if d.rtp then
      match udpOf e bs with
      | none => false
      | some (v6, ip, udp) =>
        let dst := if pathB then d.dstB else d.dstA
        let src := if pathB then d.srcB else d.srcA
        let n := if v6 then 16 else 4
        let fdst := (bs.drop (if v6 then ip + 24 else ip + 16)).take n
        let fsrc := (bs.drop (if v6 then ip + 8 else ip + 12)).take n
        v6 == rxV6 d && fdst == dst.take n && be bs (udp + 2) 2 == (if pathB then d.udpB else d.udpA) &&
        (!rxFilt d || (if v6 && pathB then fsrc.drop 4 == src else fsrc == src.take n))
    else d.fmt == 3 && e.type == 0x88B5 && be bs e.pl 1 % 16 == 1 && be bs (e.pl + 2) 2 == d.sid
  if (s.rxs i).state ≠ 2 ∨ ¬ vlan then none
  else if p = d.portA ∧ net false then some false
  else if p = d.portB ∧ rxDual d ∧ net true then some true
  else none

/-- The running receive stream that a frame belongs to. -/
def matchStream (s : State) (p : Nat) (e : Eth) (bs : List Byte) : Option (Nat × Bool) :=
  (s.rx.map (·.1)).findSome? fun i => (matchPath s p e bs i).map fun b => (i, b)

/-- The words of a packet, with the index of its first sample; none where its form differs from the descriptor's. -/
def parsePacket (s : State) (d : Desc) (e : Eth) (bs : List Byte) : Option (Int × List (List JbWord)) :=
  let words := fun (o : Nat) (live : Nat → Bool) (pathB : Bool) =>
    (List.range d.p).map fun (j : Nat) => (List.range d.ch).map fun (c : Nat) =>
      (⟨live c, BitVec.ofNat 32 (be bs (o + (j * d.ch + c) * (d.dw / 8)) (d.dw / 8) * 2 ^ (32 - d.dw)), pathB⟩ : JbWord)
  if d.rtp then
    match udpOf e bs with
    | none => none
    | some (_, _, udp) =>
      let rtp := udp + 8
      let o := rtp + 12 + 4 * (be bs rtp 1 % 16)
      let c := ((s.k + 1) * s.tlen - d.linkOfs : Int) * 2 ^ d.dom / 2
      let ts : Int := be bs (rtp + 4) 4
      let i := c + sgn 32 (uns 32 (ts - d.tsOfs - c))
      if be bs (udp + 4) 2 = o - udp + d.payload ∧ udp + be bs (udp + 4) 2 ≤ bs.length then
        some (i, words o (fun _ => true) false)
      else none
  else
    let o := e.pl
    let bm := o + 24
    let data := bm + 4 * ceilDiv d.ch 32
    let ok := be bs o 1 == 0x11 && bits (be bs (o + 1) 1) 4 4 == 0 && bits (be bs (o + 1) 1) 2 2 == d.dom &&
      be bs (o + 12) 2 == d.ch && be bs (o + 14) 2 == d.p && be bs (o + 20) 4 == 0 && bs.length == max (o + d.payload) 60
    if ok then
      some (be bs (o + 4) 8, words data (fun c => bit (be bs (bm + 4 * (c / 32)) 4) (31 - c % 32)) false)
    else none

/-- Place the words of an on-time packet (R250); `sub` is the arrival in sixteenths of an M sample from the tick start. -/
def placePacket (s : State) (i : Nat) (pathB : Bool) (i0 : Int) (ws : List (List JbWord)) (sub : Nat) : State :=
  let d := rxDesc s i
  let x := s.rxs i
  let t : Int := s.tlen
  let k1 : Int := (s.k + 1) * t
  let take := 16 * (presented d i0 / t * t - 1)
  let now : Int := 16 * s.n + sub
  let lastP := twiceM (i0 + d.p - 1) d.dom + 2 * d.linkOfs
  let keys := (List.range d.p).map fun (j : Nat) => (i0 + j).toNat
  if i0 < 0 ∨ take < now then s.setRxs i { x with late := up x.late 1 }
  else if 2 * k1 + 4 * d.jbLen / 2 ^ d.dom ≤ lastP then s.setRxs i { x with early := up x.early 1 }
  else if keys.all fun n => x.jb.any fun e => e.1 == 256 * n then s.setRxs i { x with dup := up x.dup 1 }
  else
    let new := ws.zipIdx.flatMap fun f => f.1.zipIdx.map fun e => (256 * (i0.toNat + f.2) + e.2, { e.1 with pathB := pathB })
    let new := new.filter fun e => !x.jb.any fun o => o.1 == e.1
    let x := { x with jb := x.jb ++ new, margin := BitVec.ofNat 16 (min x.margin.toNat (take - now).toNat) }
    s.setRxs i (if pathB then { x with pktsB := up x.pktsB 1 } else { x with pktsA := up x.pktsA 1 })

/-- A frame that a receive stream takes. -/
def takeStream (s : State) (p i : Nat) (pathB : Bool) (e : Eth) (bs : List Byte) (sub : Nat) : State :=
  let d := rxDesc s i
  match parsePacket s d e bs with
  | none => addStat s p true 33 1
  | some (i0, ws) => placePacket (addStat s p true (if d.rtp then 10 else 11) 1) i pathB i0 ws sub

/-- VLAN rule (R236). -/
def vlanOk (s : State) (p : Nat) (e : Eth) : Bool :=
  match e.vlan with
  | none => s.on (NET_VLAN_UNTAG_OK p)
  | some v => v == s.fget (NET_VLAN_PVID p) || (busyRx s).any fun i => (rxDesc s i).vlan == v

/-- FRAME_RECEIVED (R232 to R236, R261). -/
def frameIn (s : State) (p : Nat) (bs : List Byte) (line : LineErr) (c phase sub : Nat) : State :=
  if ¬ s.link p ∨ s.pwr.nets.contains p then s
  else
    let l := lineChecks s p line
    let r := if l.2 then macChecks l.1 p bs line.fcsOk else (l.1, false)
    if ¬ r.2 then r.1
    else
      let s := r.1
      let e := ethOf bs
      if flowControl e bs then addStat s p true 7 1
      else if s.convoyPort p ∧ (e.sa = portMac s 4 ∨ e.sa = portMac s 5) then s
      else if ¬ addressed s p e then
        (if ¬ s.convoyPort p ∨ 1522 < bs.length + 4 then addStat s p true 14 1
         else match ptpOf e bs with
           | some o => forwardPtp s p o c phase bs
           | none => sendFrame s (ringOther p) 14 bs)
      else if ¬ vlanOk s p e then addStat s p true 14 1
      else match ptpOf e bs with
        | some o => takePtp s p o c phase bs
        | none => match matchStream s p e bs with
          | some (i, pathB) => takeStream s p i pathB e bs sub
          | none =>
            if mgmtFrame e bs then toManagement s p c e bs else addStat s p true 14 1

def execFrameReceived (port : Nat) (bytes : List Byte) (line : LineErr) (c phase sub : Nat) (s : State) :
    Host.Outcome State Fault Refusal :=
  done (decide (port < 6) && decide (c < 2 ^ 64) && decide (phase < 2 ^ 17) && decide (sub < 2 ^ 16))
    (frameIn (advance s c) port bytes line c phase sub)

/-! ## Concealment and the take point (R249, R252, R253, R321) -/

/-- One word of a channel: received, or none where it is missing. The word written, and whether it counts for R253. -/
def concealWord (d : Desc) (k : Conceal) (pos : Nat) (w : Option JbWord) : Conceal × W32 × Bool :=
  let k := if pos = 0 then { k with prev := k.cur, prevMissed := k.curMissed, cur := [], curMissed := false } else k
  match w with
  | some w =>
    if d.data then ({ k with last := w.word, cur := k.cur ++ [w.word] }, w.word, w.live)
    else if k.fadeIn < 32 then
      let y := BitVec.ofInt 32 (fadeWord w.word.toInt k.fadeIn true)
      ({ k with last := y, miss := 0, fadeIn := k.fadeIn + 1, cur := k.cur ++ [w.word] }, y, true)
    else ({ k with last := w.word, miss := 0, cur := k.cur ++ [w.word] }, w.word, w.live)
  | none =>
    let k := { k with curMissed := true }
    if d.data then ({ k with cur := k.cur ++ [0] }, 0, false)
    else
      match (if rxRepeat d && !k.prevMissed then k.prev[pos]? else none) with
      | some y => ({ k with last := y, miss := 0, cur := k.cur ++ [y] }, y, y != 0)
      | none =>
        let y := if k.miss < 32 then BitVec.ofInt 32 (fadeWord k.last.toInt k.miss false) else 0
        ({ k with miss := min 32 (k.miss + 1), fadeIn := 0, cur := k.cur ++ [y] }, y, y != 0)

/-- The word of index `i` and channel `c` that a stream holds. -/
abbrev Source := Nat → Nat → Option JbWord

/-- The words of one channel over a tick: those before the start or after the stop are zero and no missing word. -/
def channelRun (d : Desc) (x : Stream) (k : Conceal) (c : Nat) (idx : List Int) (src : Source) : Conceal × List W32 × Bool :=
  idx.foldl (fun (a : Conceal × List W32 × Bool) i =>
    let np := presented d i
    let out := (x.startN.any fun m => decide (np < m)) || (x.stopN.any fun m => decide ((m : Int) ≤ np))
    if out then (a.1, a.2.1 ++ [0], a.2.2)
    else
      let w := if i < 0 then none else src i.toNat c
      let r := concealWord d a.1 (i % max 1 d.p).toNat w
      (r.1, a.2.1 ++ [r.2.1], a.2.2 || r.2.2)) (k, [], false)

/-- Write a tick of a receive stream from what it holds, `idx` the domain indices presented in the next tick. -/
def writeStream (s : State) (i : Nat) (d : Desc) (idx : List Int) (src : Source) : State :=
  let s := s.each (List.range d.ch) fun s c =>
    let x := s.rxs i
    let r := channelRun d x (Tbl.get {} x.chans c) c idx src
    let s := s.setRxs i { x with chans := Tbl.put {} x.chans c r.1 }
    s.when r.2.2 fun s => writeSlotAll s (0x200 + i) (d.slot0 + c) r.2.1
  let x := s.rxs i
  let miss := idx.countP fun (n : Int) => n % max 1 d.p == 0 && (decide (n < 0) || (src n.toNat 0).isNone) &&
    !(x.startN.any fun m => decide (presented d n < m)) && !(x.stopN.any fun m => decide ((m : Int) ≤ presented d n))
  s.setRxs i { x with missing := up x.missing miss }

/-- What a joined pair places: the packets that both chips hold, or this chip's own where no record came (R321). -/
def arriveCut (s : State) (x : Stream) (d : Desc) (idx : List Int) : State × Stream :=
  if ¬ s.defers then (s, x)
  else
    let firsts := (idx.filter fun (n : Int) => decide (0 ≤ n)).map fun (n : Int) => n.toNat / max 1 d.p * max 1 d.p
    match x.peer with
    | none => (s.count TWN_CNT1_LATE_REC 1, x)
    | some l =>
      let own := firsts.eraseDups.filter fun n => x.jb.any fun e => e.1 == 256 * n
      let lost := own.filter fun n => !l.contains n
      let jb := x.jb.filter fun e => !lost.contains (e.1 / 256 / max 1 d.p * max 1 d.p)
      (s.count TWN_CNT1_ARR_MISS lost.length, { x with jb := jb, peer := none })

def takePoint (s : State) (i : Nat) : State :=
  let d := rxDesc s i
  let idx := presentedIn s d (s.k + 1)
  let (s, x) := arriveCut s (s.rxs i) d idx
  let s := s.setRxs i x
  let s := writeStream s i d idx fun n c => (x.jb.find? fun e => e.1 == 256 * n + c).map (·.2)
  let y := s.rxs i
  let upto := (idx.getLastD 0 + 1).toNat
  s.setRxs i { y with jb := y.jb.filter fun e => decide (256 * upto ≤ e.1) }

/-- The tick start's part of the streams: what transmit streams read, and the end of a stop. -/
def streamsTick (s : State) : State :=
  let s := s.each ((s.tx.filter fun e => e.2.state == 2).map (·.1)) fun s i =>
    if (s.txs i).stopN.any fun m => decide (m < s.n) then streamOff s true i else txRead s i
  s.each ((s.rx.filter fun e => e.2.state == 2).map (·.1)) fun s i =>
    s.when ((s.rxs i).stopN.any fun m => decide (m ≤ s.n)) (streamOff · false i)

end Sys2Proof.Machine
end

