-- ==== Sys2Proof/Machine/Debug.lean ====
section
/-! DEFINITION. Machine/Debug.lean: events of a core (R62 to R66), loop-back (R95), halts and steps (R70, R73, R441) and the
zeroing of a cluster (R44). -/

namespace Sys2Proof.Machine

/-! ## Pair and permissions -/

/-- The pair becomes DETACHED for a reason of TWN_STATUS.WHY; a SHADOW drives nothing any more (Table 12.2). -/
def detachPair (s : State) (why : Nat) : State :=
  let s := s.fset TWN_STATUS_PAIR 5
  let s := s.fset TWN_STATUS_WHY why
  let s := s.fset TWN_STATUS_PRESENT 0
  { s with twin := { s.twin with handover := none, driving := false } }

def debugLevel (s : State) : Nat := s.fget SEC_DBG_STATUS_LEVEL
def powerState (s : State) : Nat := s.fget CLK_PWR_STATUS_STATE

/-- Table 18.7 for a halt of a core: D2, in RUN, and no core of a HEARTH cluster in a LEAD. -/
def haltAllowed (s : State) (cl : Nat) : Bool :=
  decide (2 ≤ debugLevel s) && powerState s == 0 && (s.role cl != roleHearth || !s.lead)

/-- What an accepted halt does first: a SHADOW's pair is DETACHED (DEBUG); an ember leaves shadowing or test, and a staged
image is dropped. -/
def leaveForHalt (s : State) (cl : Nat) : State :=
  if s.role cl = roleHearth then detachPair s 3
  else if s.role cl = roleStaging then dropStaged s (s.fget (HRT_IMG_STATE_LH cl)) cl
  else
    let s := leaveShadow s cl
    embStatus (s.fset (EMB_MAP_ROLE cl) roleEmber)

/-! ## Points between bundles (R64) -/

/-- Whether an event or a halt can be taken before the next bundle. -/
def atBreak (c : Core) : Bool :=
  c.turns == [] && (match c.loops.reverse with
    | [] => true
    | l :: outer => l.irep && (outer.all fun o => o.irep) && c.pc == BitVec.ofNat 12 l.start && !l.first && l.issued == 0)

/-- Lines that can be taken (R64): pending and enabled, with IE set and IH clear. -/
def enabledLines (c : Core) : BitVec 16 :=
  if c.st.getLsbD 6 ∧ ¬ c.st.getLsbD 7 then c.events &&& c.st.extractLsb' 16 16 else 0

/-- The line with the lowest number (R65). -/
def firstLine (l : BitVec 16) : Option Nat := (List.range 16).find? fun e => l.getLsbD e

/-- Taking event `e` before the bundle at `b` (R66). -/
def takeEvent (s : State) (cl j e b : Nat) : State :=
  let s := drain s cl j
  let c := s.core cl j
  let st := BitVec.ofNat 32 (putBits (putBits c.st.toNat 6 1 0) 7 1 1)
  let s := s.setCore cl j { c with
    epc := BitVec.ofNat 12 b, est := c.st, st := st, shLoops := c.loops, shLc0 := c.lc0, shLc1 := c.lc1, loops := []
    pc := BitVec.ofNat 12 (4 * e), events := c.events &&& ~~~(1#16 <<< e) }
  setCoreState s cl j 2

/-- A core takes the event that it can take now. -/
def eventTaken (s : State) (cl j : Nat) : State :=
  let c := (s.core cl j).loopBack
  let s := s.setCore cl j c
  let st := s.coreState cl j
  if c.haltReq then s
  else if st = 2 then
    match firstLine (enabledLines c) with
    | some e => if atBreak c then takeEvent s cl j e c.pc.toNat else s
    | none => s
  else if st = 3 then
    match firstLine (enabledLines c &&& ~~~c.waitMask) with
    | some e => if c.waitSlot then s else takeEvent s cl j e c.waitPc.toNat
    | none => s
  else s

def execEventTaken (cl core : Nat) (s : State) : Host.Outcome State Fault Refusal :=
  done (coreOk cl core) (eventTaken s cl core)

def execRepLoopBack (cl core : Nat) (s : State) : Host.Outcome State Fault Refusal :=
  done (coreOk cl core) (s.setCore cl core (s.core cl core).loopBack)

/-! ## Halts (R70, R73) -/

/-- A write of HRT_CORE_CTRL.HALT. -/
def haltRequest (s : State) (cl j : Nat) : State :=
  if s.pwr.clusters.contains cl then s
  else if haltAllowed s cl then
    let s := leaveForHalt s cl
    let s := raiseLine s cl j 1
    s.setCore cl j { (s.core cl j) with haltReq := true }
  else raise (s.fset (HRT_CORE_STATUS_HALT_REFUSED cl j) 1) (srcOf 60 1) (plain 0 j 0 0)

def execHalt (cl core : Nat) (s : State) : Host.Outcome State Fault Refusal :=
  done (coreOk cl core) (haltRequest s cl core)

/-- An accepted halt takes effect where an event could be taken. -/
def haltAccepted (s : State) (cl j : Nat) : State :=
  let c := (s.core cl j).loopBack
  let st := s.coreState cl j
  if ¬ c.haltReq ∨ st = 0 ∨ 4 ≤ st then s
  else if (st = 2 ∧ ¬ atBreak c) ∨ (st = 3 ∧ c.waitSlot) then s
  else
    let s := settleFlights (s.setCore cl j c) cl j
    setCoreState (s.setCore cl j { (s.core cl j) with haltReq := false, heldState := st }) cl j 4

def execHaltAccepted (cl core : Nat) (s : State) : Host.Outcome State Fault Refusal :=
  done (coreOk cl core) (haltAccepted s cl core)

/-- A write of HRT_CORE_CTRL.RESUME. A core that goes back to WAIT with a line of its mask pending goes on. -/
def resume (s : State) (cl j : Nat) : State :=
  let c := s.core cl j
  let st := s.coreState cl j
  if st = 4 then
    if c.heldState = 3 ∧ c.events &&& c.waitMask ≠ 0 then
      setCoreState (s.setCore cl j { c with events := c.events &&& ~~~c.waitMask }) cl j 2
    else setCoreState s cl j c.heldState
  else if st = 5 ∧ s.on (HRT_CORE_CTRL_HALT_ON_EXC cl j) then
    setCoreState (s.setCore cl j { c with task := none }) cl j 1
  else s

def execResume (cl core : Nat) (s : State) : Host.Outcome State Fault Refusal :=
  done (coreOk cl core) (resume s cl core)

/-- A write of HRT_CORE_CTRL.STEP: a HALTED core with a task in RUN issues one bundle and stays HALTED, unless the bundle
raises an exception; its rounded stores complete (R71). No event is taken before the bundle: events wait for RESUME (DESIGN
CHOICE, log entry 30). In QUIET the clusters have no clock (Table 17.7). -/
def stepCore (s : State) (cl j : Nat) : State :=
  if s.coreState cl j ≠ 4 ∨ (s.core cl j).heldState ≠ 2 ∨ powerState s = 1 then s
  else
    let s := issueFetched s cl j
    let st := s.coreState cl j
    if st = 5 then s
    else
      let s := settleFlights s cl j
      if st = 4 then setCoreState s cl j 4
      else setCoreState (s.setCore cl j { (s.core cl j) with heldState := st }) cl j 4

def execStep (cl core : Nat) (s : State) : Host.Outcome State Fault Refusal :=
  done (coreOk cl core) (stepCore s cl core)

/-! ## Zeroing (R44) -/

/-- The memories of a cluster that has left reset are zero, and its cores leave RESET. -/
def memInit (s : State) (cl : Nat) : State :=
  if ¬ s.pwr.zeroing.contains cl then s
  else
    zeroDone (zeroCluster s cl) cl

def execMemInit (cl : Nat) (s : State) : Host.Outcome State Fault Refusal :=
  done (clusterOk cl) (memInit s cl)

end Sys2Proof.Machine
end

