-- ==== Sys2Proof/Machine/Flues.lean ====
section
/-! DEFINITION. Machine/Flues.lean: the flue channels (08): the loop engine (R205), the modulator (R207 to R209), the states
of Table 8.6, the rail limiter (R218, R219), the protection (R220 to R227) and the flue commands. -/

namespace Sys2Proof.Machine

/-! ## Settings and states -/

def fOff : Nat := 0
def fArmed : Nat := 1
def fRampUp : Nat := 2
def fRun : Nat := 3
def fRampDown : Nat := 4
def fStopping : Nat := 5
def fWait : Nat := 6
def fLatched : Nat := 7

def causeDisable : Nat := 1
def causeTripRate : Nat := 2
def causeDc : Nat := 3
def causeSense : Nat := 4
def causeSafe : Nat := 5

def State.fst (s : State) (p : Nat) : Nat := s.fget (FL_STATUS_STATE p)
def setFst (s : State) (p st : Nat) : State :=
  (s.fset (FL_STATUS_STATE p) st).setFlue p { s.flue p with periods := 0 }
def driving (st : Nat) : Bool := st == fRampUp || st == fRun || st == fRampDown
def setFlueCause (s : State) (p c : Nat) : State := s.fset (FL_STATUS_CAUSE p) c

/-- PER in FCLK periods, P8 in eighths, f_sw in Hz and Q (R200, R213). -/
def per (s : State) (p : Nat) : Nat := match s.fget (FL_CFG_PER p) with
  | 0 => 1024
  | 1 => 768
  | _ => 512
def p8 (s : State) (p : Nat) : Nat := 8 * per s p
def fsw (s : State) (p : Nat) : Nat := 4096 * fsM s / per s p
def rampQ (s : State) (p : Nat) : Nat := s.fget (FL_CFG_RAMP p) * fsw s p / 1000

/-- Sources TRIPRATE 0 and LATCH 1 of a flue (Table 16.1). -/
def flueSrc (p o : Nat) : Nat := srcOf (42 + p / 8) (2 * (p % 8) + o)

/-- In a joined SHADOW the protection state follows the LEAD's records (R228). -/
def flueFollows (s : State) : Bool := s.defers && !s.lead

/-! ## Transitions -/

def isFlueEnable (p : Nat) : HostOp → Bool
  | .flueEnable f => f.toNat == p
  | _ => false
def isFlueDisable (p : Nat) : HostOp → Bool
  | .flueDisable f => f.toNat == p
  | _ => false

def enterRampUp (s : State) (p : Nat) : State :=
  let s := setFst s p fRampUp
  s.setFlue p { s.flue p with onN := none, sec1 := {}, sec2 := {}, d := 0, rampFrom := 0, stuck := false }

/-- RAMP_UP ends (R205, R206, R208, R223). -/
def enterFlueRun (s : State) (p : Nat) : State :=
  let s := setFst s p fRun
  s.setFlue p { s.flue p with
    sec1 := {}, sec2 := {}, d := 0, j := 0, epsA := 0, epsB := 0, dcSum := 0, dcN := 0, dcCount := 0, runPeriods := 0 }

/-- STOPPING, with the state that follows it. -/
def enterStopping (s : State) (p after cause : Nat) : State :=
  let s := setFlueCause (setFst s p fStopping) p cause
  s.setFlue p { s.flue p with afterStop := after, d := 0, sec1 := {}, sec2 := {}, offN := none, stuck := false }

/-- FLUE_DISABLE at its boundary (R213, R214): from RUN, or from RAMP_UP at the width of its last period. -/
def enterRampDown (s : State) (p : Nat) : State :=
  let from' := if s.fst p = fRun then 0 else rampQ s p - ((s.flue p).periods - 1)
  let s := setFst s p fRampDown
  s.setFlue p { s.flue p with rampFrom := from', offN := none, d := 0, sec1 := {}, sec2 := {} }

/-- The all-off states keep no history (R201). -/
def flueRest (s : State) (p st : Nat) : State :=
  let s := setFst s p st
  s.setFlue p { s.flue p with onN := none, offN := none, hist := [], refs := [], d := 0, stuck := false }

def clearWindow (s : State) (p : Nat) : State :=
  (s.setFlue p { s.flue p with window := 0, tripped := none }).fset (FL_STATUS_TRIP_RATE p) 0

/-- Trip-rate shutdown (R221, R222, R225, R226). -/
def shutdown (s : State) (p : Nat) : State :=
  let wasDown := s.fst p == fRampDown
  let s := clearWindow (s.count (FL_EVT_CNT_SHUT p) 1) p
  let s := raise s (flueSrc p 0) (plain causeTripRate 0 0 0)
  let r := s.fget (FL_STATUS_RETRIES p)
  if wasDown then flueRest (setFlueCause s p causeDisable) p fOff
  else
    let s := setFlueCause s p causeTripRate
    if r = s.fget (FL_PROT_N_RETRY p) then raise (flueRest s p fLatched) (flueSrc p 1) (plain causeTripRate 0 0 0)
    else
      let n := min ((s.fget (FL_PROT_RETRY_M1 p) + 1) * 2 ^ r) 32 * fsw s p / 10
      let s := setFst s p fWait
      s.setFlue p { s.flue p with waitLeft := n, d := 0 }

/-- A retry after WAIT (R222). -/
def retry (s : State) (p : Nat) : State :=
  enterRampUp (s.fset (FL_STATUS_RETRIES p) (s.fget (FL_STATUS_RETRIES p) + 1)) p

/-- A DC or sense fault (R223 to R225). -/
def loadFault (s : State) (p cause : Nat) : State :=
  enterStopping (raise s (flueSrc p 1) (plain cause 0 0 0)) p fLatched cause

/-- Safe state (R227). A flue in STOPPING goes on to the state it is bound for. -/
def flueSafe (s : State) (p : Nat) : State :=
  let st := s.fst p
  if driving st then enterStopping s p fOff causeSafe
  else if st = fArmed ∨ st = fWait then flueRest s p fOff
  else s

/-- The flue after a reset of its port: OFF, with nothing remembered. -/
def flueOff (s : State) (p : Nat) : State := (s.fset (FL_STATUS_STATE p) fOff).setFlue p {}

/-! ## Events of the states -/

def ones (w : Nat) : Nat := (List.range 64).countP fun i => bit w i

def shutdownDue (s : State) (p : Nat) : Bool :=
  driving (s.fst p) && decide (s.fget (FL_PROT_T1 p) ≤ ones (s.flue p).window.toNat) && !flueFollows s
def senseDue (s : State) (p : Nat) : Bool :=
  driving (s.fst p) && ((s.flue p).stuck || decide (4096 ≤ (s.flue p).runE) || decide (4096 ≤ (s.flue p).runF)) && !flueFollows s
def retryDue (s : State) (p : Nat) : Bool := s.fst p == fWait && (s.flue p).waitLeft == 0 && !flueFollows s
def successDue (s : State) (p : Nat) : Bool :=
  s.fst p == fRun && decide (2 * fsw s p ≤ (s.flue p).runPeriods) && !flueFollows s
def rampUpDue (s : State) (p : Nat) : Bool := s.fst p == fRampUp && decide (rampQ s p ≤ (s.flue p).periods)
def rampDownDue (s : State) (p : Nat) : Bool :=
  s.fst p == fRampDown && decide (rampQ s p ≤ (s.flue p).rampFrom + (s.flue p).periods)
def stoppingDue (s : State) (p : Nat) : Bool := s.fst p == fStopping && decide (2 ≤ (s.flue p).periods)

def rampUpEnd (s : State) (p : Nat) : State := s.when (rampUpDue s p) (enterFlueRun · p)
def rampDownEnd (s : State) (p : Nat) : State := s.when (rampDownDue s p) (enterStopping · p fOff causeDisable)
def stoppingEnd (s : State) (p : Nat) : State :=
  s.when (stoppingDue s p) fun s => flueRest s p (s.flue p).afterStop
def senseEnd (s : State) (p : Nat) : State := s.when (senseDue s p) (loadFault · p causeSense)
def retrySuccess (s : State) (p : Nat) : State := s.when (successDue s p) fun s => s.fset (FL_STATUS_RETRIES p) 0

def execRampUpEnd (flue : Nat) (s : State) : Host.Outcome State Fault Refusal := done (decide (flue < 48)) (rampUpEnd s flue)
def execRampDownEnd (flue : Nat) (s : State) : Host.Outcome State Fault Refusal :=
  done (decide (flue < 48)) (rampDownEnd s flue)
def execStoppingEnd (flue : Nat) (s : State) : Host.Outcome State Fault Refusal :=
  done (decide (flue < 48)) (stoppingEnd s flue)
def execTripRateShutdown (flue : Nat) (s : State) : Host.Outcome State Fault Refusal :=
  done (decide (flue < 48)) (s.when (shutdownDue s flue) (shutdown · flue))
def execRetry (flue : Nat) (s : State) : Host.Outcome State Fault Refusal :=
  done (decide (flue < 48)) (s.when (retryDue s flue) (retry · flue))
def execRetrySuccess (flue : Nat) (s : State) : Host.Outcome State Fault Refusal :=
  done (decide (flue < 48)) (retrySuccess s flue)
def execSenseFault (flue : Nat) (_onF : Bool) (s : State) : Host.Outcome State Fault Refusal :=
  done (decide (flue < 48)) (senseEnd s flue)

/-- A block of 1,536 samples of vs ends (R223). -/
def dcBlockEnd (s : State) (p : Nat) : State :=
  let f := s.flue p
  if f.dcN < 1536 then s
  else
    let exceeds := decide (s.fget (FL_LIMIT_DC_THR p) * 1536 * 2 ^ 15 < f.dcSum.natAbs)
    let neg := decide (f.dcSum < 0)
    let n := if ¬ exceeds then 0 else if 0 < f.dcCount ∧ f.dcNeg = neg then f.dcCount + 1 else 1
    let s := s.wr (FL_DC_MEAN p) (BitVec.ofInt 32 (clip 32 (f.dcSum / 1536)))
    let s := s.setFlue p { f with dcSum := 0, dcN := 0, dcCount := if flueFollows s then f.dcCount else n, dcNeg := neg }
    s.when (decide (s.fget (FL_PROT_DC_TIME p) ≤ n) && s.fst p == fRun && !flueFollows s) (loadFault · p causeDc)

def execDcBlock (flue : Nat) (s : State) : Host.Outcome State Fault Refusal := done (decide (flue < 48)) (dcBlockEnd s flue)

/-- The turn-on of the high-side switch of a leg (R210): none where its on-interval is empty. -/
def turnOn (dt : Nat) (leg : Nat × Nat) : Option Nat := if leg.1 + dt < leg.2 then some (leg.1 + dt) else none

def legA (f : Flue) : Nat × Nat := (f.edges.1, f.edges.2.1)
def legB (f : Flue) : Nat × Nat := (f.edges.2.2.1, f.edges.2.2.2)

/-- Where the blanking after the last turn-on of AH or BH ends, in eighths (R220). -/
def blankEnd (s : State) (p : Nat) : Nat :=
  let f := s.flue p
  let until' := fun leg => (turnOn (s.fget (FL_CFG_DT p)) leg).elim 0 fun a => a + 8 * s.fget (FL_CFG_BLANK p)
  max (until' (legA f)) (until' (legB f))

/-- An assertion at position `pos` falls into blanking, of this period or from the one before. -/
def blanked (s : State) (p pos : Nat) : Bool :=
  let f := s.flue p
  let on := fun leg => (turnOn (s.fget (FL_CFG_DT p)) leg).any fun a =>
    decide (a ≤ pos) && decide (pos < a + 8 * s.fget (FL_CFG_BLANK p))
  decide (pos < f.blankTo) || on (legA f) || on (legB f)

/-- A leg from position `pos` of its period on forced low (R220). -/
def forceLow (pos : Nat) (leg : Nat × Nat) : Nat × Nat := if pos ≤ leg.1 then (leg.1, leg.1) else (leg.1, min leg.2 pos)

/-- TRIP: at position `pos` of the running period ball G has stood at a level for `held` FCLK samples, which asserts it if TRIP_POL
and TRIP_FILT say so. The first assertion of a period forces the rest of it to zero-low, at once: R220 allows 3 FCLK periods
(log entry 42). -/
def execTrip (flue : Nat) (ball : GBall) (s : State) : Host.Outcome State Fault Refusal :=
  let f := s.flue flue
  let pos := ball.pos
  let asserted := ball.high == s.on (FL_CFG_TRIP_POL flue) && decide (s.fget (FL_CFG_TRIP_FILT flue) + 1 ≤ ball.held)
  done (decide (flue < 48) && decide (pos < 8192))
    (if ¬ asserted ∨ ¬ driving (s.fst flue) ∨ f.tripped.isSome ∨ blanked s flue pos then s
     else
       let s := s.count (word (FL_TRIP_CNT flue)) 1
       let w := f.window ||| 1
       let a := forceLow pos (legA f)
       let b := forceLow pos (legB f)
       (s.setFlue flue { f with tripped := some pos, window := w, edges := (a.1, a.2, b.1, b.2) }).fset
         (FL_STATUS_TRIP_RATE flue) (ones w.toNat))

/-! ## The modulator (R207 to R209, R212 to R214, R226) -/

/-- Edges of a leg of width `w`: a leg of width 0 has none. -/
def legEdges (p8 w : Nat) : Nat × Nat := ((p8 - w) / 2, (p8 - w) / 2 + w)

/-- The high widths of the legs in the period that begins, with the errors carried on. -/
def widths (s : State) (p : Nat) : Nat × Nat × Nat × Nat :=
  let f := s.flue p
  let e := p8 s p
  let q := rampQ s p
  let st := s.fst p
  if st = fRun then
    let ta := ((2 ^ 31 + f.d) * e + f.epsA).toNat
    let tb := ((2 ^ 31 - f.d) * e + f.epsB).toNat
    (ta / 2 ^ 32, tb / 2 ^ 32, ta % 2 ^ 32, tb % 2 ^ 32)
  else
    let w := if st = fRampUp then e * f.periods / (2 * q)
      else if st = fRampDown then e * (q - (f.rampFrom + f.periods)) / (2 * q) else 0
    (w, w, f.epsA, f.epsB)

/-- FLUE_DISABLE at its boundary (R213, R216). -/
def disableNow (s : State) (p : Nat) : State :=
  let st := s.fst p
  let s := s.setFlue p { s.flue p with offN := none }
  if st = fRun ∨ st = fRampUp then enterRampDown s p
  else if st = fArmed then flueRest (abortHeld s fun h => h.sched && isFlueEnable p h.op) p fOff
  else if st = fWait then flueRest (setFlueCause s p causeDisable) p fOff
  else s

/-- The first of R226 that is due at the boundary of period q, then what the ends of states bring. -/
def boundary (s : State) (p : Nat) : State :=
  let at' := fun n : Nat => decide (4096 * n ≤ (s.flue p).q * per s p)
  let off := (s.flue p).offN.any at'
  let on := (s.flue p).onN.any at'
  let undo := fun s : State => s.when off fun s => s.setFlue p { s.flue p with offN := none }
  let dc := s.when (s.on (FL_PROT_DC_EN p)) (dcBlockEnd · p)
  let s :=
    if dc.fst p ≠ s.fst p then undo dc
    else if senseDue dc p then undo (senseEnd dc p)
    else if shutdownDue dc p then undo (shutdown dc p)
    else if off then disableNow dc p
    else if dc.fst p = fArmed ∧ on then enterRampUp dc p
    else dc
  let s := rampDownEnd (rampUpEnd s p) p
  let s := s.when (retryDue s p) (retry · p)
  retrySuccess (stoppingEnd s p) p

/-- The period that begins: its edges, and what the one before leaves to it. -/
def beginPeriod (s : State) (p : Nat) : State :=
  let w := widths s p
  let e := p8 s p
  let a := legEdges e w.1
  let b := legEdges e w.2.1
  let f := s.flue p
  let dt := s.fget (FL_CFG_DT p)
  let low := fun leg : Nat × Nat => if leg.1 < leg.2 then leg.2 + dt - e else 0
  let win := f.window <<< 1
  let s := s.setFlue p { f with
    epsA := w.2.2.1, epsB := w.2.2.2, edges := (a.1, a.2, b.1, b.2), tripped := none, window := win
    lowFrom := (low (legA f), low (legB f)), blankTo := blankEnd s p - e
    periods := f.periods + 1, q := f.q + 1
    waitLeft := if s.fst p = fWait then f.waitLeft - 1 else f.waitLeft
    runPeriods := if s.fst p = fRun then f.runPeriods + 1 else f.runPeriods }
  s.fset (FL_STATUS_TRIP_RATE p) (ones win.toNat)

/-! ## Gates (R198, R209, R210) -/

/-- The switches of a leg at position `pos`, high side and low side: each turns off at an edge of the leg and on DT eighths after
one; a leg that was low in the period before has its low side on from `low`. -/
def legOn (dt low : Nat) (leg : Nat × Nat) (pos : Nat) : Bool × Bool :=
  if leg.1 < leg.2 then
    (decide (leg.1 + dt ≤ pos) && decide (pos < leg.2),
     decide (low ≤ pos) && decide (pos < leg.1) || decide (leg.2 + dt ≤ pos))
  else (false, decide (low ≤ pos))

/-- The levels of AH, AL, BH and BL at position `pos` of the running period: low turns a switch on. All are high in the states that
turn every switch off. -/
def gateLevels (s : State) (p pos : Nat) : Bool × Bool × Bool × Bool :=
  let f := s.flue p
  let dt := s.fget (FL_CFG_DT p)
  if driving (s.fst p) ∨ s.fst p = fStopping then
    let a := legOn dt f.lowFrom.1 (legA f) pos
    let b := legOn dt f.lowFrom.2 (legB f) pos
    (!a.1, !a.2, !b.1, !b.2)
  else (true, true, true, true)

/-- SWITCHING_PERIOD: a period boundary of a flue whose port is in FLUE mode. -/
def execSwitchingPeriod (flue : Nat) (s : State) : Host.Outcome State Fault Refusal :=
  done (decide (flue < 48)) (s.when (s.mode flue == mFlue) fun s => beginPeriod (boundary s flue) flue)

/-! ## Loop samples -/

/-- The rail estimate and the ceiling of a group (R218, R219); GCKg has just started where `first`. -/
def railUpdate (s : State) (g : Nat) (b : Nat) : State :=
  let grp := s.group g
  let x : Int := min (b * 2 ^ 25 : Nat) (2 ^ 31 - 1 : Nat)
  let v0 : Int := s.fget (word (FLU_GRP_RAIL g))
  let v := if grp.started then v0 + asr (x - v0) 6 else x
  let infl : Int := s.fget (FLU_GRP_CFG_INFL g) * 2 ^ 15
  let ct : Int := if v ≥ infl then 2 ^ 31 - 1
    else max 0 (2 ^ 31 - 1 - (s.fget (FLU_GRP_CFG_SLOPE g) * (infl - v)) / 2 ^ 12)
  let c : Int := s.fget (word (FLU_GRP_CEIL g))
  let atk := s.fget (FLU_GRP_DYN_ATK g)
  let rel := s.fget (FLU_GRP_DYN_REL g)
  let (c', h) : Int × Nat :=
    if ¬ grp.started then (ct, grp.hold)
    else if ct < c then (if atk = 0 then ct else max ct (c - atk * 2 ^ 11), s.fget (FLU_GRP_DYN_HOLD g) * 64)
    else if 0 < grp.hold then (c, grp.hold - 1)
    else (if rel = 0 then ct else min ct (c + rel * 2 ^ 7), 0)
  let s := (s.wr (FLU_GRP_RAIL g) (BitVec.ofInt 32 v)).wr (FLU_GRP_CEIL g) (BitVec.ofInt 32 c')
  s.setGroup g { hold := h, started := true }

/-- The settings of a sense chain (R202). -/
def senseCfg : ChainCfg := { dom := 2, tap := 6, short := true, dcEn := false, k := 13, flag := false, shift := 0 }

/-- The 64 bits of a loop sample through reserved chain `c`: the word that stage 6 delivers. -/
def senseChain (s : State) (c : Nat) (bs : W64) : State × W32 :=
  let r := (List.range 64).foldl (fun (a : Chain × W32) i =>
    let o := pushStage 6 true 6 1 a.1 (bitWord (bs.getLsbD i))
    (o.1, o.2.getD a.2)) (s.chain c, 0)
  let n := s.fget (DEC_CH_STATUS_REMAIN c)
  ((s.setChain c r.1).when (decide (0 < n)) fun s => setRemain s c (n - 1), r.2)

/-- The run of identical bits that ends the stream, and whether one of 4,096 has passed (R224). -/
def bitRun (last : Bool) (n : Nat) (bs : W64) : Bool × Nat × Bool :=
  (List.range 64).foldl (fun (a : Bool × Nat × Bool) i =>
    let b := bs.getLsbD i
    let n := if b == a.1 then a.2.1 + 1 else 1
    (b, n, a.2.2 || decide (4096 ≤ n))) (last, n, false)

/-- A second-order section (Table 8.3, step 4). -/
def loopSection (b0 b1 b2 a1 a2 : Int) (h : Section2) (x : Int) : Int :=
  clip 40 (asr (64 * (b0 * x + b1 * h.x1 + b2 * h.x2) - (a1 * h.y1 + a2 * h.y2)) 30)

/-- Steps 1 to 9 of Table 8.3 for reference word `r`, with v[m − 1] = `v`. -/
def loopStep (s : State) (p : Nat) (r v : Int) : State :=
  let f := s.flue p
  let reg := fun off => (s.rd off).toInt
  let ceil : Int := s.fget (word (FLU_GRP_CEIL (p / 8)))
  let mmax : Int := s.fget (FL_LIMIT_MOD_MAX p) * 2 ^ 15
  let a := min ceil (max (-ceil) r)
  let vs := clip 40 (asr (v * reg (FL_GV p)) 28)
  let e := clip 40 (a - vs)
  let co := fun i => reg (FL_COEF p i)
  let y1 := loopSection (co 0) (co 1) (co 2) (co 3) (co 4) f.sec1 e
  let y2 := loopSection (co 5) (co 6) (co 7) (co 8) (co 9) f.sec2 y1
  let u := clip 40 (y2 + asr (a * reg (FL_FF p)) 28)
  let d0 := min mmax (max (-mmax) u)
  let clipped := decide (d0 ≠ u)
  let run := s.fst p == fRun
  let d := if f.j < 512 then asr (d0 * (f.j + 1)) 9 else d0
  let hold := clipped && s.on (FL_CFG_CLAMP_HOLD p)
  let shift := fun (h : Section2) (x y : Int) => if hold then h else ({ x1 := x, x2 := h.x1, y1 := y, y2 := h.y1 } : Section2)
  let s := s.when clipped fun s => s.count (FL_EVT_CNT_CLIP p) 1
  let f := { f with clipped := f.clipped || clipped, limited := f.limited || decide (a ≠ r) }
  if run then
    s.setFlue p { f with
      d := d, j := f.j + 1, sec1 := shift f.sec1 e y1, sec2 := shift f.sec2 y1 y2
      dcSum := f.dcSum + vs, dcN := if s.on (FL_PROT_DC_EN p) then f.dcN + 1 else 0 }
  else s.setFlue p { f with d := 0 }

/-- A monitor decimator takes a loop-rate word; every even loop sample gives an F word (R203). -/
def monStep (h : List W32) (w : W32) : List W32 × W32 :=
  let h := (w :: h).take 31
  (h, decimate hbWide h 1000 500)

def flueSample (s : State) (p : Nat) (e f' : W64) : State :=
  let s := s.when (s.on (FL_PROT_DC_EN p)) (dcBlockEnd · p)
  let (s, v) := senseChain s (2 * p) e
  let (s, i) := senseChain s (2 * p + 1) f'
  let f := s.flue p
  let re := bitRun f.lastE f.runE e
  let rf := bitRun f.lastF f.runF f'
  let mv := monStep f.monV v
  let mi := monStep f.monI i
  let even := f.pos % 2 == 0
  let r := (f.refs.headD 0).toInt
  let vOld := f.v.toInt
  let s := s.setFlue p { f with
    refs := f.refs.tail, pos := f.pos + 1, v := v, i := i, lastE := re.1, runE := re.2.1, lastF := rf.1, runF := rf.2.1
    stuck := f.stuck || driving (s.fst p) && (re.2.2 || rf.2.2)
    monV := mv.1, monI := mi.1, outV := if even then f.outV ++ [mv.2] else f.outV
    outI := if even then f.outI ++ [mi.2] else f.outI }
  if driving (s.fst p) then loopStep s p r vOld else s

/-- LOOP_SAMPLE: the 64 GRSg bits of a group and the sense bits of its eight ports, bit 0 the earliest. -/
def execLoopSample (group : Nat) (grs : W64) (bits : List (W64 × W64)) (s : State) : Host.Outcome State Fault Refusal :=
  let ps := (List.range 8).filter fun i => s.mode (8 * group + i) == mFlue
  done (decide (group < 6) && decide (bits.length = 8))
    (if ps = [] then s.setGroup group { s.group group with started := false }
     else (railUpdate s group (ones grs.toNat)).each ps fun s i =>
       let b := (bits[i]?).getD (0, 0)
       flueSample s (8 * group + i) b.1 b.2)

/-! ## Port mode (R186, R202) -/

/-- The sense chains start when the port enters FLUE mode, and stop when it leaves it. -/
def startSense (s : State) (p : Nat) : State :=
  s.each [2 * p, 2 * p + 1] fun s c =>
    (startChain s c senseCfg false 1 s.n).fset (DEC_CH_STATUS_RSVD c) 1
def stopSense (s : State) (p : Nat) : State :=
  s.each [2 * p, 2 * p + 1] fun s c => (stopChain s c).fset (DEC_CH_STATUS_RSVD c) 0

/-- A port of group g is in FLUE mode. -/
def groupFlue (s : State) (g : Nat) : Bool := (List.range 8).any fun i => s.mode (8 * g + i) == mFlue

/-- GCKg stops with the last FLUE port of its group: the next loop sample is the first after its start (R218). -/
def groupRest (s : State) (g : Nat) : State := s.when (!groupFlue s g) fun s => s.setGroup g { s.group g with started := false }

/-- What the mode of a port that was in FLUE mode if `was` brings (R202, R218). -/
def modeChanged (s : State) (p : Nat) (was : Bool) : State :=
  let flue := s.mode p == mFlue
  if flue ∧ ¬ was then startSense s p else if was ∧ ¬ flue then groupRest (stopSense s p) (p / 8) else s

/-! ## Tick start (R201, R203) -/

def flueMon (s : State) (p slot tp : Nat) (ws : List W32) : State :=
  if slotFits s slot (0xF00 + p) 2 false then commitWords s (0xF00 + p) slot 2 tp 0 (ws.map some) else portSkip s p 1

def flueTick (s : State) (tp p : Nat) : State :=
  let f := s.flue p
  let s := (s.fset (FL_STATUS_CLIPPING p) (b2n f.clipped)).fset (FL_STATUS_LIMITING p) (b2n f.limited)
  let s := s.when (s.on (FL_SLOT_MON_EN p)) fun s =>
    flueMon (flueMon s p (s.fget (FL_SLOT_MON_V_SLOT p)) tp f.outV) p (s.fget (FL_MON_I_MON_I_SLOT p)) tp f.outI
  let st := s.fst p
  let slot := s.fget (FL_SLOT_REF_SLOT p)
  let rest := st == fOff || st == fLatched
  let s := s.when (!rest) fun s => noteSlotRead s 0x22 slot
  let ws := (readSlot s slot ++ List.replicate (2 * s.tlen) 0).take (2 * s.tlen)
  let h := ws.reverse ++ f.hist
  let last := domIndex s.n 2 + 2 * s.tlen - 1
  let refs := (List.range (4 * s.tlen)).map fun (i : Nat) => interpolate hbLoop h last (4 * s.n + i)
  s.setFlue p { s.flue p with
    clipped := false, limited := false, outV := [], outI := [], pos := 0
    q := ceilDiv (4096 * s.n) (per s p)
    hist := if rest then [] else h.take 16, refs := if rest then [] else refs }

def fluesTick (s : State) (tp : Nat) : State :=
  s.each ((List.range 48).filter fun p => s.mode p == mFlue) fun s p => flueTick s tp p

/-! ## Twin records (R228) -/

def flueRec (s : State) (p : Nat) : FlueRec :=
  let f := s.flue p
  { flue := p, window := f.window, retries := s.fget (FL_STATUS_RETRIES p), state := s.fst p, retryTimer := f.waitLeft
    dcCount := f.dcCount, dcNeg := f.dcNeg, periods := f.periods, afterStop := f.afterStop, cause := s.fget (FL_STATUS_CAUSE p) }

/-- The SHADOW enters a state that the LEAD's protection brought about, with the periods that it has lasted (R228). -/
def followState (s : State) (r : FlueRec) : State :=
  let p := r.flue
  let s := setFlueCause s p r.cause
  let s := if r.state = fRampUp then enterRampUp s p
    else if r.state = fRun then enterFlueRun s p
    else if r.state = fRampDown then enterRampDown s p
    else if r.state = fStopping then enterStopping s p r.afterStop r.cause
    else if r.state = fWait then (let s := setFst s p fWait
      s.setFlue p { s.flue p with d := 0 })
    else if r.state = fOff ∨ r.state = fLatched then flueRest s p r.state
    else setFst s p r.state
  s.setFlue p { s.flue p with periods := r.periods }

def applyFlueRec (s : State) (r : FlueRec) : State :=
  let s := if s.fst r.flue = r.state then s else followState s r
  let s := (s.fset (FL_STATUS_RETRIES r.flue) r.retries).fset (FL_STATUS_TRIP_RATE r.flue) (ones r.window.toNat)
  s.setFlue r.flue { s.flue r.flue with
    window := r.window, waitLeft := r.retryTimer, dcCount := r.dcCount, dcNeg := r.dcNeg }

/-! ## Commands (R212, R215, R216) -/

/-- The first reason of R215, or 0. -/
def flueReject (s : State) (p : Nat) : Nat :=
  let ramp := s.fget (FL_CFG_RAMP p)
  let t1 := s.fget (FL_PROT_T1 p)
  let dc := s.fget (FL_PROT_DC_TIME p)
  let dt := s.fget (FL_CFG_DT p)
  let slot := s.fget (FL_SLOT_REF_SLOT p)
  if s.mode p ≠ mFlue then 1
  else if s.fget (FL_CFG_PER p) = 3 ∨ 251 < dt ∨ ramp < 10 ∨ 200 < ramp ∨ t1 < 1 ∨ 64 < t1 ∨ dc < 1 ∨ 250 < dc then 2
  else if p8 s p * (65536 - s.fget (FL_LIMIT_MOD_MAX p)) / 131072 < dt + 16 then 3
  else if s.fget (SCH_SLOT_CFG_DOMAIN slot) ≠ 2 ∨ s.on (SCH_SLOT_CFG_DATA slot) then 4
  else 0

def schedFlueEnable (s : State) (p : Nat) : State × Result :=
  if 47 < p then (s, stInvalid 0)
  else if s.fst p ≠ fOff ∨ s.fget FLT_STATUS_STATE ≠ 0 then (s, stConflict)
  else
    let why := flueReject s p
    if why = 0 then (setFst s p fArmed, stOk)
    else (s.fset (FL_STATUS_REJECT p) why, stInvalid why)

/-- The number of the first period boundary at or after 4,096 n (R212). -/
def boundaryNo (s : State) (p n : Nat) : Nat := ceilDiv (4096 * n) (per s p)

/-- FLUE_ENABLE at its sample; a FLUE_DISABLE for the same boundary or an earlier one cancels it (R216, R226). -/
def effFlueEnable (s : State) (p nx : Nat) : State × Result :=
  let before := fun n => decide (boundaryNo s p n ≤ boundaryNo s p nx)
  if (s.sch.held.any fun h => h.sched && h.planned.isNone && isFlueDisable p h.op && before h.nx) || (s.flue p).offN.any before then
    (s, stAborted)
  else if s.fst p ≠ fArmed then (s, stConflict)
  else (s.setFlue p { s.flue p with onN := some nx }, stOk)

def schedFlueDisable (p : Nat) : Result := if 47 < p then stInvalid 0 else stOk

/-- FLUE_DISABLE at its sample: what it does comes at its boundary. Of two, the earlier one acts (R216). -/
def effFlueDisable (s : State) (p nx : Nat) : State × Result :=
  let st := s.fst p
  let f := s.flue p
  if st = fLatched then (s, stConflict)
  else if st = fArmed ∨ st = fWait ∨ st = fRun ∨ st = fRampUp then
    (s.setFlue p { f with offN := some (f.offN.elim nx (min nx)) }, stOk)
  else (s, stIdle)

/-- FLUE_CLEAR when taken in. -/
def applyFlueClear (s : State) (p : Nat) : State × Result :=
  if 47 < p then (s, stInvalid 0)
  else if s.fst p = fLatched then ((flueRest s p fOff).fset (FL_STATUS_RETRIES p) 0, stOk)
  else (s, stIdle)

end Sys2Proof.Machine
end

