-- ==== Sys2Proof/Machine/Hif.lean ====
section
/-! DEFINITION. Machine/Hif.lean: the rings in host memory (R336 to R340), the entries the part writes (R344 to R348), DMA
failures (R349), meters (R347), interrupt causes (R353) and the reading of command entries (R343, Tables 13.3, 13.4). -/

namespace Sys2Proof.Machine

/-! ## Causes and MSI-X (R353) -/

def cCpl : Nat := 0
def cEvt : Nat := 1
def cMtr : Nat := 2
def cLog : Nat := 3
def cMbx : Nat := 4
def cStall : Nat := 5
def cErr : Nat := 6

def setCause (s : State) (c : Nat) : State := { s with hif := { s.hif with causes := s.hif.causes ||| (1#8 <<< c) } }

/-- Send one message of a vector, or record it in the pending-bit array where the vector is masked. -/
def sendVector (s : State) (v : Nat) : State :=
  if (s.rd (MSIX_CTRL v)).getLsbD 0 then s.fset ⟨MSIX_PBA (v / 32), v % 32, 1⟩ 1
  else { s with hif := { s.hif with msix := v :: s.hif.msix } }

/-- A cause that sends its message when it arises (STALL, ERR). -/
def sendCause (s : State) (c : Nat) : State :=
  s.when (s.on (HIF_VEC_EN c)) fun s => sendVector s (s.fget (HIF_VEC_VECTOR c))

/-- The messages of the causes that waited for the tick end, one for each vector. -/
def sendCauses (s : State) : State :=
  let cs := (List.range 8).filter fun c => s.hif.causes.getLsbD c && s.on (HIF_VEC_EN c)
  let s := s.each (cs.map fun c => s.fget (HIF_VEC_VECTOR c)).eraseDups sendVector
  { s with hif := { s.hif with causes := 0 } }

/-- A write of a vector control word sends the message that waited for it. -/
def unmask (s : State) (v : Nat) : State :=
  let f : Fd := ⟨MSIX_PBA (v / 32), v % 32, 1⟩
  if (s.rd (MSIX_CTRL v)).getLsbD 0 ∨ ¬ s.on f then s else sendVector (s.fset f 0) v

/-! ## Rings (R336, R337) -/

def rCmd : Nat := 0
def rCpl : Nat := 1
def rEvt : Nat := 2
def rMtr : Nat := 3
def rLog : Nat := 4

def ringBase (s : State) (r : Nat) : Nat := s.get64 (HIF_RING_BASE r)
def ringSize (s : State) (r : Nat) : Nat := s.fget (HIF_RING_SIZE_SIZE r)

def ringCount (tail head : W32) : Nat := (tail - head).toNat
def phaseBit (i : W32) (size : Nat) : Nat := 1 - i.toNat / max 1 size % 2

/-- The rings operate (R352). -/
def hifRun (s : State) : Bool := s.on HIF_STATUS_RUN && !s.pwr.hifRst

/-- A failed access: the third in a row stops intake (R349), and the count begins anew. -/
def dmaFailed (s : State) : State :=
  let s := hostFail s
  let third := decide (2 ≤ s.hif.dmaFails)
  let now := third && !s.on HIF_STATUS_DMA_ERR
  let s := { s with hif := { s.hif with dmaFails := if third then 0 else s.hif.dmaFails + 1 } }
  s.when now fun s => sendCause (raise (s.fset HIF_STATUS_DMA_ERR 1) (srcOf 59 1) 0) cErr

def dmaOk (s : State) : State := { s with hif := { s.hif with dmaFails := 0 } }

/-- Write one entry as one memory write; false where it failed. -/
def putHost (s : State) (a : Nat) (bs : List Byte) : State × Bool :=
  if s.hostBad a bs.length then (dmaFailed s, false) else (dmaOk (hostStore s a bs), true)

/-! ## Entries -/

/-- Table 13.5. -/
def cplBytes (c : Cpl) (phase : Nat) : List Byte :=
  leBytes 4 c.hdr.tag.toNat ++ leBytes 4 c.hdr.idx.toNat ++
  leBytes 4 (c.status + 256 * c.reason + 65536 * (b2n c.applied + 2 * phase) + 2 ^ 24 * c.lateOut) ++ leBytes 4 c.effN.toNat

/-- R348. -/
def logBytes (r : LogRec) (phase : Nat) : List Byte :=
  (leBytes 4 r.seq.toNat ++ leBytes 1 phase ++ leBytes 1 r.level ++ leBytes 2 r.code ++ leBytes 8 r.n.toNat ++ r.args ++
    List.replicate 48 0).take 64

/-- Completions of one tick in ring order, those of earlier ticks first (R344). -/
def insertCpl (base : W32) (c : Cpl) : List Cpl → List Cpl
  | [] => [c]
  | x :: t => if (c.hdr.idx - base).toNat < (x.hdr.idx - base).toNat then c :: x :: t else x :: insertCpl base c t

def orderCpls (s : State) : List Cpl :=
  let old := s.hif.cpls.take s.hif.cplKept
  let new := s.hif.cpls.drop s.hif.cplKept
  old ++ new.foldl (fun l c => insertCpl (s.hif.cmdHead - 0x80000000) c l) []

/-- Write completions while the writes succeed; the CPL cause follows the IRQ flag of one that is written. -/
def writeCpls : List Cpl → State → State
  | [], s => { s with hif := { s.hif with cpls := [], cplKept := 0 } }
  | c :: t, s =>
    let i := s.hif.cplTail
    let n := ringSize s rCpl
    let r := putHost s (ringBase s rCpl + 16 * (i.toNat % max 1 n)) (cplBytes c (phaseBit i n))
    if r.2 then
      let s := { r.1 with hif := { r.1.hif with cplTail := i + 1 } }
      writeCpls t (s.when c.hdr.irq (setCause · cCpl))
    else { r.1 with hif := { r.1.hif with cpls := c :: t, cplKept := (c :: t).length } }

/-- Write events while the ring has room (R346). -/
def writeEvts : List EventRec → State → State
  | [], s => { s with hif := { s.hif with events := [] } }
  | e :: t, s =>
    let i := s.hif.evtTail
    let n := ringSize s rEvt
    if n ≤ ringCount i s.hif.evtHead then { s with hif := { s.hif with events := e :: t } }
    else
      let r := putHost s (ringBase s rEvt + 32 * (i.toNat % max 1 n)) (evtBytes e (phaseBit i n))
      if r.2 then
        let s := { r.1 with hif := { r.1.hif with evtTail := i + 1, lastSeq := e.seq } }
        writeEvts t (s.when (decide (s.fget HIF_CTRL_EVT_MIN ≤ e.cls)) (setCause · cEvt))
      else { r.1 with hif := { r.1.hif with events := e :: t } }

/-- Write log entries; one for which there is no room is left out (R348). -/
def writeLogs : List LogRec → State → State
  | [], s => { s with hif := { s.hif with logs := [] } }
  | e :: t, s =>
    let i := s.hif.logTail
    let n := ringSize s rLog
    if n ≤ ringCount i s.hif.logHead then writeLogs t (s.count HIF_CNT1_LOG_DROP 1)
    else
      let r := putHost s (ringBase s rLog + 64 * (i.toNat % max 1 n)) (logBytes e (phaseBit i n))
      if r.2 then writeLogs t (setCause { r.1 with hif := { r.1.hif with logTail := i + 1 } } cLog)
      else { r.1 with hif := { r.1.hif with logs := e :: t } }

/-! ## Meters (R347) -/

def mtrPoints (s : State) : Nat := s.fget HIF_MTR_CFG_POINTS
def mtrEvery (s : State) : Nat := s.fget HIF_MTR_CFG_EVERY

/-- A new interval begins: the points in force are the ones now set. -/
def meterOpen (s : State) : State :=
  let pts := (s.regs.filter fun e => decide (HIF_MTR_PT 0 ≤ e.1) && decide (e.1 < HIF_MTR_PT 4096)).map fun e =>
    ((e.1 - HIF_MTR_PT 0) / 4, e.2)
  { s with hif := { s.hif with meters := [], mtrTicks := 0, mtrPts := pts } }

/-- Words added to one point. -/
def meterAdd (a : MeterAcc) (vs : List W32) : MeterAcc :=
  vs.foldl (fun a v => { peak := max a.peak v.toInt.natAbs, sum := a.sum + v.toInt.natAbs ^ 2, words := a.words + 1 }) a

/-- The enabled points read their slots in each tick of an interval. -/
def meterTick (s : State) : State :=
  if mtrEvery s = 0 ∨ mtrPoints s = 0 ∨ ¬ hifRun s then s
  else
    let s := s.when (s.hif.mtrTicks == 0) fun s => { s with hif := { s.hif with mtrN0 := BitVec.ofNat 64 s.n } }
    let s := s.each (s.hif.mtrPts.filter fun e => decide (e.1 < mtrPoints s) && e.2.getLsbD 13) fun s e =>
      let slot := e.2.toNat % 8192
      if s.slotLive slot then
        let acc := meterAdd (Tbl.get {} s.hif.meters e.1) (readSlot s slot)
        { s with hif := { s.hif with meters := Tbl.put {} s.hif.meters e.1 acc } }
      else s
    { s with hif := { s.hif with mtrTicks := s.hif.mtrTicks + 1 } }

def meterValue (s : State) (i : Nat) : List Byte :=
  let a := Tbl.get {} s.hif.meters i
  if a.words = 0 then leBytes 8 (2 ^ 64 - 1) else leBytes 4 a.peak ++ leBytes 4 (a.sum / (a.words * 2 ^ 31))

def meterSize (s : State) : Nat := (64 + 8 * mtrPoints s + 63) / 64 * 64

/-- Table 13.7. -/
def meterBytes (s : State) (phase : Nat) : List Byte :=
  let head := leBytes 8 s.hif.mtrN0.toNat ++ leBytes 4 (s.n + s.tlen - s.hif.mtrN0.toNat) ++ leBytes 2 (mtrPoints s) ++
    leBytes 2 phase ++ leBytes 4 s.hif.mtrSeq.toNat ++ List.replicate 44 0
  let body := (List.range (mtrPoints s)).flatMap (meterValue s)
  (head ++ body ++ List.replicate 64 0).take (meterSize s)

/-- The interval has its ticks. -/
def meterFull (s : State) : Bool :=
  hifRun s && decide (1 ≤ mtrEvery s) && decide (1 ≤ mtrPoints s) && decide (mtrEvery s ≤ s.hif.mtrTicks)

def meterDue (s : State) : Bool := meterFull s && s.lead

/-- A SHADOW writes no frame: it counts the one that its LEAD writes, and begins the next interval. -/
def meterPass (s : State) : State :=
  if ¬ meterFull s ∨ s.lead then s
  else meterOpen { s with hif := { s.hif with mtrTail := s.hif.mtrTail + 1, mtrSeq := s.hif.mtrSeq + 1 } }

/-- A meter frame, where one is due. One whose ring has no room, or whose write fails, is not kept. -/
def meterFrame (s : State) : State :=
  if ¬ meterDue s then s
  else
    let i := s.hif.mtrTail
    let n := ringSize s rMtr
    let s' :=
      if n ≤ ringCount i s.hif.mtrHead then s.count HIF_CNT0_MTR_DROP 1
      else
        let r := putHost s (ringBase s rMtr + meterSize s * (i.toNat % max 1 n)) (meterBytes s (phaseBit i n))
        if r.2 then setCause { r.1 with hif := { r.1.hif with mtrTail := i + 1 } } cMtr else r.1.count HIF_CNT0_MTR_DROP 1
    meterOpen { s' with hif := { s'.hif with mtrSeq := s'.hif.mtrSeq + 1 } }

def execMeterFrame (s : State) : Host.Outcome State Fault Refusal := done true (meterFrame s)

/-! ## The status block (Table 13.2, R338) -/

def statusBytes (s : State) (n k : Nat) : List Byte :=
  let h := s.hif
  (leBytes 4 h.cmdHead.toNat ++ leBytes 4 h.cplTail.toNat ++ leBytes 4 h.evtTail.toNat ++ leBytes 4 h.mtrTail.toNat ++
    leBytes 4 h.logTail.toNat ++ leBytes 4 (s.fget HIF_STATUS_STALL + 2 * b2n !s.lead) ++ leBytes 8 n ++ leBytes 8 k ++
    leBytes 4 h.lastSeq.toNat ++ List.replicate 20 0)

/-- The records the part writes at a tick end or at a grid instant, then the status block, then the messages. `n` and `k`
are what the block reports. Only the LEAD writes, while the rings run; the cause of the mailboxes needs no ring. -/
def hifWrites (s : State) (n k : Nat) : State :=
  if s.pwr.hifRst then s
  else if ¬ hifRun s ∨ ¬ s.lead then sendCauses (meterPass s)
  else
    let s := writeCpls (orderCpls s) s
    let s := writeEvts s.hif.events s
    let s := meterFrame s
    let s := writeLogs s.hif.logs s
    let r := putHost s (s.get64 HIF_SB_ADDR) (statusBytes s n k)
    let s := r.1.when r.2 fun s => { s with hif := { s.hif with repHead := s.hif.cmdHead } }
    sendCauses s

/-! ## Reading command entries (Tables 13.3, 13.4) -/

/-- Bytes of an entry's arguments that each opcode uses. -/
def argBytes (op : Nat) : Option (List (Nat × Nat)) :=
  match op with
  | 0x00 => some []
  | 0x01 => some [(16, 1)]
  | 0x02 => some [(16, 4), (24, 8)]
  | 0x10 => some [(16, 1), (24, 12)]
  | 0x11 => some [(16, 2)]
  | 0x12 => some [(16, 1)]
  | 0x13 => some [(16, 1)]
  | 0x14 => some [(16, 2), (20, 8), (32, 8)]
  | 0x15 => some [(16, 1), (18, 2)]
  | 0x20 => some [(16, 2), (20, 8), (32, 8)]
  | 0x21 => some []
  | 0x22 => some [(16, 1), (20, 12)]
  | 0x30 => some [(16, 1)]
  | 0x31 => some [(16, 1)]
  | 0x32 => some [(16, 3)]
  | 0x33 => some [(16, 3)]
  | 0x38 => some [(16, 1)]
  | 0x39 => some [(16, 1)]
  | 0x3A => some [(16, 1)]
  | 0x40 => some [(16, 1), (18, 2), (24, 8)]
  | 0x41 => some [(16, 1), (18, 2)]
  | 0x42 => some [(16, 1), (18, 2)]
  | 0x43 => some [(16, 6), (24, 8)]
  | 0x50 => some []
  | _ => none

/-- Every byte that Table 13.3 or 13.4 shows as zero is zero. -/
def zerosOk (bs : List Byte) (used : List (Nat × Nat)) : Bool :=
  let flags := (bs[1]?.getD 0).toNat
  decide (flags < 4) && bs.zipIdx.all fun e =>
    decide (e.2 < 2) || (decide (4 ≤ e.2) && decide (e.2 < 16)) ||
    (used.any fun u => decide (u.1 ≤ e.2) && decide (e.2 < u.1 + u.2)) || e.1 == 0

def entryOp (bs : List Byte) : HostOp :=
  let n := fun o w => leNat ((bs.drop o).take w)
  let b8 : Nat → Byte := fun o => bs[o]?.getD 0
  let b16 : Nat → BitVec 16 := fun o => BitVec.ofNat 16 (n o 2)
  let b32 : Nat → W32 := fun o => BitVec.ofNat 32 (n o 4)
  let b64 : Nat → W64 := fun o => BitVec.ofNat 64 (n o 8)
  let op := (b8 0).toNat
  match argBytes op with
  | none => .unknown
  | some used =>
    if ¬ zerosOk bs used then .unknown
    else match op with
    | 0x00 => .nop
    | 0x01 => .setTick (b8 16)
    | 0x02 => .slotCfg (b16 16) (b16 18) (b64 24)
    | 0x10 => .loadImage (b8 16) (b64 24) (b32 32)
    | 0x11 => .swapProgram (b8 16) (b8 17)
    | 0x12 => .discardImage (b8 16)
    | 0x13 => .unloadProgram (b8 16)
    | 0x14 => .paramWrite (b8 16) (b8 17) (b32 20) (b32 24) (b64 32)
    | 0x15 => .paramSwap (b8 16) (b16 18)
    | 0x20 => .mixWrite (b8 16) (b8 17) (b32 20) (b32 24) (b64 32)
    | 0x21 => .mixSwap
    | 0x22 => .mixDamp (b8 16) (b32 20) (b16 24) (b8 26) (b8 27) (b32 28)
    | 0x30 => .portStart (b8 16)
    | 0x31 => .portStop (b8 16)
    | 0x32 => .portMute (b8 16) (b8 17) (b8 18)
    | 0x33 => .decFreeze (b16 16) (b8 18)
    | 0x38 => .flueEnable (b8 16)
    | 0x39 => .flueDisable (b8 16)
    | 0x3A => .flueClear (b8 16)
    | 0x40 => .streamWrite (b8 16) (b16 18) (b64 24)
    | 0x41 => .streamStart (b8 16) (b16 18)
    | 0x42 => .streamStop (b8 16) (b16 18)
    | 0x43 => .streamStats (b8 16) (b8 17) (b16 18) (b16 20) (b64 24)
    | 0x50 => .twinSwap
    | _ => .unknown

def entryHdr (i : W32) (bs : List Byte) : Hdr :=
  let f := (bs[1]?.getD 0)
  { idx := i, tag := BitVec.ofNat 32 (leNat ((bs.drop 4).take 4)), execAt := BitVec.ofNat 64 (leNat ((bs.drop 8).take 8))
    late := f.getLsbD 0, irq := f.getLsbD 1 }

/-! ## The doorbell block (R339, R340) -/

/-- Read the doorbell block. A CMD_TAIL beyond the limit stops intake until a valid one is fetched. -/
def readDoorbell (s : State) : State :=
  let a := s.get64 HIF_DB_ADDR
  if s.hostBad a 64 then dmaFailed s
  else
    let s := dmaOk s
    let w := fun o => Memory.rd32 s.hostMem (a + o)
    let tail := w 0
    let ok := decide (ringCount tail s.hif.repHead ≤ ringSize s rCmd)
    let first := !ok && (s.hif.tailOk || !s.on HIF_STATUS_TAIL_ERR)
    let s := { s with hif := { s.hif with
      cmdTail := tail, cplHead := w 4, evtHead := w 8, mtrHead := w 12, logHead := w 16, tailOk := ok } }
    s.when first fun s => sendCause (raise (s.fset HIF_STATUS_TAIL_ERR 1) (srcOf 59 0) 0) cErr

/-- Commands that wait in the ring under the last CMD_TAIL. -/
def waiting (s : State) (upTo : W32) : Nat :=
  let n := ringCount upTo s.hif.cmdHead
  if ringSize s rCmd < n then 0 else n

/-- The first condition of R341 that stops intake at the next command, as STALL_WHY; 0 for none. `limit` is the intake
index of a pair (R350). -/
def intakeStop (s : State) (limit : Option W32) : Nat :=
  if 4096 ≤ s.sch.held.length then 1
  else if ringSize s rCpl ≤ ringCount s.hif.cplTail s.hif.cplHead + s.hif.cpls.length + s.sch.held.length then 2
  else if ¬ s.hif.tailOk then 4
  else if s.on HIF_STATUS_DMA_ERR then 5
  else match limit with
    | some l => if waiting s l = 0 then 6 else 0
    | none => 0

/-- What intake leaves in HIF_STATUS; the STALL cause and CMD_STALL after 16 fetches in a row. -/
def noteStall (s : State) (why : Nat) : State :=
  let stalled := decide (why ≠ 0) && (!s.hif.tailOk || decide (0 < waiting s s.hif.cmdTail))
  let run := if stalled then min 17 (s.hif.stallRun + 1) else 0
  let s := (s.fset HIF_STATUS_STALL (b2n stalled)).fset HIF_STATUS_STALL_WHY (if stalled then why else 0)
  let s := { s with hif := { s.hif with stallRun := run } }
  s.when (run == 16) fun s => sendCause (raise s (srcOf 59 2) 0) cStall

end Sys2Proof.Machine
end

