-- ==== Sys2Proof/Machine/Mail.lean ====
section
/-! DEFINITION. Machine/Mail.lean: the mailboxes: who may send (R355), stamping (R357), delivery and outcomes (R358 to
R361), and the core mailboxes (R362, R363). -/

namespace Sys2Proof.Machine

/-! ## Allocation (Table 14.1) -/

def sidHost : Nat := 0
def sidMgmt : Nat := 1
def sidPeer : Nat := 0x200
def isCoreSid (x : Nat) : Bool := decide (0x100 ≤ x) && decide (x < 0x1D0)

def mayMail (m sid : Nat) : Bool :=
  if m < 8 then sid == sidHost
  else if m < 16 then sid == sidMgmt || isCoreSid sid
  else if m < 224 then sid == sidHost || sid == sidMgmt || isCoreSid sid
  else if m < 240 then sid == sidPeer
  else sid == sidMgmt

/-- The mailbox of core `j` of cluster `c`, and the core of a mailbox. -/
def coreBox (c j : Nat) : Nat := 16 + 8 * c + j
def isCoreBox (m : Nat) : Bool := decide (16 ≤ m) && decide (m < 224)
def boxCluster (m : Nat) : Nat := (m - 16) / 8
def boxCore (m : Nat) : Nat := (m - 16) % 8

/-- The receiver reads the box. -/
def isReader (m sid : Nat) : Bool :=
  if m < 8 then sid == sidMgmt
  else if m < 16 then sid == sidHost
  else if m < 224 then sid == 0x100 + 8 * boxCluster m + boxCore m
  else sid == sidMgmt

def boxFull (s : State) (m : Nat) : Bool := s.on (MBX_STATUS_FULL m)
def boxWords (s : State) (m : Nat) : List W32 := (List.range 16).map fun (w : Nat) => s.rd (MBX_MSG m w)

def putWords (s : State) (m : Nat) (ws : List W32) : State :=
  s.each (List.range 16) fun s w => s.wr (MBX_MSG m w) ((ws[w]?).getD 0)

/-! ## Outcomes (R359) -/

def oTaken : Nat := 2
def oTimeout : Nat := 3
def oFlushed : Nat := 4
def oRefused : Nat := 5

/-- Tell a sender the outcome of a send into box `m`: the host by flags and its cause, a core in its send area, the peer
in an MBX frame. -/
def tellSender (s : State) (sid m outcome : Nat) : State :=
  if sid = sidHost then
    let s := s.fset ⟨MBX_STATUS m, outcome, 1⟩ 1
    let s := s.when (outcome != oRefused) (·.fset (MBX_STATUS_PENDING m) 0)
    setCause s cMbx
  else if isCoreSid sid then
    let c := (sid - 0x100) / 8
    let k := s.cluster c
    s.setCluster c { k with mailOut := Tbl.put 0 k.mailOut ((sid - 0x100) % 8) outcome }
  else if sid = sidPeer then { s with mail := { s.mail with peerOut := s.mail.peerOut ++ [(m, outcome)] } }
  else s

/-- The box is empty again; its sender is told, if it is still owed the outcome. -/
def emptyBox (s : State) (m outcome : Nat) : State :=
  let b := s.mbox m
  let s := putWords ((s.fset (MBX_STATUS_FULL m) 0).fset (MBX_STATUS_PENDING m) 0) m []
  let s := s.setMbox m {}
  s.when b.owed (tellSender · b.sender m outcome)

def flushBox (s : State) (m : Nat) : State := s.when (boxFull s m) (emptyBox · m oFlushed)

/-! ## Sending (R357, R358) -/

def boxEpoch (s : State) (sid : Nat) : BitVec 16 := Tbl.get 0 s.mail.epochs sid
def boxSeq (s : State) (sid : Nat) : BitVec 16 := Tbl.get 0 s.mail.seqs sid

/-- A sender is reset: a new epoch, SEQ from 0, and no outcome for what it has sent (R357, R360). -/
def newEpoch (s : State) (sid : Nat) : State :=
  let mine := (s.mail.boxes.filter fun e => e.2.sender == sid).map (·.1)
  let s := { s with mail := { s.mail with
    epochs := Tbl.put 0 s.mail.epochs sid (boxEpoch s sid + 1), seqs := Tbl.put 0 s.mail.seqs sid 0 } }
  s.each mine fun s m =>
    let s := s.setMbox m { s.mbox m with owed := false, timer := false }
    s.when (sid == sidHost) (·.fset (MBX_STATUS_PENDING m) 0)

def stamp (s : State) (m sid : Nat) (epoch seq : BitVec 16) (len code : Nat) : State :=
  let s := (s.fset (MBX_HDR0_SID m) sid).fset (MBX_HDR0_EPOCH m) epoch.toNat
  ((s.fset (MBX_HDR1_SEQ m) seq.toNat).fset (MBX_HDR1_LEN m) len).fset (MBX_HDR1_CODE m) code

/-- The mailbox page whose TMO_US times a send into box `m`: a core's own, else the destination's (R358). -/
def timerPage (m sid : Nat) : Nat := if isCoreSid sid then sid - 0x100 + 16 else m

/-- C at which a send of now times out. -/
def sendDue (s : State) (m sid : Nat) : Nat :=
  s.tmb.c + 500 * clampN 1 1000000 (s.fget (MBX_TMO_TMO_US (timerPage m sid)))

def deliver (s : State) (m sid : Nat) (epoch seq : BitVec 16) (ws : List W32) (len code : Nat) : State :=
  let s := stamp (putWords s m ws) m sid epoch seq len code
  let s := s.fset (MBX_STATUS_FULL m) 1
  let s := s.when (sid == sidHost) (·.fset (MBX_STATUS_PENDING m) 1)
  let s := s.setMbox m { sender := sid, owed := true, timer := true, due := sendDue s m sid }
  s.when (decide (8 ≤ m) && decide (m < 16)) (setCause · cMbx)

/-- A send; false where it is refused. -/
def mboxSend (s : State) (sid m : Nat) (ws : List W32) (len code : Nat) : State × Bool :=
  if boxFull s m ∨ ¬ mayMail m sid ∨ len < 1 ∨ 16 < len then (tellSender s sid m oRefused, false)
  else
    let q := boxSeq s sid
    let s := deliver s m sid (boxEpoch s sid) q ws len code
    ({ s with mail := { s.mail with seqs := Tbl.put 0 s.mail.seqs sid (q + 1) } }, true)

/-- TIMEOUT: the sender's timer expires, once its time has come. -/
def execTimeout (mbox : Nat) (s : State) : Host.Outcome State Fault Refusal :=
  done (mboxOk mbox) (s.when (boxFull s mbox && (s.mbox mbox).timer && decide ((s.mbox mbox).due ≤ s.tmb.c))
    (emptyBox · mbox oTimeout))

/-- The receiver of a box is reset, or the peer of MB224 to MB239 is gone. -/
def receiverDown (s : State) (m : Nat) : Bool :=
  if m < 8 ∨ 240 ≤ m then s.pwr.mgmtRst
  else if m < 16 then s.pwr.hifRst
  else if m < 224 then s.pwr.clusters.contains (boxCluster m)
  else s.pwr.mgmtRst || s.fget TWN_STATUS_LANE_UP == 0

/-- FLUSHED: a box whose receiver is down is flushed. -/
def execFlushed (mbox : Nat) (s : State) : Host.Outcome State Fault Refusal :=
  done (mboxOk mbox) (s.when (receiverDown s mbox) (flushBox · mbox))

/-- MBX_FRAME: the twin peer sends a message (outcome 0), or reports what became of one of this chip's (R361). -/
def execMbxFrame (mbox : Nat) (words : List W32) (epoch seq : BitVec 16) (code : Byte) (outcome : Nat) (s : State) :
    Host.Outcome State Fault Refusal :=
  let up := s.fget TWN_STATUS_LANE_UP != 0
  let ok := decide (224 ≤ mbox) && decide (mbox < 240) && !boxFull s mbox && decide (1 ≤ words.length)
  let s1 := { s with mail := { s.mail with epochs := Tbl.put 0 s.mail.epochs sidPeer epoch } }
  done (mboxOk mbox && decide (words.length ≤ 16) && decide (outcome < 8))
    (if ¬ up ∨ outcome ≠ 0 then s
     else if ok then deliver s1 mbox sidPeer epoch seq words words.length code.toNat
     else tellSender s1 sidPeer mbox oRefused)

/-! ## Core mailboxes (R362, R363) -/

def rxArea (s : State) (c j : Nat) : Nat := s.fget (MBX_CORE_RX_ADDR (8 * c + j)) / 16 * 16
def txArea (s : State) (c j : Nat) : Nat := s.fget (MBX_CORE_TX_ADDR (8 * c + j)) / 16 * 16

/-- A message to core `j` of the carrier `c`, copied into every unit. -/
def mailIn (s : State) (c : Nat) (units : List Nat) (j : Nat) : State :=
  let m := coreBox c j
  if ¬ boxFull s m then s
  else
    let ws := s.rd (MBX_HDR0 m) :: s.rd (MBX_HDR1 m) :: boxWords s m
    let s := s.each units fun s u => raiseLine (dmaWrite s u j (rxArea s c j) ws) u j 7
    emptyBox s m oTaken

/-- The outcome of a send of core `j`, written into word 1 of the send area of every unit. -/
def mailOutcome (s : State) (c : Nat) (units : List Nat) (j : Nat) : State :=
  match units.findSome? fun u => Tbl.find (s.cluster u).mailOut j with
  | none => s
  | some o =>
    let s := s.each units fun s u => s.setCluster u { s.cluster u with mailOut := Tbl.put 0 (s.cluster u).mailOut j 0 }
    let a := txArea s c j + 1
    let old := (dmaRead s c j a 1).2
    let s := s.each units fun s u => dmaWrite s u j a [BitVec.ofNat 32 o]
    s.when (old != [BitVec.ofNat 32 o]) fun s => s.each units fun s u => raiseLine s u j 8

/-- The mailboxes in the input phase of a hearth. -/
def mailInput (s : State) (h : Nat) : State :=
  match s.unitsOf h with
  | [] => s
  | c :: es => s.each (List.range 8) fun s j => mailOutcome (mailIn s c (c :: es) j) c (c :: es) j

/-- The send of core `j` in the output phase: GO is cleared in every unit, and the selected unit's send is submitted. -/
def mailOutput (s : State) (c : Nat) (units : List Nat) (sel j : Nat) : State :=
  let a := txArea s c j
  let r := dmaRead s sel j a 1
  let w := (r.2.headD 0).toNat
  let s := s.each units fun s u =>
    let x := (dmaRead s u j a 1).2.headD 0
    if x.getLsbD 31 then dmaWrite s u j a [x &&& 0x7FFFFFFF#32] else s
  if ¬ bit w 31 then s
  else
    let sid := 0x100 + 8 * sel + j
    if bits w 13 3 ≠ 0 ∨ bits w 24 7 ≠ 0 then tellSender s sid (bits w 0 8) oRefused
    else
      let ws := (dmaRead s sel j (a + 2) 16).2
      let k := s.cluster sel
      let s := s.setCluster sel { k with mailOut := Tbl.put 0 k.mailOut j 1 }
      (mboxSend s sid (bits w 0 8) ws (bits w 8 5) (bits w 16 8)).1

end Sys2Proof.Machine
end

