-- ==== Sys2Proof/Machine/Output.lean ====
section
/-! DEFINITION. Machine/Output.lean: the input and output phases over all hearths (R102, R107, R109, R110, R306, R363) and
the chip signature (R323). -/

namespace Sys2Proof.Machine

def allHearths : List Nat := List.range 24

/-- Hearths with a running image. -/
def runningHearths (s : State) : List Nat := allHearths.filter fun h => (s.runner h).isSome

/-- The input phase of every unit of every hearth (R109). -/
def inputPhases (s : State) : State :=
  s.each (runningHearths s) fun s h =>
    let s := s.each (s.unitsOf h) fun s c => inputPhase s h c
    mailInput s h

/-- The output phase of one hearth: tasks stop, every unit gathers its results, the vote selects one, and its words and
sends go out. -/
def outputHearth (s : State) (h : Nat) : State :=
  let us := s.unitsOf h
  let s := s.each us fun s c => s.each (List.range 8) fun s j => stopTask s c j
  let r := us.foldl (fun (a : State × List Gathered) c =>
    let g := gather a.1 c
    (g.1, a.2 ++ [g.2])) (s, [])
  let v := vote r.1 h r.2
  match us with
  | [] => s
  | c :: _ =>
    let s := commitOutput v.1 h v.2
    let s := s.each (List.range 8) fun s j => mailOutput s c us v.2.unit j
    { s with twin := { s.twin with sigs := s.twin.sigs.set h v.2.sig } }

/-- The output phase of a tick, once. -/
def outputPhase (s : State) : State :=
  if ¬ s.running ∨ s.sch.outDone then s
  else
    let s := { s with twin := { s.twin with sigs := List.replicate 27 0 } }
    let s := s.each (runningHearths s) outputHearth
    { s with sch := { s.sch with outDone := true } }

def execOutputPhase (s : State) : Host.Outcome State Fault Refusal := done true (outputPhase s)

/-! ## Class signatures (R323) -/

/-- The class of a slot's producer, for classes 24 to 26. -/
def producerClass (p : Nat) : Option Nat :=
  if p = 0x900 ∨ (0xA00 ≤ p ∧ p < 0xE00) then some 24
  else if (0x100 ≤ p ∧ p < 0x130) ∨ (0x600 ≤ p ∧ p < 0x8C0) ∨ (0xF00 ≤ p ∧ p < 0xF30) then some 25
  else if 0x200 ≤ p ∧ p < 0x600 then some 26
  else none

/-- The CRC of one slot written in this tick: its number, LIVE flag and words. -/
def slotSig (s : State) (slot : Nat) : W64 :=
  let n := domWords s.tlen (s.fget (SCH_SLOT_CFG_DOMAIN slot))
  let ws := (List.range n).map fun (i : Nat) => Memory.rd32 s.mem (slotAddr s.wbuf slot i)
  crc64 (leBytes 2 slot ++ leBytes 1 (b2n (liveAtEnd s slot)) ++ wordBytes ws)

/-- Classes 24 to 26 join the hearth signatures at the end of a tick. -/
def classSigs (s : State) : State :=
  let sigs := s.sch.written.foldl (fun (l : List W64) e =>
    match producerClass (s.fget (SCH_SLOT_CFG_PRODUCER e.1)) with
    | some c => l.set c ((l[c]?).getD 0 ^^^ slotSig s e.1)
    | none => l) s.twin.sigs
  { s with twin := { s.twin with sigs := sigs } }

/-- Classes with local evidence in this tick or in the one before (R322, R326). -/
def classEvidence (s : State) : BitVec 27 :=
  let has := fun g => s.ember.evNow.contains g || s.ember.evPrev.contains g
  let hearth := allHearths.filter fun h => match s.carrier h with
    | some c => evidence s c
    | none => false
  let rest := (if has 28 then [24] else []) ++
    (if (List.range 18).any fun i => has (30 + i) then [25] else []) ++
    (if (List.range 7).any fun i => has (48 + i) then [26] else [])
  (hearth ++ rest).foldl (fun e c => e ||| (1#27 <<< c)) 0

end Sys2Proof.Machine
end

