-- ==== Sys2Proof/Machine/Reference.lean ====
section
/-! DEFINITION. Machine/Reference.lean: the candidates, their ranks and states, selection, the loop, holdover, the dispute
rule and the media index (R285 to R302), and PPS_IN (R282). -/

namespace Sys2Proof.Machine

/-! ## The media index (R291, R296) -/

/-- n of R12 for a media time in time units. -/
def targetN (s : State) (t : Int) : Int := t * fsM s / unitsPerSec

def State.refY (s : State) : Int := sgn 64 (s.get64 REF_DCO_FFO)
def setY (s : State) (y : Int) : State := s.set64 REF_DCO_FFO (uns 64 y)
def State.phiB (s : State) : Int := sgn 64 (s.get64 REF_BO)
def setPhi (s : State) (v : Int) : State := s.set64 REF_BO (uns 64 v)

/-- μ at a counter time: the reading at the last M edge at or before it, and the time since. The edges follow the last
one the model has seen at nominal × (1 + y). -/
def mu (s : State) (ts : Int) : Int :=
  let d := ts - tsOf s.ref.mediaC 0
  let num : Int := fsM s * (2 ^ 48 + s.refY)
  let den : Int := unitsPerSec * 2 ^ 48
  let j := d * num / den
  ((s.ref.mediaIndex : Int) + j) * unitsPerSec / fsM s + (d - j * den / num)

/-- The media index advances by `d` M edges, up to the one at C. -/
def mediaAdvance (s : State) (d : Nat) : State :=
  { s with ref := { s.ref with mediaIndex := s.ref.mediaIndex + d, mediaC := s.tmb.c } }

/-- The media index is set from R12 on t_M at C, with β = 0. -/
def mediaSetNow (s : State) : State :=
  let s := ppsBack (rebase s 0 s.tmb.c) (tsOf s.tmb.c 0)
  let n := (targetN s (mediaTime s (tsOf s.tmb.c 0))).toNat
  { s with ref := { s.ref with mediaIndex := n, mediaC := s.tmb.c, mediaSet := true, acqEdge := false } }

def execMediaIndexSet (c : Nat) (s : State) : Host.Outcome State Fault Refusal :=
  done (decide (c < 2 ^ 64)) (s.when s.ref.acqEdge fun s => mediaSetNow (advance s c))

/-! ## Candidates (R285 to R289) -/

def cDisabled : Nat := 0
def cFailed : Nat := 1
def cWtr : Nat := 2
def cAvail : Nat := 3
def cSuspect : Nat := 4

def State.cst (s : State) (i : Nat) : Nat := if i = 15 then cAvail else s.fget (REF_CAND_STATUS_STATE i)
def setCst (s : State) (i st reason : Nat) : State :=
  (s.fset (REF_CAND_STATUS_STATE i) st).fset (REF_CAND_STATUS_REASON i) reason

def isPtp (i : Nat) : Bool := decide (i < 2)
def isSynce (i : Nat) : Bool := decide (2 ≤ i) && decide (i < 8)
def isWck (i : Nat) : Bool := decide (8 ≤ i) && decide (i < 12)
def isDars (i : Nat) : Bool := i == 12 || i == 13

def State.candFreq (s : State) (i : Nat) : Int := (s.rd (REF_CAND_FREQ i)).toInt

/-- The conditions of Table 11.2 that hold of a candidate, as REASON; the first in the table's order counts. -/
def failReason (s : State) (i : Nat) : Option Nat :=
  let q := s.fget (REF_CAND_QIN_CLASS_SSM i)
  let p := s.fget (REF_CAND_AUX_PORT i)
  let signal : Bool :=
    if isPtp i then !s.on (TMB_DOM_CTRL_VALID i)
    else if isSynce i then !s.on (NET_STATUS_LINK (i - 2))
    else if isWck i then (s.cand i).missing == 4
    else if i = 14 then (match s.tmb.ppsInLast with
      | some l => decide (l + 750000000 < s.tmb.c)
      | none => true)
    else false
  let quality := (isPtp i && q == 255) || (isSynce i && q % 16 == 15)
  let port := isDars i && !(decide (p < 48) && s.mode p == mAes && s.pst p == stRun && s.on (PRT_AES_STATUS_CS_OK p))
  let ppm := clampN 1 500 (s.fget REF_HOLD_CFG_RANGE_PPM)
  if i = 15 then none
  else if signal then some 1
  else if quality then some 2
  else if port then some 4
  else if ppm * 2 ^ 40 < (s.candFreq i).natAbs * 1000000 then some 3
  else none

/-- Table 11.3 by column. -/
def rankPtp (cls : Nat) : Nat :=
  if cls = 6 then 0 else if cls = 7 ∨ cls = 13 then 1 else if cls = 14 then 2
  else if cls = 52 ∨ cls = 58 ∨ cls = 187 ∨ cls = 193 then 4 else if cls = 248 then 5
  else if cls = 255 then 7 else 6
def rankSsm (ssm : Nat) : Nat := if ssm = 2 then 0 else if ssm = 4 then 2 else if ssm = 8 then 3 else if ssm = 11 then 5 else 7
def rankGrade (g : Nat) : Nat := if g = 1 then 2 else if g = 2 then 4 else if g = 0 then 6 else 7

/-- The rank of a candidate (R287). -/
def candRank (s : State) (i : Nat) : Nat :=
  let q := s.fget (REF_CAND_QIN_CLASS_SSM i)
  let p := s.fget (REF_CAND_AUX_PORT i)
  if s.on (REF_CAND_CFG_QSRC i) ∨ isWck i ∨ 14 ≤ i then s.fget (REF_CAND_CFG_SW_Q i)
  else if isPtp i then min 7 (rankPtp q + b2n (decide (0x23 < s.fget (REF_CAND_QIN_ACC i))))
  else if isSynce i then rankSsm (q % 16)
  else rankGrade (if p < 48 then s.fget (PRT_AES_STATUS_GRADE p) else 0)

/-- The order of R288: by rank, then PRIO, then index. -/
def candKey (s : State) (i : Nat) : Nat := candRank s i * 256 + s.fget (REF_CAND_CFG_PRIO i) * 16 + i

def bestCand (s : State) : Nat :=
  (List.range 16).foldl (fun b i => if s.cst i = cAvail ∧ candKey s i < candKey s b then i else b) 15

def wtrCounts (s : State) : Nat := min 600 (s.fget REF_SW_CFG_WTR_S) * 500000000
def dispSecs (s : State) : Nat := max 1 (s.fget REF_DISP_CFG_DISP_S)

def toWtr (s : State) (i : Nat) : State :=
  (setCst s i cWtr 0).setCand i { s.cand i with wtrAt := s.tmb.c, dispS := 0, agreeS := 0 }

/-- REF_CAND_FREQ is 0 while a candidate fails on SIGNAL. -/
def zeroFreq (s : State) (i : Nat) : State := s.when (failReason s i == some 1) fun s => s.wr (REF_CAND_FREQ i) 0

/-- What a candidate's state becomes at a tick start (R286, R289). -/
def candTick (s : State) (i : Nat) : State :=
  let st := s.cst i
  let s := zeroFreq s i
  if i = 15 then s
  else if ¬ s.on (REF_CAND_CFG_EN i) then setCst s i cDisabled 0
  else if st = cDisabled then setCst s i cFailed ((failReason s i).getD 0)
  else match failReason s i with
    | some r => (setCst s i cFailed r).fset (REF_CAND_STATUS_DISPUTED i) 0
    | none =>
      if st = cFailed then toWtr s i
      else if st = cWtr ∧ wtrCounts s = 0 then setCst s i cAvail 0
      else if st = cSuspect ∧ dispSecs s ≤ (s.cand i).agreeS then toWtr s i
      else s

/-- A write of REF_CAND_CFG changes EN (Table 11.4). -/
def candEnable (s : State) (i : Nat) (was : Bool) : State :=
  if i = 15 then s.fset (REF_CAND_CFG_EN i) 1
  else if ¬ s.on (REF_CAND_CFG_EN i) then (setCst s i cDisabled 0).fset (REF_CAND_STATUS_DISPUTED i) 0
  else if was then s
  else setCst s i cFailed ((failReason s i).getD 0)

/-- WTR: the wait to restore of a candidate ends. -/
def execWtr (cand : Nat) (s : State) : Host.Outcome State Fault Refusal :=
  done (decide (cand < 15))
    (s.when (s.lead && s.cst cand == cWtr && decide ((s.cand cand).wtrAt + wtrCounts s ≤ s.tmb.c) && (failReason s cand).isNone)
      (setCst · cand cAvail 0))

/-! ## History (R298, R299) -/

/-- f_H: the mean of the most recent entries but the last two; 0 while there is none. -/
def holdEstimate (s : State) : Int :=
  let m := min (clampN 10 1000 (s.fget REF_HOLD_CFG_HOLD_AVG)) (s.ref.hist.length - 2)
  if m = 0 then 0 else ((s.ref.hist.drop 2).take m).sum / m

def showHist (s : State) : State :=
  let n := s.ref.hist.length
  ((s.fset REF_STATUS_HIST_S n).fset REF_STATUS_HIST_OK (b2n (decide (60 ≤ n)))).set64 REF_HOLD_FFO (uns 64 (holdEstimate s))

/-- REF_CTRL.HIST_CLR. -/
def histClr (s : State) : State := showHist { s with ref := { s.ref with hist := [] } }

/-- REF_CTRL.SUSP_CLR. -/
def suspClr (s : State) : State := s.each (List.range 15) fun s i => s.when (s.cst i == cSuspect) (toWtr · i)

/-! ## Selection and the loop at a tick start (R290 to R297, R301, R302) -/

def lFree : Nat := 0
def lAcq : Nat := 1
def lLocked : Nat := 2
def lHold : Nat := 3

def State.loop (s : State) : Nat := s.fget REF_STATUS_LOOP
def State.sel (s : State) : Nat := s.fget REF_STATUS_SEL

/-- ±500 ppm in units of 2^-48 (R294). -/
def ffoMax : Int := 140737488355
def clipFfo (y : Int) : Int := max (-ffoMax) (min ffoMax y)

/-- Range and default of the bandwidth in mHz (Table 11.5). -/
def bwRange (i : Nat) : Nat × Nat × Nat :=
  if isPtp i then (10, 4000, 100) else if isSynce i then (1000, 10000, 3000) else if isWck i then (500, 50000, 10000)
  else if isDars i then (500, 20000, 5000) else (1, 1000, 50)

/-- B in force for a candidate (R295, R296). -/
def bandwidth (s : State) (i : Nat) : Nat :=
  let r := bwRange i
  let b := s.fget (REF_CAND_CFG_BW_MHZ i)
  if s.loop = lAcq then r.2.1 else if b = 0 then r.2.2 else clampN r.1 r.2.1 b

/-- e of a candidate at a tick start (R291). -/
def candErr (s : State) (i : Nat) : Int :=
  if isPtp i then domTime s i (tsOf s.sch.ck 0) + s.beta - mu s (tsOf s.sch.ck 0) else (s.cand i).e

/-- Entry to HOLDOVER (R299): y holds f_H, or I with less history. -/
def enterHoldover (s : State) : State :=
  let s := s.fset REF_STATUS_LOOP lHold
  let s := s.when (!s.on REF_CTRL_OPEN) fun s => setY s (clipFfo (if 12 ≤ s.ref.hist.length then holdEstimate s else s.ref.integ))
  raise (s.count REF_EVT_CNT_HOLDOVERS 1) (srcOf 55 4) 0

/-- The loop state after the selection of `y` (Table 11.6). -/
def loopSelect (s : State) (y : Nat) : State :=
  let l := s.loop
  if l = lFree ∧ y ≠ 15 then
    (let s := s.fset REF_STATUS_LOOP lAcq
     { s with ref := { s.ref with acqEdge := true, lockAt := none } })
  else if l = lAcq ∧ y = 15 then
    (let s := s.fset REF_STATUS_LOOP lFree
     let s := s.when (!s.on REF_CTRL_OPEN) (setY · 0)
     { s with ref := { s.ref with acqEdge := false, lockAt := none } })
  else if l = lLocked ∧ y = 15 then enterHoldover s
  else if l = lHold ∧ y ≠ 15 then
    (let s := s.fset REF_STATUS_LOOP lLocked
     { s with ref := { s.ref with integ := s.refY } })
  else s

/-- The switch to `y`, once the anchor has changed (R292, R293). -/
def switchTo (s : State) (y : Nat) (anchored : Bool) : State :=
  let old := s.sel
  let lost := s.cst old == cFailed
  let s := raise (s.count REF_EVT_CNT_SWITCHES 1) (srcOf 55 2) (plain 0 y 0 0)
  let s := s.when lost fun s => raise s (srcOf 55 3) (plain 0 old 0 0)
  let s := s.fset REF_STATUS_SEL y
  let s := s.when (isSynce y) fun s => s.setCand y { s.cand y with e := 0 }
  let s := loopSelect s y
  let phi := if s.loop = lLocked then candErr s y else 0
  let s := setPhi s phi
  let s := { s with ref := { s.ref with phi0 := phi, anchorSwitch := anchored, lockAt := none } }
  s.fset REF_STATUS_SWITCHING 1

/-- Select `y`: a PTP candidate of the other domain asks for an anchor change, and a refusal makes it SUSPECT. -/
def selectCand (s : State) (y : Nat) : State × Bool :=
  if y = s.sel then (s, true)
  else if isPtp y ∧ s.anchor ≠ y then
    (let refused := anchorRefused s y
     let s := setAnchor s y
     if refused then ((setCst s y cSuspect 6).setCand y { s.cand y with agreeS := 0 }, false) else (switchTo s y true, true))
  else (switchTo s y false, true)

/-- Steps 1 to 3 of R290. A refused candidate leaves the next in order. -/
def selectionGo : Nat → State → State
  | 0, s => s
  | fuel + 1, s =>
    let sel := s.sel
    let f := s.fget REF_CTRL_FORCE
    let b := bestCand s
    let st := s.cst sel
    if s.on REF_CTRL_FORCE_EN ∧ s.cst f ≠ cFailed ∧ s.cst f ≠ cDisabled then (selectCand s f).1
    else if st = cFailed ∨ st = cSuspect ∨ st = cDisabled then
      (let r := selectCand s b
       if r.2 then r.1 else selectionGo fuel r.1)
    else if ¬ s.on REF_STATUS_SWITCHING ∧ b ≠ sel ∧
        ¬ (s.on (REF_CAND_STATUS_DISPUTED b) ∧ s.on (REF_CAND_STATUS_DISPUTED sel)) then
      (let r := selectCand s b
       if r.2 then r.1 else selectionGo fuel r.1)
    else s

/-- σ and the step of φ_B toward 0 (R292). -/
def slewPhi (s : State) : State :=
  let phi := s.phiB
  let fs := fsM s
  let sec := max 1 (s.fget REF_SW_CFG_SW_SLEW_S)
  let ppb := clampN 100 4000 (s.fget REF_SW_CFG_SW_MAX_PPB)
  if phi = 0 then s
  else setPhi s (slewStep phi s.ref.phi0 (max 1 (sec * fs / s.tlen)) (ppb * s.tlen * 65536 / fs))

/-- SWITCHING ends once the build-out, and the slew of a changed anchor, are done (R293). -/
def endSwitching (s : State) : State :=
  s.when (s.on REF_STATUS_SWITCHING && s.phiB == 0 && !(s.ref.anchorSwitch && s.on TMB_MEDIA_STATUS_SLEWING))
    (·.fset REF_STATUS_SWITCHING 0)

/-- The PTP candidate that a SyncE candidate is hybrid with (R295). -/
def hybridOf (s : State) : Option Nat :=
  let i := s.sel
  let d := s.fget (REF_CAND_CFG_HYB_DOM i)
  if isSynce i ∧ s.on (REF_CAND_CFG_HYBRID i) ∧ s.cst d ≠ cFailed ∧ s.cst d ≠ cDisabled then some d else none

/-- π in units of 2^-64. -/
def piUnits : Int := 0x3243F6A8885A308D3

/-- K_p × e' of R294 for a bandwidth in mHz, in units of 2^-48: K_p is 4πB / 2.482. -/
def termP (b : Nat) (e : Int) : Int := 4 * piUnits * b * e * 2 ^ 48 / (2482 * unitsPerSec * 2 ^ 64)

/-- K_i × τ × e' of R294, in units of 2^-48: K_i is the square of 2πB / 2.482. -/
def termI (b tlen fs : Nat) (e : Int) : Int :=
  (2 * piUnits * b) ^ 2 * tlen * e * 2 ^ 48 / (2482 ^ 2 * 2 ^ 128 * fs * unitsPerSec)

/-- How far, in units of 2^-48, a term may lie from its value where e', the gains and τ keep 48 fractional bits: the
roundings of the factors are carried by K_p (at most b / 197 + 1), K_i (at most b² / 156,000 + 1) and e' in seconds. -/
def roundMax (b : Nat) (e : Int) : Int :=
  ((4 + b / 197 + b * b / 156000) * (2 + e.natAbs / unitsPerSec.natAbs) : Nat)

/-- A term with a rounding that R294 leaves open, within those limits. -/
def rounded (s : State) (b : Nat) (e v : Int) : Int × State :=
  let (r, s) := s.draw Config.loopRound
  (v + max (-roundMax b e) (min (roundMax b e) r), s)

/-- The loop filter (R294, R301): y = K_p × e' + I, then I moves by K_i × τ × e'. A hybrid candidate adds the e' term of its
PTP candidate with that one's gain (R295). -/
def loopFilter (s : State) (e : Int) : State :=
  let running := s.loop == lAcq || s.loop == lLocked
  if s.on REF_CTRL_OPEN ∨ ¬ running then s
  else
    let b := bandwidth s s.sel
    let (p, s) := rounded s b e (termP b e)
    let (d, s) := rounded s b e (termI b s.tlen (fsM s) e)
    let (h, s) := match hybridOf s with
      | some i =>
        let e' := candErr s i - s.phiB
        rounded s (bandwidth s i) e' (termP (bandwidth s i) e')
      | none => (0, s)
    let i := s.ref.integ
    setY { s with ref := { s.ref with integ := i + d } } (clipFfo (p + h + i))

/-- The lock detector and LOCK_ERR (R296, R297). -/
def lockLook (s : State) (e : Int) : State :=
  let lim := max 1 (s.fget REF_HOLD_CFG_LOCK_NS) * 65536
  let near := decide (e.natAbs < lim)
  let far := s.loop == lLocked && decide (16 * lim < e.natAbs)
  let rose := far && !s.on REF_STATUS_LOCK_ERR
  let since : Option Nat := if s.loop = lAcq ∧ near then some (s.ref.lockAt.getD s.tmb.c) else none
  let s := { s with ref := { s.ref with lockAt := since } }
  let s := s.fset REF_STATUS_LOCK_ERR (b2n far)
  s.when rose fun s => raise s (srcOf 55 5) (plain 0 s.sel 0 0)

/-- The selection at a tick end, whose outcome both chips of a joined pair take at the next tick start (R302, R320). A
candidate state travels with its reason and DISPUTED, as STATE + 8 × REASON + 128 × DISPUTED. -/
def refDecide (s : State) (r : TickRec) : State × TickRec :=
  let s0 := s.when s.ref.lockPend (·.fset REF_STATUS_LOOP lLocked)
  let t := selectionGo 4 (s0.each (List.range 16) candTick)
  let t := t.when (t.sel == s.sel) slewPhi
  let refused := (List.range 2).filter fun i => t.cst i == cSuspect && s.cst i != cSuspect &&
    t.fget (REF_CAND_STATUS_REASON i) == 6
  let state := fun i =>
    (i, t.cst i + 8 * t.fget (REF_CAND_STATUS_REASON i) + 128 * t.fget (REF_CAND_STATUS_DISPUTED i))
  ({ s with ref := { s.ref with lockPend := false, cands := t.ref.cands } },
   { r with
     refSel := t.sel, refLoop := t.loop, refPhi := BitVec.ofInt 64 t.phiB, refI := BitVec.ofInt 64 t.ref.integ
     candStates := (List.range 15).map state, refPhi0 := BitVec.ofInt 64 t.ref.phi0, refAnchorSw := t.ref.anchorSwitch
     refRefused := refused })

/-- What both chips took from the lead (R302). -/
def refFollow (s : State) (r : TickRec) : State :=
  let s := s.each r.candStates fun s e => s.when (decide (e.1 < 15)) fun s =>
    (setCst s e.1 (e.2 % 8) (e.2 / 8 % 16)).fset (REF_CAND_STATUS_DISPUTED e.1) (e.2 / 128)
  let s := s.each (List.range 15) zeroFreq
  let s := s.each r.refRefused fun s y => raise (s.fset TMB_MEDIA_STATUS_SW_REFUSED 1) (srcOf 55 0) (plain 0 y 0 0)
  let moved := s.sel != r.refSel
  let lost := s.cst s.sel == cFailed
  let s := s.when moved fun s => raise (s.count REF_EVT_CNT_SWITCHES 1) (srcOf 55 2) (plain 0 r.refSel 0 0)
  let s := s.when (moved && lost) fun s => raise s (srcOf 55 3) (plain 0 s.sel 0 0)
  let s := s.fset REF_STATUS_SEL r.refSel
  let s := s.when (moved && isSynce r.refSel) fun s => s.setCand r.refSel { s.cand r.refSel with e := 0 }
  let s := s.when (moved && isPtp r.refSel && s.anchor != r.refSel) fun s => setAnchor s r.refSel
  let s := s.when (r.refLoop == lHold && s.loop != lHold) enterHoldover
  let s := s.when (r.refLoop == lAcq && s.loop == lFree) fun s => { s with ref := { s.ref with acqEdge := true } }
  let s := s.when (r.refLoop == lFree && s.loop == lAcq) fun s =>
    let s := s.when (!s.on REF_CTRL_OPEN) (setY · 0)
    { s with ref := { s.ref with acqEdge := false } }
  let s := s.when moved fun s => { s with ref := { s.ref with lockAt := none } }
  let s := s.fset REF_STATUS_LOOP r.refLoop
  let s := setPhi s r.refPhi.toInt
  let s := s.fset REF_STATUS_SWITCHING (b2n (moved || r.refPhi != 0 || s.on REF_STATUS_SWITCHING))
  { s with ref := { s.ref with
    integ := r.refI.toInt, phi0 := r.refPhi0.toInt, anchorSwitch := r.refAnchorSw } }

/-- The loop closes again (R301); y is 0 in FREERUN (Table 11.6). -/
def closeLoop (s : State) : State :=
  let o := s.on REF_CTRL_OPEN
  let s := s.when (s.ref.wasOpen && !o) fun s =>
    let phi := if s.loop = lLocked ∧ s.sel ≠ 15 then candErr s s.sel else 0
    let s := setPhi (s.when (s.loop == lFree) (setY · 0)) phi
    { s with ref := { s.ref with integ := s.refY, phi0 := phi } }
  { s with ref := { s.ref with wasOpen := o } }

/-- Everything reference selection does at a tick start. The chips of a joined pair take the lead's last record. -/
def refTick (s : State) (follow : Option TickRec) : State :=
  let sel0 := s.sel
  let s := s.when (isSynce sel0) fun s =>
    let (e, s) := s.draw Config.syncPhase
    s.setCand sel0 { s.cand sel0 with e := e }
  let s := match follow with
    | some r => refFollow s r
    | none => if s.lead then selectionGo 4 (s.each (List.range 16) candTick) else s
  let moved := s.sel != sel0
  let s := closeLoop s
  let s := s.when (!moved && follow.isNone) slewPhi
  let s := endSwitching s
  let e := if s.sel = 15 then 0 else candErr s s.sel - s.phiB
  let s := s.set64 REF_PD_ERR (uns 64 e)
  let s := s.fset REF_STATUS_HYBRID (b2n (hybridOf s).isSome)
  let s := lockLook (loopFilter s e) e
  let bad := s.loop != lLocked || s.on REF_CTRL_OPEN || s.on REF_STATUS_SWITCHING
  let r := s.ref
  { s with ref := { r with ySum := r.ySum + s.refY, yN := r.yN + 1, yBad := r.yBad || bad } }

/-- LOCK: |e'| has stayed below LOCK_NS for 2 s (R296); N_VALID rises at the next M edge (N_VALID_RISE). -/
def execLock (s : State) : Host.Outcome State Fault Refusal :=
  let ok : Bool := match s.ref.lockAt with
    | some t => s.loop == lAcq && decide (t + 1000000000 ≤ s.tmb.c)
    | none => false
  done true (s.when (ok && s.lead) fun s =>
    let s := { s with ref := { s.ref with lockAt := none } }
    if s.defers then { s with ref := { s.ref with lockPend := true } } else s.fset REF_STATUS_LOOP lLocked)

/-! ## Each second (R286, R298, R300) -/

/-- Disagreement of a candidate with the selected one. -/
def disagree (s : State) (i : Nat) : Bool :=
  decide (max 10 (s.fget REF_DISP_CFG_DISP_PPB) * 2 ^ 40 < (s.candFreq i - s.candFreq s.sel).natAbs * 1000000000)

/-- The seconds of agreement or disagreement with the selected candidate, as they count for R289 and R300. -/
def disputeSecond (s : State) (i : Nat) : State :=
  let c := s.cand i
  let st := s.cst i
  let same := candRank s i == candRank s s.sel
  if i = s.sel then s
  else if (st = cAvail ∧ same) ∨ st = cSuspect then
    s.setCand i (if disagree s i then { c with dispS := c.dispS + 1, agreeS := 0 } else { c with dispS := 0, agreeS := c.agreeS + 1 })
  else s.setCand i { c with dispS := 0, agreeS := 0 }

/-- DISPUTED clears after DISP_S seconds of agreement: of a candidate with the selected one, and of the selected one with
every candidate that still has it. -/
def clearDisputes (s : State) : State :=
  let s := s.each (List.range 15) fun s i =>
    s.when (i != s.sel && decide (dispSecs s ≤ (s.cand i).agreeS)) (·.fset (REF_CAND_STATUS_DISPUTED i) 0)
  let other := (List.range 15).any fun i => i != s.sel && s.on (REF_CAND_STATUS_DISPUTED i)
  s.when (!other) (·.fset (REF_CAND_STATUS_DISPUTED s.sel) 0)

/-- HISTORY_SECOND: a second ends, with the frequency offsets measured over it. -/
def execHistorySecond (freqs : List (Nat × W32)) (s : State) : Host.Outcome State Fault Refusal :=
  let s1 := s.each freqs fun s e => s.wr (REF_CAND_FREQ e.1) (if failReason s e.1 = some 1 then 0 else e.2)
  let r := s1.ref
  let store := decide (0 < r.yN) && !r.yBad && s1.loop == lLocked && !s1.on REF_CTRL_OPEN && !s1.on REF_STATUS_SWITCHING
  let hist := if store then (r.ySum / r.yN :: r.hist).take 1023 else r.hist
  let s2 := showHist { s1 with ref := { r with hist := hist, ySum := 0, yN := 0, yBad := false } }
  done (freqs.all fun e => decide (e.1 < 15)) (clearDisputes (s2.each (List.range 15) disputeSecond))

/-- DISPUTE: candidate `cand` and the selected one have disagreed for DISP_S seconds (R300). -/
def execDispute (cand : Nat) (s : State) : Host.Outcome State Fault Refusal :=
  let sel := s.sel
  let due := s.lead && cand != sel && sel != 15 && s.cst cand == cAvail && candRank s cand == candRank s sel &&
    decide (dispSecs s ≤ (s.cand cand).dispS) &&
    !(s.on (REF_CAND_STATUS_DISPUTED cand) && s.on (REF_CAND_STATUS_DISPUTED sel))
  let fh := holdEstimate s
  let far := fun i => (s.candFreq i * 256 - fh).natAbs
  let out := if s.on REF_STATUS_HIST_OK then
      (let d := if far cand < far sel then sel else cand
       (setCst s d cSuspect 5).setCand d { s.cand d with dispS := 0, agreeS := 0 })
    else (s.fset (REF_CAND_STATUS_DISPUTED cand) 1).fset (REF_CAND_STATUS_DISPUTED sel) 1
  done (decide (cand < 15)) (s.when due fun _ => raise out (srcOf 55 6) (plain 0 cand 0 0))

/-! ## Opening the loop (R301) -/

/-- A write of REF_DCO_FFO. -/
def writeFfo (s : State) (v : W64) : State := if s.on REF_CTRL_OPEN then setY s (clipFfo v.toInt) else regAccess s 3 REF_DCO_FFO

/-! ## Edges (R182, R282, R291) -/

/-- e at an accepted edge, for a grid of `rate` instants a second. -/
def edgeErr (s : State) (i rate ts : Nat) : Int :=
  let m := mu s ((ts : Int) - 65536 * sgn 16 (s.fget (REF_CAND_AUX_OFS_NS i)))
  let j := (2 * m * rate + unitsPerSec) / (2 * unitsPerSec)
  j * unitsPerSec / rate - m

def noteEdge (s : State) (i rate ts : Nat) : State :=
  if rate = 0 then s else s.setCand i { s.cand i with e := edgeErr s i rate ts }

/-- Rate of a word clock candidate: L, M or F; the reserved code names none. -/
def wckRate (s : State) (i : Nat) : Nat :=
  let r := s.fget (REF_CAND_AUX_RATE i)
  if r = 3 then 0 else fsM s * 2 ^ r / 2

/-- One more missing or ignored edge; the fourth in a row declares the loss and discards the period. A missing edge leaves its
expected place to count from, an ignored one leaves the last (R182). -/
def wckMiss (c : Cand) (ignored : Bool) : Cand :=
  if c.missing = 4 then { c with inPlace := 0 }
  else if c.missing = 3 then { c with missing := 4, inPlace := 0, period := 0, lastTs := none }
  else { c with missing := c.missing + 1, lastTs := if ignored then c.lastTs else c.lastTs.map (· + c.period) }

/-- WORD_CLOCK_EDGE: an edge on WCK0 to WCK3, or one that is missing. -/
def wckEdge (s : State) (i : Nat) (present : Bool) (ts : Nat) : State :=
  let c := s.cand i
  let lost := c.missing == 4
  if ¬ present then s.setCand i (wckMiss c false)
  else match c.lastTs with
    | none => s.setCand i { c with lastTs := some ts, inPlace := 0 }
    | some l =>
      let d := ts - l
      if c.period = 0 then s.setCand i { c with lastTs := some ts, period := d, inPlace := 0 }
      else if 16 * d ≤ 17 * c.period ∧ 15 * c.period ≤ 16 * d then
        (let n := c.inPlace + 1
         let back := lost && decide (16 ≤ n)
         let s := s.setCand i { c with
           lastTs := some ts, period := d, inPlace := if lost ∧ ¬ back then n else 0
           missing := if lost ∧ ¬ back then 4 else 0 }
         noteEdge s i (wckRate s i) ts)
      else if lost then s.setCand i { c with lastTs := some ts, period := 0, inPlace := 0 }
      else s.setCand i (wckMiss c true)

def execWordClockEdge (wck : Nat) (present : Bool) (c phase : Nat) (s : State) : Host.Outcome State Fault Refusal :=
  done (decide (wck < 4) && decide (c < 2 ^ 64) && decide (phase < 2 ^ 17))
    (wckEdge (advance s c) (8 + wck) present (tsOf c phase))

/-- PPS_IN: an edge of the set polarity, with the width of the pulse it begins in ns (R282). -/
def execPpsIn (c phase width : Nat) (s : State) : Host.Outcome State Fault Refusal :=
  let s1 := advance s c
  let apart : Bool := match s1.tmb.ppsInLast with
    | some l => decide (l + 250000000 ≤ s1.tmb.c)
    | none => true
  let ok := decide (s1.fget TMB_PPS_IN_CFG_FILT * 10 ≤ width) && apart
  let taken := noteEdge ((s1.set64 TMB_PPS_IN_CNT s1.tmb.c).fset TMB_PPS_IN_STATUS_NEW 1) 14 1 (tsOf c phase)
  done (decide (c < 2 ^ 64) && decide (phase < 2 ^ 17))
    (if ¬ s1.on TMB_PPS_IN_CFG_EN then s1
     else if ok then { taken with tmb := { taken.tmb with ppsInLast := some taken.tmb.c } }
     else s1.count TMB_PPS_IN_STATUS_IGN 1)

/-- The frame rate of a DARS port: its domain's where the measured rate fits one. -/
def darsRate (s : State) (p : Nat) : Nat :=
  let r := rxRate s p
  match rateDom s r with
  | some d => fsM s * 2 ^ d / 2
  | none => r.1 / r.2

/-- CS_BLOCK: a channel-status block of subframe `sub` that began at a counter time; the reference selector gets the time
of each block start (R166, R167, R291). -/
def execCsBlock (port sub : Nat) (bytes : List Byte) (c phase : Nat) (s : State) : Host.Outcome State Fault Refusal :=
  let s1 := advance s c
  let s2 := s1.when (s1.mode port == mAes && s1.pst port != stOff) fun s => csBlock s port sub bytes
  let s3 := s2.when (sub == 0 && s2.mode port == mAes) fun s =>
    let s := s.setPort port { s.port port with blockTs := tsOf c phase }
    s.each [12, 13] fun s i => s.when (s.fget (REF_CAND_AUX_PORT i) == port) fun s => noteEdge s i (darsRate s port) (tsOf c phase)
  done (decide (port < 48) && decide (sub < 2) && bytes.length == 24 && decide (c < 2 ^ 64) && decide (phase < 2 ^ 17))
    s3

end Sys2Proof.Machine
end

