-- ==== Sys2Proof/Machine/Twin.lean ====
section
/-! DEFINITION. Machine/Twin.lean: entering the fault state (R392, R393), handovers (R324, R325, R329), the pair states
(R315 to R319), TICK records and their comparison (R320, R322, R323, R326) and the loss of the peer (R328). -/

namespace Sys2Proof.Machine

/-! ## Pair state -/

def pDown : Nat := 0
def pJoining : Nat := 1
def pSettling : Nat := 2
def pInStep : Nat := 3
def pDisputed : Nat := 4
def pDetached : Nat := 5

def State.pair (s : State) : Nat := s.fget TWN_STATUS_PAIR

def setPair (s : State) (p : Nat) : State :=
  ((s.fset TWN_STATUS_PAIR p).fset TWN_STATUS_WHY 0).fset TWN_STATUS_PRESENT (b2n (p == pInStep))

/-- A twin frame (Table 12.4). -/
def twinFrame (s : State) (type : Nat) (payload : List Byte) : List Byte :=
  let l := leBytes 1 type ++ leBytes 1 (b2n s.lead) ++ leBytes 2 payload.length ++ leBytes 8 s.k ++
    leBytes 4 (Tbl.get 0 s.twin.seqs type).toNat ++ payload
  l ++ leBytes 4 (crc32c l).toNat

/-- A frame goes out on both lanes. -/
def twinSend (s : State) (type : Nat) (payload : List Byte) : State :=
  { s with twin := { s.twin with
    sent := twinFrame s type payload :: s.twin.sent
    seqs := Tbl.put 0 s.twin.seqs type (Tbl.get 0 s.twin.seqs type + 1) } }

/-- This LEAD's peer is detached: the pair is no more, and AUTO_RST sends WRESET (R326). -/
def peerOut (s : State) (why : Nat) : State :=
  let s := detachPair s why
  s.when (s.on TWN_CFG_AUTO_RST) (twinSend · 8 [])

/-! ## The fault state (R392, R393) -/

def State.faulted (s : State) : Bool := s.fget FLT_STATUS_STATE != 0

/-- FAULT is entered: safe state begins. -/
def goFault (s : State) (entry : Nat) : State :=
  if s.faulted then s
  else
    let s := (s.fset FLT_STATUS_STATE 1).fset FLT_STATUS_ENTRY entry
    (restartQuiet s).each (List.range 48) flueSafe

/-- A fault state that waited for its handover. -/
def pendingFault (s : State) : State := match s.flt.entry with
  | some e => goFault { s with flt := { s.flt with entry := none } } e
  | none => s

/-! ## Handovers (R324, R325, R329) -/

/-- The first multiple of 3,072 that lies at least 2 µs after FCLK count `f`. -/
def nextH (s : State) (f : Nat) : Nat := 3072 * ceilDiv (f + ceilDiv (2 * 4096 * fsM s) 1000000) 3072

/-- A TWIN_SWAP that is scheduled, or whose handover is under way, completes ABORTED. -/
def abortSwap (s : State) : State :=
  let s := abortHeld s fun h => h.sched && h.op == .twinSwap
  match s.twin.swapCmd with
  | some h => finishCmd { s with twin := { s.twin with swapCmd := none } } h.hdr h.late stAborted 0
  | none => s

def endSwap (s : State) (h : Nat) : State :=
  match s.twin.swapCmd with
  | some c => finishCmd { s with twin := { s.twin with swapCmd := none } } c.hdr c.late stOk (h / 4096)
  | none => s

def sendHandover (s : State) (r : HandoverReq) : State :=
  twinSend { s with twin := { s.twin with handover := some r } } 4 (leBytes 8 r.h)

/-- The LEAD begins a handover; one for a conviction, an escalation or the fault state ends a TWIN_SWAP. -/
def startHandover (s : State) (why h : Nat) : State :=
  let s := s.when (decide (why < 3)) abortSwap
  sendHandover s ⟨h, 1, false, why⟩

/-- A conviction, an escalation or the fault state hands over, unless such a handover is under way. -/
def handOut (s : State) (why : Nat) : State :=
  if s.twin.handover.any fun r => decide (r.why < 3) then s else startHandover s why (nextH s (fclkNow s))

/-- The LEAD releases the balls of a handover at H, and is SHADOW from then on. -/
def release (s : State) (h : Nat) : State :=
  ((s.count TWN_CNT0_HANDOVERS 1).fset TWN_STATUS_ROLE 1).set64 TWN_HO_FCLK h

/-- The LEAD releases its balls at H: the roles change. -/
def releaseLead (s : State) (r : HandoverReq) : State :=
  let s := release s r.h
  if r.why < 3 then pendingFault (detachPair s 1)
  else if r.why = 3 then endSwap s r.h
  else setPair s pJoining

/-- HANDOVER_INSTANT: H of the pending handover is reached, or the instant at which a fenced LEAD releases (R328). -/
def handoverInstant (s : State) : State :=
  match s.twin.handover with
  | some r =>
    let s := { s with twin := { s.twin with handover := none } }
    if r.acked then releaseLead s r
    else if r.sends < 3 then sendHandover s { r with h := nextH s (max r.h (fclkNow s)), sends := r.sends + 1 }
    else if r.why < 3 then releaseLead s r
    else if r.why = 3 then raise (abortSwap s) (srcOf 56 4) 0
    else s
  | none => match s.twin.fenceAt with
    | none => s
    | some f => pendingFault (detachPair (release { s with twin := { s.twin with fenceAt := none } } (f - 3072)) 2)

def execHandoverInstant (s : State) : Host.Outcome State Fault Refusal := done true (handoverInstant s)

/-- HANDOVER from the LEAD: the SHADOW acknowledges it and drives from H − 1. -/
def execHandover (hc : W64) (s : State) : Host.Outcome State Fault Refusal :=
  done true (if ¬ s.on TWN_CFG_EN ∨ s.pair = pDown ∨ s.pair = pDetached then s
    else
      let s := twinSend s 5 (leBytes 8 hc.toNat)
      if s.lead then s else { s with twin := { s.twin with driving := true, drivingH := hc.toNat } })

/-- The FCLK count 1 µs before H, after which an ACK comes too late. -/
def ackBy (s : State) (h : Nat) : Nat := h - ceilDiv (4096 * fsM s) 1000000

/-- ACK of a HANDOVER for `hc`; it counts where it comes by H − 1 µs (R325). -/
def execAck (hc : W64) (s : State) : Host.Outcome State Fault Refusal :=
  done true (match s.twin.handover with
    | some r => if r.h = hc.toNat ∧ fclkNow s ≤ ackBy s r.h then { s with twin := { s.twin with handover := some { r with acked := true } } } else s
    | none => s)

/-- A SHADOW takes the LEAD role; `out` where its peer is not in the pair any more. -/
def becomeLead (s : State) (out : Bool) : State :=
  let h := s.twin.drivingH
  let s := ((s.count TWN_CNT0_HANDOVERS 1).fset TWN_STATUS_ROLE 0).set64 TWN_HO_FCLK h
  let s := { s with twin := { s.twin with driving := false, leadOut := false } }
  if out then peerOut (abortSwap s) 1 else endSwap s h

/-- Rung TWIN and R393 ask for a handover: none where the pair is not IN_STEP, or one has begun (R327, R391). -/
def escalateTwin (s : State) : Option State :=
  if ¬ s.on TWN_CFG_EN ∨ ¬ s.lead ∨ s.pair ≠ pInStep ∨ s.twin.handover.any (fun r => decide (r.why < 3)) then none
  else some (handOut s 1)

/-- The chip enters FAULT for the reason `entry`: a LEAD in step once it has handed over, a SHADOW once it has left the
pair (R393). -/
def enterFault (s : State) (entry : Nat) : State :=
  if s.faulted then s
  else if ¬ s.on TWN_CFG_EN then goFault s entry
  else if s.lead then
    (if s.pair = pInStep then
      handOut { s with flt := { s.flt with entry := some (s.flt.entry.getD entry) } } 2
     else goFault s entry)
  else if pJoining ≤ s.pair ∧ s.pair ≤ pDisputed then goFault (detachPair s 1) entry
  else goFault s entry

/-- TWIN_SWAP when scheduled. -/
def schedTwinSwap (s : State) : Result := if s.on TWN_CFG_EN ∧ s.pair = pInStep then stOk else { status := 5 }

/-- TWIN_SWAP at n_x: the handover at the first multiple of 3,072 at or after 4,096 n_x. False where it has ended. -/
def effTwinSwap (s : State) (c : Held) : State × Bool :=
  if ¬ s.on TWN_CFG_EN ∨ s.pair ≠ pInStep then (finishCmd s c.hdr c.late stConflict 0, false)
  else
    let s := { s with twin := { s.twin with swapCmd := some c } }
    (if s.lead ∧ s.twin.handover = none then startHandover s 3 (3072 * ceilDiv (4096 * c.nx) 3072) else s, true)

/-! ## Joining (R316, R318, R319) -/

/-- The SerDes supplies and clocks let a lane come up (R410, R420), and the unit is out of reset. -/
def laneReady (s : State) : Bool :=
  !s.pwr.twinRst && !s.pwr.lowSupply.any (fun x => x == 3 || x == 4) && !s.pwr.lostClk.any fun b => b == 4 || b == 13

/-- TWIN_LINK_UP: the link comes up and the role is decided; `peerRun` is the peer's ENGINE_RUN. -/
def execTwinLinkUp (peerRun : Bool) (s : State) : Host.Outcome State Fault Refusal :=
  let s0 := s.when (laneReady s && s.fget TWN_STATUS_LANE_UP == 0) (·.fset TWN_STATUS_LANE_UP 3)
  let id := s0.fget TWN_STATUS_STRAP
  let run := s0.running
  let free := s0.pair == pDown || (s0.pair == pDetached && s0.lead)
  done true
    (if ¬ s0.on TWN_CFG_EN ∨ ¬ free ∨ ¬ laneReady s0 then s0
     else if run ∧ peerRun then
       (if id = 1 then startHandover (setPair s0 pJoining) 4 (nextH s0 (fclkNow s0))
        else setPair (s0.fset TWN_STATUS_ROLE 0) pJoining)
     else if run then setPair (s0.fset TWN_STATUS_ROLE 0) pJoining
     else if peerRun then setPair (s0.fset TWN_STATUS_ROLE 1) pJoining
     else setPair (s0.fset TWN_STATUS_ROLE id) pJoining)

/-- The bits of a register word that are RW fields. -/
def rwMask (off : Nat) : Nat := ((fieldsAt off).filter fun f => f.acc == .rw).foldl (fun m f => putBits m f.lo f.w (2 ^ f.w - 1)) 0

def maskedWord (old new : W32) (mask : Nat) : W32 := (old &&& ~~~(BitVec.ofNat 32 mask)) ||| (new &&& BitVec.ofNat 32 mask)

/-- The words that hold a parity bit (R397). -/
def parityWord (off : Nat) : Bool :=
  off == FLT_QUIET || off == FLT_REC || off == FLT_ESC || inSpan off (FLT_SRC_CFG 0) 0x2000 && off % 4 == 0

/-- A parity word is written: its parity is good; PARITY_ERR clears with the last failing word. -/
def parityWritten (s : State) (off : Nat) : State :=
  let l := s.flt.badParity.filter (· ≠ off)
  let s := { s with flt := { s.flt with badParity := l } }
  s.when (l == []) (·.fset FLT_STATUS_PARITY_ERR 0)

/-- Memories that a JOIN writes: clusters, the network buffer and the mix tables (Table 15.3). -/
def joinMem (a : Nat) : Bool :=
  (decide (clusterBase 0 ≤ a) && decide (a < delayBase)) || (decide (netBase ≤ a) && decide (a < slotStoreBase))

def joinItem (s : State) (i : JoinItem) : State :=
  match i with
  | .reg off v =>
    let block := off / 0x10000
    if block = 5 ∨ block = 6 ∨ block = 0xE ∨ off % 4 ≠ 0 then s
    else
      let t := s.wr off (maskedWord (s.rd off) v (rwMask off))
      if 0x100000 ≤ off ∧ off < 0x130000 ∧ off % 0x1000 = 0 then
        (let p := (off - 0x100000) / 0x1000
         modeChanged t p (s.mode p == mFlue))
      else if off = SCH_TICK_CFG then t.fset SCH_STATUS_TICK_ACT (t.fget SCH_TICK_CFG_TICK_LEN)
      else if off = HIF_CTRL then t.fset HIF_STATUS_RUN (t.fget HIF_CTRL_EN)
      else if parityWord off then parityWritten t off
      else t
  | .mem a bs => if joinMem a ∧ joinMem (a + (bs.length - 1)) then storeBytes s a bs else s
  | .cmd h op nx =>
    let s := match op with
      | .decFreeze c on => s.setChain c.toNat { s.chain c.toNat with frz := insertFreeze (nx.toNat, on == 1) (s.chain c.toNat).frz }
      | _ => s
    setHeld s (s.sch.held ++ [{ hdr := h, op := op, nx := nx.toNat, sched := true, words := heldWords s op }])
  | .ring a b c d e =>
    { s with hif := { s.hif with cmdHead := a, repHead := a, cplTail := b, evtTail := c, mtrTail := d, logTail := e } }
  | .image h st im =>
    match s.carrier h with
    | none => s
    | some c => setImgState (s.setCluster c { s.cluster c with image := some im }) c st h im.tMask.toNat im.id.toNat

/-- JOIN: what the LEAD copies to the SHADOW. -/
def execJoin (items : List JoinItem) (s : State) : Host.Outcome State Fault Refusal :=
  done true (if s.lead ∨ s.pair ≠ pJoining then s else s.each items joinItem)

/-- JOIN_COPY_DONE: the copy is complete and the LEAD has named J. -/
def execJoinCopyDone (j : W64) (s : State) : Host.Outcome State Fault Refusal :=
  done true (if s.pair = pJoining ∧ s.k + 2 ≤ j.toNat then { s with twin := { s.twin with joinTick := some j } } else s)

/-- The longest delay line of a running image, in ticks, rounded up. -/
def longestLine (s : State) : Nat :=
  ((allClusters.filter s.runs).flatMap fun c => match (s.cluster c).image with
    | some im => im.dlines.map fun d => ceilDiv d.len (max 1 (domWords s.tlen d.dom))
    | none => []).foldl max 0

/-- JOIN_TICK: the start of tick J. -/
def execJoinTick (s : State) : Host.Outcome State Fault Refusal :=
  let due : Bool := match s.twin.joinTick with
    | some j => s.pair == pJoining && decide (j.toNat ≤ s.k)
    | none => false
  done true (s.when due fun s =>
    { setPair s pSettling with twin := { s.twin with
      joinTick := none, agree := 0, inPair := 0, awaiting := false, peer := none, record := none, decisions := none
      settleFor := max (s.fget TWN_CFG_SETTLE) (longestLine s + 4) } })

def execSettled (s : State) : Host.Outcome State Fault Refusal :=
  done true (s.when (s.pair == pSettling && decide (64 ≤ s.twin.agree)) (setPair · pInStep))

def execJoinFail (s : State) : Host.Outcome State Fault Refusal :=
  done true (s.when (s.pair == pSettling && decide (65536 ≤ s.twin.inPair)) fun s =>
    if s.lead then peerOut s 4 else detachPair s 4)

def clearDispute (s : State) : State :=
  let s := setPair s pInStep
  { s with twin := { s.twin with disputed := 0 } }

def execDisputeCleared (s : State) : Host.Outcome State Fault Refusal :=
  done true (s.when (s.pair == pDisputed && decide (4096 ≤ s.twin.agree)) clearDispute)

/-! ## TWN_CTRL (Table 12.9) -/

def twinDetach (s : State) : State := s.when (!s.lead) (detachPair · 5)
def twinRejoin (s : State) : State := s.when (s.on TWN_CFG_EN && s.pair == pDetached) (setPair · pJoining)
def twinClear (s : State) : State := s.when (s.lead && s.pair == pDisputed) clearDispute

/-! ## Comparison (R323, R326) -/

def mismatch (a b : List W64) : BitVec 27 :=
  ((List.range 27).filter fun i => (a[i]?).getD 0 != (b[i]?).getD 0).foldl (fun m c => m ||| (1#27 <<< c)) 0

/-- One chip of the pair is convicted, the LEAD or the SHADOW. -/
def convictChip (s : State) (leadSide : Bool) : State :=
  if leadSide then (if s.lead then handOut s 0 else { s with twin := { s.twin with leadOut := true } })
  else if s.lead then peerOut s 1
  else detachPair s 1

/-- The hearths of mismatching classes are tested (R312). -/
def testClasses (s : State) (m : BitVec 27) : State :=
  s.each (allHearths.filter fun h => m.getLsbD h) fun s h => match s.carrier h with
    | some c => startTest s h c (s.inStepWith h)
    | none => s

/-- Table 12.5, for the evidence of the LEAD and of the SHADOW. -/
def twinVerdict (s : State) (m : BitVec 27) (eLead eShadow : Bool) : State :=
  match eLead, eShadow with
  | true, false => convictChip s true
  | false, true => convictChip s false
  | false, false =>
    let s := testClasses (setPair s pDisputed) m
    { s with twin := { s.twin with disputed := m, agree := 0 } }
  | true, true =>
    let s := raise (setPair s pDisputed) (srcOf 56 2) 0
    { s with twin := { s.twin with disputed := 0, agree := 0 } }

/-- The two records of one tick are compared. -/
def twinCompare (s : State) (own peer : TickRec) : State :=
  let m := mismatch own.sigs peer.sigs
  let t := s.twin
  let s := { s with twin := { t with
    awaiting := false, peer := none, peerDone := peer.doneIdx
    agree := if m ≠ 0 ∨ (s.pair = pSettling ∧ t.inPair < t.settleFor) then 0 else t.agree + 1 } }
  let s := s.when (m != 0) fun s =>
    let s := s.count TWN_CNT0_MISMATCH 1
    s.fset TWN_MISMATCH_MAP_CLASSES (s.fget TWN_MISMATCH_MAP_CLASSES ||| m.toNat)
  let lead := if s.lead then own else peer
  let shadow := if s.lead then peer else own
  if s.pair = pInStep ∧ m ≠ 0 then
    twinVerdict (raise s (srcOf 56 1) 0) m (lead.evidence &&& m != 0) (shadow.evidence &&& m != 0)
  else if s.pair = pDisputed ∧ s.twin.disputed ≠ 0 then
    (let d := s.twin.disputed
     match lead.evidence &&& d != 0, shadow.evidence &&& d != 0 with
     | true, false => convictChip s true
     | false, true => convictChip s false
     | _, _ => s)
  else s

/-- A SHADOW discards its records up to the LEAD's indices (R351). -/
def discardRecords (s : State) (r : TickRec) : State :=
  let dc := (r.cplIdx - s.hif.cplTail).toNat
  let de := (r.evtIdx - s.hif.evtTail).toNat
  let s := if dc < 2 ^ 31 then { s with hif := { s.hif with
    cpls := s.hif.cpls.drop dc, cplKept := s.hif.cplKept - dc, cplTail := r.cplIdx } } else s
  if de < 2 ^ 31 then { s with hif := { s.hif with events := s.hif.events.drop de, evtTail := r.evtIdx } } else s

/-- What the first record sent after H tells a SHADOW that drives (R325). -/
def checkDriving (s : State) (r : TickRec) : State :=
  if ¬ s.twin.driving ∨ 4096 * s.tlen * (r.k.toNat + 1) < s.twin.drivingH then s
  else if r.fromLead then { s with twin := { s.twin with driving := false } }
  else becomeLead s s.twin.leadOut

/-- TICK_RECORD: the peer's TICK frame. -/
def execTickRecord (r : TickRec) (s : State) : Host.Outcome State Fault Refusal :=
  done true
    (if ¬ s.on TWN_CFG_EN ∨ ¬ pairJoined s then s
     else
       let s := checkDriving s r
       let s := s.when (!s.lead && r.fromLead) fun s =>
         discardRecords { s with twin := { s.twin with decisions := some r } } r
       match s.twin.record with
       | some own =>
         if s.twin.awaiting ∧ own.k = r.k then twinCompare s own r else { s with twin := { s.twin with peer := some r } }
       | none => { s with twin := { s.twin with peer := some r } })

/-- TICK_RECORD_LATE: the peer's record has not come 4 µs into the next tick. -/
def execTickRecordLate (s : State) : Host.Outcome State Fault Refusal :=
  done true
    (if ¬ s.on TWN_CFG_EN ∨ ¬ pairJoined s ∨ ¬ s.twin.awaiting then s
     else
       let s := raise (s.count TWN_CNT1_LATE_REC 1) (srcOf 56 4) 0
       let s := { s with twin := { s.twin with awaiting := false } }
       if s.twin.driving ∧ s.twin.drivingH ≤ 4096 * s.n then becomeLead s true else s)

/-! ## This chip's TICK record (R320, R322, R350) -/

def ringEntry (s : State) (i : W32) : List Byte :=
  Memory.rdN s.hostMem (ringBase s rCmd + 64 * (i.toNat % max 1 (ringSize s rCmd))) 64

def takenInAt (s : State) (i : W32) : Bool := cmdClass (entryOp (ringEntry s i)) == .takenIn

/-- From `i` on, past scheduled commands and past the first command applied when taken in. -/
def intakeFrom (s : State) : Nat → W32 → W32
  | 0, i => i
  | fuel + 1, i => if takenInAt s i then i + 1 else intakeFrom s fuel (i + 1)

/-- Commands that may be taken in before the store of held commands or the completion ring is full. -/
def intakeRoom (s : State) : Nat :=
  min (4096 - s.sch.held.length)
    (ringSize s rCpl - (ringCount s.hif.cplTail s.hif.cplHead + s.hif.cpls.length + s.sch.held.length))

/-- The intake index. A command applied when taken in that the peer has not finished holds it. -/
def intakeIndex (s : State) : W32 :=
  let h := s.hif.cmdHead
  let behind := (List.range (min 1024 (h - s.twin.peerDone).toNat)).any fun i => takenInAt s (s.twin.peerDone + BitVec.ofNat 32 i)
  if ¬ hifRun s ∨ ¬ s.hif.tailOk ∨ behind then h else intakeFrom s (min (intakeRoom s) (min 1024 (waiting s s.hif.cmdTail))) h

def flueRecs (s : State) : List FlueRec := ((List.range 48).filter fun p => s.mode p == mFlue).map (flueRec s)

/-- The record of the tick that ends, which is compared at once where the peer's has come. -/
def twinTickEnd (s : State) : State :=
  if ¬ s.on TWN_CFG_EN ∨ ¬ pairJoined s then { s with twin := { s.twin with record := none, awaiting := false, peer := none } }
  else
    let base : TickRec := (if s.lead then s.twin.decisions else none).getD { k := 0, fromLead := true, sigs := [], evidence := 0 }
    let r : TickRec := { base with
      k := BitVec.ofNat 64 s.k, fromLead := s.lead, sigs := s.twin.sigs, evidence := classEvidence s
      intake := if s.lead then intakeIndex s else 0, cplIdx := s.hif.cplTail, evtIdx := s.hif.evtTail
      doneIdx := s.hif.cmdHead, flueDec := if s.lead then flueRecs s else [] }
    let d := if s.lead then refDecide s r else (s, r)
    let s := d.1
    let r := d.2
    let s := { s with twin := { s.twin with
      record := some r, awaiting := true, inPair := s.twin.inPair + 1
      decisions := if s.lead then none else s.twin.decisions } }
    match s.twin.peer with
    | some p => if p.k = r.k then twinCompare s r p else s
    | none => s

/-- The record whose decisions take effect at this tick start. -/
def twinDecisions (s : State) : Option TickRec :=
  if ¬ s.defers then none else if s.lead then s.twin.record else s.twin.decisions

/-- The decisions of Table 12.3 but for intake and the reference. -/
def applyDecisions (s : State) (r : TickRec) : State :=
  let s := s.each r.portDec fun s e => applyPortDec s e.1 e.2
  let s := s.each r.ratios fun s e => applyLock s e.1 e.2
  let s := s.each r.naDec fun s e => applyNa s e.1 e.2.1 e.2.2 2
  let s := s.each r.asrcDec fun s e => applyAsrcDec s e.1 e.2
  s.when (!s.lead) fun s => s.each (r.flueDec.filter fun f => decide (f.flue < 48)) applyFlueRec

/-! ## Loss of the peer and of a lane (R328) -/

/-- PEER_LOST: no alive block on either lane for 4 µs; `c` is D. -/
def peerLost (s : State) : State :=
  let s := s.fset TWN_STATUS_LANE_UP 0
  let s := s.each ((List.range 16).map (· + 224)) flushBox
  let p := s.pair
  let h := nextH s (fclkNow s)
  if ¬ s.on TWN_CFG_EN ∨ p = pDown then s
  else
    let s := raise s (srcOf 56 3) 0
    let s := { s with twin := { s.twin with awaiting := false, peer := none, leadOut := false } }
    if p = pInStep then
      (if s.lead then
        (let s := abortSwap s
         { s with twin := { s.twin with handover := none, fenceAt := some (h + 3072) } })
       else
        (let s := (abortSwap s).fset TWN_STATUS_ROLE 0
         let s := (s.count TWN_CNT0_HANDOVERS 1).set64 TWN_HO_FCLK h
         let s := setPair s pDown
         { s with twin := { s.twin with driving := false, handover := none, leadFrom := cAtFclk s (h - 1) } }))
    else if s.lead then
      (let s := setPair s pDown
       pendingFault { s with twin := { s.twin with handover := none } })
    else detachPair s (if p = pDetached then s.fget TWN_STATUS_WHY else 0)

def execPeerLost (c : Nat) (s : State) : Host.Outcome State Fault Refusal := done (decide (c < 2 ^ 64)) (peerLost (advance s c))

/-- TWIN_LANE_CHANGE: a lane comes up or goes down. -/
def execTwinLaneChange (lane : Nat) (up : Bool) (s : State) : Host.Outcome State Fault Refusal :=
  let was := s.fget TWN_STATUS_LANE_UP
  let now := if up ∧ ¬ laneReady s then was else putBits was lane 1 (b2n up)
  let s1 := s.fset TWN_STATUS_LANE_UP now
  done (decide (lane < 2)) (s1.when (was == 3 && now != 3) fun s => raise s (srcOf 56 0) 0)

end Sys2Proof.Machine
end

