-- ==== Sys2Proof/Machine/Matrix.lean ====
section
/-! DEFINITION. Machine/Matrix.lean: the fast matrix (R365 to R374), the scrubbers (R379) and error injection (R381,
R382). -/

namespace Sys2Proof.Machine

/-! ## Power domains (Table 17.6) -/

def State.pdOn (s : State) (d : Nat) : Bool := if d < 32 then s.on ⟨CLK_PD_ST0, d, 1⟩ else s.on ⟨CLK_PD_ST1, d - 32, 1⟩

def pdDelay (d : Nat) : Nat := 26 + d
def pdNet : Nat := 30
def pdTwin : Nat := 31
def pdPorts : Nat := 32
def pdCnv : Nat := 33
def pdMix : Nat := 34
def pdHif : Nat := 35

/-! ## Addresses (Table 15.3) -/

/-- The address that the boot region shows: management SRAM after remap, else the boot ROM (R373). -/
def remapAddr (s : State) (a : Nat) : Nat := if a < 0x400000 ∧ s.on MTX_REMAP_REMAP then mgmtBase + a else a

/-- The memory at an address, or none outside the populated ranges. -/
def populated (s : State) (a : Nat) : Option Nat :=
  if a < 0x400000 then (if s.on MTX_REMAP_REMAP ∨ a < 0x40000 then some 0x33 else none) else memIndex a

def inRegs (a : Nat) : Bool := decide (regBase ≤ a) && decide (a < regBase + 0x1000000)

/-- The unit that serves an address is in reset or off (R372). -/
def targetDown (s : State) (m : Nat) : Bool :=
  if m < 26 then s.pwr.clusters.contains m
  else if m < 0x30 then s.pwr.engineRst || !s.pdOn (pdDelay ((m - 0x20) / 4))
  else if m = 0x33 then false
  else if m = 0x30 then s.pwr.hifRst || !s.pdOn pdNet
  else s.pwr.engineRst

/-- The engine of a slot's producer, as a master (R21). -/
def producerMaster (s : State) (slot : Nat) : Option Nat :=
  let p := s.fget (SCH_SLOT_CFG_PRODUCER slot)
  if ¬ s.slotOn slot then none
  else if 0xE00 ≤ p ∧ p < 0xE18 then s.carrier (p - 0xE00)
  else match producerClass p with
    | some 24 => some 0x20
    | some 25 => some 0x22
    | some 26 => some 0x21
    | _ => none

/-- What a write by a master meets: 0 it is done, 1 an error response with WRITE_DENIED, else it is discarded and the source
with this number tells (R21, R141, R256, R374). -/
def writeRight (s : State) (master m a : Nat) : Nat :=
  if m < 26 then
    (if master = m ∨ (master < 26 ∧ (s.cluster m).joinAt.isSome) ∨ master = 0x23 ∨ master = 0x25 ∨ master = 0x26 then 0 else 1)
  else if m = 0x33 then (if master = 0x25 ∧ (mgmtBase ≤ a ∨ s.on MTX_REMAP_REMAP) then 0 else 1)
  else if m = 0x30 then
    (if a < netBase + 0x58000 then (if master = 0x21 ∨ master = 0x26 then 0 else srcOf 54 0)
     else if master = 0x21 ∨ master = 0x25 ∨ master = 0x26 then 0 else 1)
  else if m = 0x31 then
    (if master = 0x20 ∨ (master = 0x26 ∧ s.pair = pJoining) then 0 else srcOf 28 2)
  else if m = 0x32 then
    (if master < 26 ∨ (0x20 ≤ master ∧ master ≤ 0x22) then
      (if producerMaster s (a % 0x200000 / 256) = some master then 0 else srcOf 29 0)
     else 1)
  else if master < 26 ∨ master = 0x25 then 0 else 1

def lineBytes (v : BitVec 512) : List Byte := leBytes 64 v.toNat

/-- One read beat: the line, and whether it ends in an error response. -/
def readBeat (s : State) (master a : Nat) : State × BitVec 512 × Bool :=
  if inRegs a then (regAccess s 2 (a - regBase), 0, false)
  else match populated s a with
    | none => (raise s (srcOf 58 0) (addrForm a master 1 0xFF), 0, true)
    | some m =>
      if targetDown s m then (s, 0, true)
      else
        let a' := remapAddr s a
        let r := checkRead s a' 64 master 1
        (r.1, BitVec.ofNat 512 (leNat (Memory.rdN r.1.mem a' 64)), r.2)

/-- One write beat, and whether it ends in an error response. -/
def writeBeat (s : State) (master a : Nat) (v : BitVec 512) : State × Bool :=
  if inRegs a then (regAccess s 2 (a - regBase), false)
  else match populated s a with
    | none => (raise s (srcOf 58 0) (addrForm a master 2 0xFF), true)
    | some m =>
      if targetDown s m then (s, true)
      else match writeRight s master m a with
        | 0 => (storeBytes s (remapAddr s a) (lineBytes v), false)
        | 1 => (raise s (srcOf 58 1) (addrForm a master 2 m), true)
        | src => (raise s src 0, false)

/-! ## Grants (R366, R368, R370) -/

def State.target (s : State) (t : Nat) : MtxTarget := Tbl.get {} s.mtx.targets t
def State.setTarget (s : State) (t : Nat) (x : MtxTarget) : State :=
  { s with mtx := { s.mtx with targets := Tbl.put {} s.mtx.targets t x } }

def mayLock (master : Nat) : Bool := master == 0x21 || master == 0x23 || master == 0x25

/-- Another target has an earlier request of the master, or its lock. -/
def heldBack (s : State) (t master : Nat) : Bool :=
  s.mtx.targets.any fun e => e.1 != t &&
    (e.2.queue.any (fun r => r.master == master) || e.2.lock.any fun l => l.1 == master)

/-- The request granted next: one that has waited 64 cycles, oldest first, else the next in rotation. -/
def grantee (x : MtxTarget) (rs : List MtxReq) : Option MtxReq :=
  let turn := fun (r : MtxReq) => (r.master + 64 - (x.last + 1) % 64) % 64
  let better := fun (a b : MtxReq) =>
    if 64 ≤ a.waited ∨ 64 ≤ b.waited then decide (b.waited ≤ a.waited) else decide (turn a ≤ turn b)
  rs.foldl (fun o r => match o with
    | none => some r
    | some b => some (if better b r then b else r)) none

/-- From one line of a target to the next: a bank of the delay store holds each sixteenth line (R375). -/
def lineStep (a : Nat) : Nat := if inSpan a delayBase 0x6000000 then 1024 else 64

/-- The beats of a granted burst; the flag says whether one ended in an error response. -/
def runBeats (s : State) (r : MtxReq) : State × List (BitVec 512) × Bool :=
  let base := r.addr / 64 * 64
  let step := lineStep r.addr
  r.beats.zipIdx.foldl (fun (a : State × List (BitVec 512) × Bool) e =>
    if r.write then
      (let w := writeBeat a.1 r.master (base + step * e.2) e.1
       (w.1, a.2.1, a.2.2 || w.2))
    else
      (let x := readBeat a.1 r.master (base + step * e.2)
       (x.1, a.2.1 ++ [x.2.1], a.2.2 || x.2.2))) (s, [], false)

/-- A burst is carried out, a beat a cycle, while the other requests wait. In a locked sequence a 17th beat has no effect, ends
the lock and is reported. -/
def runBurst (s : State) (t : Nat) (r : MtxReq) : State :=
  let x := s.target t
  let before := match x.lock with
    | some l => if l.1 = r.master then l.2 else 0
    | none => 0
  let locked := decide (0 < before) || (r.lock && mayLock r.master)
  let room := 16 - before
  let past := locked && decide (room < r.beats.length)
  let a := runBeats s (if past then { r with beats := r.beats.take room } else r)
  let s := a.1.when past fun s => raise s (srcOf 58 2) (addrForm (r.addr / 64 * 64 + lineStep r.addr * room) r.master 4 (memIdx r.addr))
  let lock := if r.lock && mayLock r.master && !past then some (r.master, before + r.beats.length) else none
  let queue := (s.target t).queue.map fun (q : MtxReq) => { q with waited := q.waited + r.beats.length }
  let s := s.setTarget t { queue := queue, last := r.master, lock := lock }
  { s with mtx := { s.mtx with readData := a.2.1, errorResp := a.2.2 || past } }

/-- MATRIX_GRANT: `reqs` are ready at the target beside those that wait there; one burst is granted. -/
def matrixGrant (s : State) (t : Nat) (reqs : List MtxReq) : State :=
  let x := s.target t
  let all := x.queue ++ reqs
  let ok := fun (r : MtxReq) => !heldBack s t r.master && (match x.lock with
    | some l => r.master == l.1
    | none => true)
  -- a master's own requests keep their issue order
  let firsts := all.filter fun r => ok r && (all.find? fun q => q.master == r.master) == some r
  match grantee x firsts with
  | none => s.setTarget t { x with queue := all }
  | some r => runBurst (s.setTarget t { x with queue := all.erase r }) t r

def execMatrixGrant (target : Nat) (reqs : List MtxReq) (s : State) : Host.Outcome State Fault Refusal :=
  done (decide (target < 48) && reqs.all fun r => decide (r.master < 0x27) && decide (1 ≤ r.beats.length) &&
    decide (r.beats.length ≤ 16) && decide (r.addr < 2 ^ 40)) (matrixGrant s target reqs)

/-! ## Resets in mid-burst (R371, R372) -/

/-- A reset reaches a master: its waiting requests are dropped, and a sequence under its lock ends with one report. -/
def burstReset (s : State) (master : Nat) : State :=
  s.each s.mtx.targets fun s e =>
    let x := s.target e.1
    let s := s.setTarget e.1 { x with
      queue := x.queue.filter fun r => r.master != master
      lock := if x.lock.any fun l => l.1 == master then none else x.lock }
    match x.lock with
    | some l => s.when (l.1 == master) fun s => raise s (srcOf 58 3) (addrForm (64 * l.2) master 4 e.1)
    | none => s

def execBurstReset (master : Nat) (s : State) : Host.Outcome State Fault Refusal :=
  done (decide (master < 0x27)) (burstReset s master)

/-- A target enters reset or loses power: what waits for it ends in an error response. -/
def targetReset (s : State) (t : Nat) : State :=
  let x := s.target t
  if x.queue = [] ∧ x.lock = none then s
  else
    let s := s.setTarget t {}
    let s := { s with mtx := { s.mtx with readData := [], errorResp := true } }
    match x.lock with
    | some l => raise s (srcOf 58 3) (addrForm (64 * l.2) l.1 4 t)
    | none => s

/-! ## Remap (R373) -/

def writeRemap (s : State) (ag : Agent) (v : W32) : State :=
  if ag = .mgmt then s.when (v.getLsbD 0) (·.fset MTX_REMAP_REMAP 1) else s

/-! ## Scrubbers (R379) -/

/-- The memories of R381. -/
def memories : List Nat := List.range 26 ++ (List.range 16).map (0x20 + ·) ++ [0x30, 0x31, 0x32, 0x33]

/-- The power domain of a memory is off. -/
def memoryOff (s : State) (m : Nat) : Bool :=
  if m < 26 then !s.pdOn m
  else if m < 0x30 then !s.pdOn (pdDelay ((m - 0x20) / 4))
  else if m = 0x30 then !s.pdOn pdNet
  else if m = 0x33 then false
  else !s.pdOn pdMix

def scrubSkips (s : State) (m : Nat) : Bool := s.pwr.hifRst || memoryOff s m || (decide (m < 26) && s.pwr.zeroing.contains m)

/-- The scrubber of a memory has taken longer than the period for a pass. -/
def scrubLate (s : State) (m : Nat) : Bool :=
  let at' := Tbl.get 0 s.mtx.scrubAt m
  at' != 0 && decide (at' + 500000000 * max 1 (s.fget MTX_SCRUB_CFG_PERIOD_S) ≤ s.tmb.c)

/-- LAG is set, with its event. -/
def scrubLag (s : State) (m : Nat) : State :=
  s.when (scrubLate s m && !s.on MTX_SCRUB_STAT_LAG) fun s => raise (s.fset MTX_SCRUB_STAT_LAG 1) (srcOf 58 6) 0

/-- The scrubbers of memories `l` begin a pass now. -/
def startPace (s : State) (l : List Nat) : State :=
  { s with mtx := { s.mtx with scrubAt := l.foldl (fun t m => Tbl.put 0 t m (s.tmb.c + 1)) s.mtx.scrubAt } }

/-- One complete pass of a memory's scrubber: corrected lines are written back, uncorrectable words reported. -/
def scrubPass (s : State) (m : Nat) : State :=
  let mine := fun w => memIndex w == some m
  let bad := s.mtx.ue.filter mine
  let ce := (s.mtx.ce.filter mine).filter fun w => !s.mtx.ue.contains w
  let s := s.each ce fun s w => noteCE s w 0x27 5
  let s := { s with mtx := { s.mtx with ce := s.mtx.ce.filter fun w => !ce.contains w } }
  s.each bad fun s w => noteUE s w 0x27 5 (if m < 26 then srcOf (m + 2) 11 else srcOf 58 5) 0

/-- SCRUB: the scrubber of memory `mem` completes a pass. PASSES counts once every powered memory has had one. -/
def scrub (s : State) (m : Nat) : State :=
  if ¬ s.on MTX_SCRUB_CFG_EN ∨ scrubSkips s m then s
  else
    let due := memories.filter fun x => !scrubSkips s x
    let s := startPace (scrubPass (scrubLag s m) m) [m]
    let s := { s with mtx := { s.mtx with scrubPos := Tbl.put 0 s.mtx.scrubPos m 1 } }
    if due.all fun x => Tbl.get 0 s.mtx.scrubPos x == 1 then
      { s.count MTX_SCRUB_STAT_PASSES 1 with mtx := { s.mtx with scrubPos := [] } }
    else s

def execScrub (mem : Nat) (s : State) : Host.Outcome State Fault Refusal :=
  done (memoryOk mem) (scrub s mem)

/-! ## Error injection (R381, R382) -/

/-- Full debug access for ECC injection (Table 18.7): D3, and not in PILOT. -/
def injAllowed (s : State) : Bool := debugLevel s == 3 && powerState s != 3

def writeEccInj (s : State) (v : W32) : State :=
  if injAllowed s then s.wr MTX_ECC_INJ (maskedWord (s.rd MTX_ECC_INJ) v (rwMask MTX_ECC_INJ))
  else raise (regAccess s 3 MTX_ECC_INJ) (srcOf 60 3) 0

end Sys2Proof.Machine
end

