-- ==== Sys2Proof/Machine/Units.lean ====
section
/-! DEFINITION. Machine/Units.lean: what a reset clears of the registers (R7, Tables 0.4 and 14.1), and what a U reset takes
from a cluster (R403). -/

namespace Sys2Proof.Machine

/-! ## Registers (R7) -/

def letterW : Nat := 8
def letterE : Nat := 4
def letterU : Nat := 2
def letterM : Nat := 1

/-- Bits of the pages of MB000–MB015 and MB224–MB255 that only a flush clears (Table 14.1). -/
def boxKept (off : Nat) : W32 :=
  if off < MBX_MSG 0 0 ∨ MBX_MSG 256 0 ≤ off ∨ isCoreBox ((off - MBX_MSG 0 0) / 256) then 0
  else if off % 256 < 0x48 then 0xFFFFFFFF
  else if off % 256 = 0x4C then 3
  else 0

/-- The bits of a word that a reset with this letter leaves unchanged: in a unit that it reaches the fields that name the
letter, elsewhere every field but those with a dash. -/
def keptBits (off letter : Nat) (reach : Bool) : W32 :=
  boxKept off ||| BitVec.ofNat 32 ((fieldsAt off).foldl (fun m f =>
    if (if reach then f.kept / letter % 2 == 1 else f.kept != 0) then putBits m f.lo f.w (2 ^ f.w - 1) else m) 0)

/-- The registers after a reset. A pair that it clears has its read latch loaded again, and no write held (R4). -/
def resetRegs (s : State) (letter : Nat) (reach : Nat → Bool) : State :=
  let cleared := fun (key : Nat) =>
    let off := key / 8 * 4
    keptBits (off + 4) letter (reach off) == 0
  { s with
    regs := s.regs.filterMap fun e =>
      let m := keptBits e.1 letter (reach e.1)
      let v := (e.2 &&& m) ||| (resetWord e.1 &&& ~~~m)
      if v = resetWord e.1 then none else some (e.1, v)
    latch := s.latch.filter fun e => !cleared e.1
    hold := s.hold.filter fun e => !cleared e.1 }

/-- Flush a box, header and all. -/
def wipeBox (s : State) (m : Nat) : State := ((flushBox s m).wr (MBX_HDR0 m) 0).wr (MBX_HDR1 m) 0

/-! ## Units (R403) -/

def clusterRegs (c off : Nat) : Bool := inSpan off (HRT_CL_STATUS c) 0x10000 || inSpan off (MBX_MSG (coreBox c 0) 0) 0x800

/-- What a U reset takes from a cluster: its memories, its page, its cores, its mailboxes and its bursts. -/
def clusterLoss (s : State) (c : Nat) : State :=
  let s := s.each (List.range 8) fun s j => wipeBox (newEpoch s (0x100 + 8 * c + j)) (coreBox c j)
  let s := loseCluster s c
  let s := { s with cores := Tbl.clear s.cores (8 * c) (8 * c + 8) }
  let s := targetReset (burstReset s c) c
  resetRegs s letterU (clusterRegs c)

/-- A cluster leaves reset, and its memories are being zeroed (R44). -/
def clusterFree (s : State) (c : Nat) : State :=
  let s := { s with pwr := { s.pwr with clusters := s.pwr.clusters.filter (· ≠ c), zeroing := c :: s.pwr.zeroing.filter (· ≠ c) } }
  (s.fset (HRT_CL_STATUS_MEM_INIT c) 1).fset (HRT_CL_STATUS_PWR c) 1

end Sys2Proof.Machine
end

