-- ==== Sys2Proof/Machine/Sched.lean ====
section
/-! DEFINITION. Machine/Sched.lean: the host commands from intake to effect (R25 to R36, R341 to R344): UNKNOWN and NOTIME at
intake, RANGE, LATE and the target's checks at scheduling, and the effects in the order of R31. -/

namespace Sys2Proof.Machine

/-! ## Intake (R343) -/

/-- The argument fields hold values that codes define, and counts and masks lie in their ranges. -/
def argsOk (o : HostOp) : Bool :=
  match o with
  | .setTick code => decide (code.toNat ≤ 3)
  | .slotCfg _ count _ => decide (1 ≤ count.toNat) && decide (count.toNat ≤ 8192)
  | .swapProgram _ mode => decide (mode.toNat ≤ 1)
  | .paramSwap _ mask => mask != 0
  | .mixWrite region flags _ _ _ => decide (region.toNat ≤ 3) && decide (flags.toNat ≤ 1)
  | .mixDamp target _ _ inv shape len =>
    decide (target.toNat ≤ 1) && decide (inv.toNat ≤ 1) && decide (shape.toNat ≤ 1) && decide (len.toNat ≤ 1048576)
  | .portMute _ _ mute => decide (mute.toNat ≤ 1)
  | .decFreeze _ freeze => decide (freeze.toNat ≤ 1)
  | .streamWrite dir _ _ => decide (dir.toNat ≤ 1)
  | .streamStart dir _ => decide (dir.toNat ≤ 1)
  | .streamStop dir _ => decide (dir.toNat ≤ 1)
  | .streamStats dir flags _ _ _ => decide (dir.toNat ≤ 1) && decide (flags.toNat ≤ 1)
  | .unknown => false
  | _ => true

def commandOk (h : Hdr) (o : HostOp) : Bool := argsOk o && (cmdClass o != .takenIn || h.execAt == asap)

/-- The commands applied when taken in. -/
def applyNow (s : State) (o : HostOp) : State × Result :=
  match o with
  | .loadImage h addr len => applyLoadImage s h.toNat addr.toNat len.toNat
  | .discardImage h => applyDiscard s h.toNat
  | .paramWrite h b ofs n src => applyParamWrite s h.toNat b.toNat ofs.toNat n.toNat src.toNat
  | .mixWrite region flags first count src =>
    applyMixWrite s region.toNat flags.toNat first.toNat count.toNat src.toNat
  | .flueClear f => applyFlueClear s f.toNat
  | .streamWrite dir i src => applyStreamWrite s (dir == 1) i.toNat src.toNat
  | .streamStats dir flags first count dst =>
    applyStreamStats s (dir == 1) (flags == 1) first.toNat count.toNat dst.toNat
  | _ => (s, stIdle)

/-- One command is taken in. -/
def takeIn (s : State) (h : Hdr) (o : HostOp) : State :=
  if ¬ commandOk h o then complete s h 8 0 false 0 0
  else if cmdClass o = .takenIn then
    (let r := applyNow s o
     finishCmd r.1 h false r.2 r.1.nNow)
  else if ¬ s.nValid ∧ h.execAt ≠ asap then complete s h 4 0 false 0 0
  else setHeld s (s.sch.held ++ [{ hdr := h, op := o, nx := h.execAt.toNat }])

/-! ## Scheduling (R25 to R28, R34, R35, R118, R143, R172) -/

/-- The n that takes the place of k_s × T for a command. -/
def scheduleLimit (s : State) (o : HostOp) : Nat :=
  match o with
  | .mixSwap => s.n + 2 * s.tlen
  | .swapProgram _ mode => if mode = 0 then s.n + 4 * s.tlen else s.n
  | .portStart p => if s.drives p.toNat then s.n + s.tlen + leadLen s p.toNat else s.n
  | _ => s.n

/-- Late: n_x lies before the limit; for a CARRY swap its tick does. -/
def isLate (s : State) (o : HostOp) (nx : Nat) : Bool :=
  let l := scheduleLimit s o
  match o with
  | .swapProgram _ _ => decide (ceilDiv nx s.tlen * s.tlen < l) || decide (nx < s.n)
  | _ => decide (nx < l)

/-- The words of SLOT_CFG commands that are scheduled. -/
def slotWords (s : State) : Nat :=
  (s.sch.held.map fun h => match h.sched, h.op with
    | true, .slotCfg _ c _ => c.toNat
    | _, _ => 0).sum

/-- SET_TICK: B, the smallest multiple of both lengths at or after n_x. -/
def seamOf (s : State) (code nx : Nat) : Nat :=
  let t := max s.tlen (4 * 2 ^ code)
  t * ceilDiv nx t

def schedSetTick (s : State) (code nx : Nat) : State × Result :=
  let loaded := allClusters.filter fun c => decide (2 ≤ s.imgState c) && decide (s.imgState c ≤ 5)
  let bad := loaded.any fun c => match (s.cluster c).image with
    | some im => !declares im code
    | none => false
  if bad ∨ s.scheduled isSetTick then (s, stConflict)
  else ((s.fset SCH_STATUS_TICK_CHG_PEND 1).set64 SCH_SEAM_N (seamOf s code nx), stOk)

/-- A producer change that is scheduled too late for every word before it to fade (R150). -/
def schedPatch (s : State) (slot nx : Nat) (w : W32) : State :=
  match patchLen s with
  | none => s
  | some p =>
    let b := boundaryOf s nx
    let cur := s.rd (SCH_SLOT_CFG slot)
    let before := cfgFrom cur (pendingCfg s slot) (b - 1)
    let dom := s.fget (SCH_SLOT_CFG_DOMAIN slot)
    let fades := !cfgData before && !cfgData w && cfgProducer before != 0 && cfgProducer before != cfgProducer w
    s.when (fades && decide (domIndex b dom < domIndex s.n dom + p)) fun s =>
      raise (s.count (word MIX_PATCH_SHORT) 1) (srcOf 28 3) 0

def schedSlotCfg (s : State) (first count src nx : Nat) : State × Result :=
  if 8192 < first + count ∨ 16384 < slotWords s + count then (s, stConflict)
  else if s.hostBad src (4 * count) then (hostFail s, stHostErr)
  else (s.each ((hostWords s src count).zipIdx) fun s e => schedPatch s (first + e.2) nx e.1, stOk)

/-- The checks of the target when the command is scheduled for `nx`, and what scheduling it does. -/
def schedCheck (s : State) (o : HostOp) (nx : Nat) : State × Result :=
  match o with
  | .setTick code => schedSetTick s code.toNat nx
  | .slotCfg first count src => schedSlotCfg s first.toNat count.toNat src.toNat nx
  | .swapProgram h mode => (s, schedSwap s h.toNat mode.toNat)
  | .unloadProgram h => (s, if 23 < h.toNat then stInvalid 0 else stOk)
  | .paramSwap h mask => (s, schedParamSwap s h.toNat mask.toNat)
  | .mixSwap => schedMixSwap s
  | .mixDamp target index _ _ _ _ => (s, schedMixDamp target.toNat index.toNat)
  | .portStart p => schedPortStart s p.toNat
  | .portStop p => schedPortStop s p.toNat nx s.n
  | .portMute p c mute => schedPortMute s p.toNat c.toNat nx s.n (mute == 1)
  | .decFreeze c freeze => schedDecFreeze s c.toNat (freeze == 1) nx
  | .flueEnable f => schedFlueEnable s f.toNat
  | .flueDisable f => (s, schedFlueDisable f.toNat)
  | .streamStart dir i => schedStreamStart s (dir == 1) i.toNat
  | .streamStop _ i => (s, schedStreamStop i.toNat)
  | .twinSwap => (s, schedTwinSwap s)
  | _ => (s, stOk)

def scheduleOne (s : State) (h : Held) : State :=
  let x := h.hdr.execAt
  let l := scheduleLimit s h.op
  let late := x != asap && isLate s h.op h.nx
  if x ≠ asap ∧ s.n + 2 ^ 31 < h.nx then complete s h.hdr 2 0 false 0 0
  else if late ∧ ¬ h.hdr.late then (complete s h.hdr 1 0 false 0xFF 0).count (word SCH_LATE_CNT) 1
  else
    let nx := if x = asap ∨ late then l else h.nx
    let r := schedCheck s h.op nx
    if ¬ r.2.ok then finishCmd r.1 h.hdr late r.2 0
    else
      let nx := match h.op with
        | .setTick code => seamOf s code.toNat nx
        | _ => nx
      setHeld r.1 (r.1.sch.held ++ [{ h with nx := nx, sched := true, late := late, words := heldWords r.1 h.op }])

/-- Every command taken in since the last tick start is scheduled, in ring order. -/
def schedule (s : State) : State :=
  let new := s.sch.held.filter fun h => !h.sched
  (setHeld s (s.sch.held.filter fun h => h.sched)).each new scheduleOne

/-! ## Effects (R30, R31) -/

/-- SET_TICK at B: the tick that starts is the first of the new length. -/
def effSetTick (s : State) (code : Nat) : State × Result :=
  let t := s.tlen
  let w := s.wbuf
  let s := (s.fset SCH_STATUS_TICK_ACT code).fset SCH_TICK_CFG_TICK_LEN code
  let s := s.fset SCH_STATUS_TICK_CHG_PEND 0
  let k := s.n / s.tlen
  let s := s.set64 SCH_K k
  ({ s with sch := { s.sch with oldT := some t, bufOff := (w + k) % 2 } }, stOk)

/-- The new-producer side of a patch fade begins (R149); of the changes at one boundary only the first producer and the
last count. -/
def beginPatch (s : State) (slot : Nat) (old new : W32) : State :=
  match patchLen s with
  | none => s
  | some p =>
    let here := fun (m : MixPatch) => m.slot == slot && m.b == s.n
    let first := match s.mix.patches.find? here with
      | some m => m.old
      | none => cfgProducer old
    let rest := s.mix.patches.filter fun m => !here m
    let fades := !cfgData old && !cfgData new && first != cfgProducer new
    { s with mix := { s.mix with
      patches := if fades then rest ++ [⟨slot, s.n, p, first, cfgProducer new⟩] else rest } }

/-- One SCH_SLOT_CFG word at its boundary (R462). -/
def putSlotCfg (s : State) (slot : Nat) (w : W32) : State :=
  let off := SCH_SLOT_CFG slot
  let old := s.rd off
  let v := maskedWord old w (rwMask off)
  let s := beginPatch s slot old v
  let s := s.wr off v
  s.when (bits v.toNat 0 2 != bits old.toNat 0 2) fun s =>
    { s with sch := { s.sch with domNew := slot :: s.sch.domNew } }

def effSlotCfg (s : State) (first : Nat) (words : List W32) : State × Result :=
  (s.each words.zipIdx fun s e => putSlotCfg s (first + e.2) e.1, stOk)

/-- SWAP_PROGRAM at its tick (R118): the cluster that carried the hearth goes through a U reset and is an ember. -/
def swapProgram (s : State) (h mode : Nat) : State × Result :=
  let old := (s.stager h).bind (swapOld s h)
  let r := effSwap s h mode
  match r.2.ok, old with
  | true, some o => (clusterFree (clusterLoss r.1 o) o, r.2)
  | _, _ => r

/-- The effect of a scheduled command. -/
def effect (s : State) (x : Held) : State × Result :=
  let nx := x.nx
  match x.op with
  | .setTick code => effSetTick s code.toNat
  | .slotCfg first _ _ => effSlotCfg s first.toNat x.words
  | .swapProgram h mode => swapProgram s h.toNat mode.toNat
  | .unloadProgram h => effUnload s h.toNat
  | .paramSwap h mask => effParamSwap s h.toNat mask.toNat
  | .mixSwap => effMixSwap s nx
  | .mixDamp target index gain inv shape len =>
    effMixDamp s target.toNat index.toNat gain.toNat (inv == 1) (shape == 1) len.toNat nx
  | .portStart p => effPortStart s p.toNat nx
  | .portStop p => effPortStop s p.toNat nx
  | .portMute p c mute => effPortMute s p.toNat c.toNat nx (mute == 1)
  | .decFreeze .. => effDecFreeze s
  | .flueEnable f => effFlueEnable s f.toNat nx
  | .flueDisable f => effFlueDisable s f.toNat nx
  | .streamStart dir i => effStreamStart s (dir == 1) i.toNat nx
  | .streamStop dir i => effStreamStop s (dir == 1) i.toNat nx
  | _ => (s, stOk)

def tickExact (o : HostOp) : Bool := cmdClass o == .tick || isSetTick o
def isMix : HostOp → Bool
  | .mixSwap => true
  | .mixDamp .. => true
  | _ => false

/-- Whether a command takes effect before the port and stream commits of its tick. -/
def early (o : HostOp) : Bool := match o with
  | .setTick _ => true
  | .slotCfg .. => true
  | _ => false

/-- A held command whose turn comes takes effect, unless an earlier one has ended it. One whose sample comes later in the tick
that starts is prepared, and stays held until that sample (R29). -/
def takeEffect (s : State) (h : Held) : State :=
  if ¬ s.sch.held.contains h then s
  else
    let s := setHeld s (s.sch.held.erase h)
    if h.op = .twinSwap then (effTwinSwap s h).1
    else
      let r := effect s h
      if tickExact h.op ∨ isMix h.op ∨ h.nx ≤ s.n then
        finishCmd r.1 h.hdr h.late r.2 (if tickExact h.op then s.n else max s.n h.nx)
      else setHeld r.1 (r.1.sch.held ++ [{ h with planned := some r.2 }])

def insertDue (key : Held → Nat) (h : Held) : List Held → List Held
  | [] => [h]
  | x :: t => if key h < key x then h :: x :: t else x :: insertDue key h t

/-- In the order of their samples, and of the ring at one sample. -/
def orderDue (s : State) (l : List Held) : List Held :=
  let key := fun (h : Held) => if tickExact h.op then s.n else max s.n h.nx
  l.foldl (fun acc h => insertDue key h acc) []

/-- The tick-length change and the slot routing of a tick start. -/
def dueEarly (s : State) : State :=
  s.each (orderDue s (s.sch.held.filter fun h => h.sched && early h.op && decide (h.nx ≤ s.n))) takeEffect

/-- Everything else that takes effect in the tick that starts; what the mix engine does at a later sample of it is left to
`mixDue`. -/
def dueTick (s : State) : State :=
  s.each (orderDue s (s.sch.held.filter fun h => h.sched && !early h.op && h.planned.isNone &&
    (if tickExact h.op ∨ isMix h.op then decide (h.nx ≤ s.n) else decide (h.nx < s.n + s.tlen)))) takeEffect

/-- The mix commands of sample `n`. -/
def mixDue (s : State) (n : Nat) : State :=
  s.each (s.sch.held.filter fun h => h.sched && isMix h.op && decide (h.nx ≤ n)) takeEffect

/-- Patch fades whose last word has been written are over. -/
def prunePatches (s : State) : State :=
  let running := fun (m : MixPatch) =>
    let dom := s.fget (SCH_SLOT_CFG_DOMAIN m.slot)
    decide (domIndex s.n dom < domIndex m.b dom + m.p)
  { s with mix := { s.mix with patches := s.mix.patches.filter running } }

/-- A scheduled command is discarded: what shows it scheduled goes. -/
def unschedule (s : State) (o : HostOp) : State :=
  match o with
  | .setTick _ => s.fset SCH_STATUS_TICK_CHG_PEND 0
  | .mixSwap => (s.fset MIX_STATUS_SWAP_PEND 0).fset MIX_STATUS_VALIDATING 0
  | .swapProgram h mode => match s.stager h.toNat with
    | some c => s.when (mode == 0) (·.fset (HRT_IMG_STATE_STATE c) 2)
    | none => s
  | .decFreeze c _ => s.setChain c.toNat { s.chain c.toNat with frz := (s.chain c.toNat).frz.filter fun f => decide (s.n ≤ f.1) }
  | _ => s

/-- A late SET_TICK looks for its boundary again (R27, R34). -/
def lateSeam (s : State) (h : Held) : State :=
  match h.op with
  | .setTick code => s.set64 SCH_SEAM_N (seamOf s code.toNat s.n)
  | _ => s

/-- Commands whose effective point passed during QUIET are late at the first tick after it (R416). -/
def lateAfterQuiet (s : State) : State :=
  let point := fun (h : Held) => if tickExact h.op then s.tlen * ceilDiv h.nx s.tlen else h.nx
  let missed := fun (h : Held) => h.sched && decide (point h < s.n)
  let gone := s.sch.held.filter fun h => missed h && !h.hdr.late
  let again := s.sch.held.filter fun h => missed h && h.hdr.late
  let nx := fun (h : Held) => match h.op with
    | .setTick code => seamOf s code.toNat s.n
    | _ => s.n
  let s' := setHeld s ((s.sch.held.filter fun h => !(missed h && !h.hdr.late)).map fun (h : Held) =>
    if missed h then { h with late := true, nx := nx h } else h)
  let s' := s'.each again lateSeam
  s'.each gone fun s h => (complete (unschedule s h.op) h.hdr 1 0 false 0xFF 0).count (word SCH_LATE_CNT) 1

/-- Every held command is discarded by a reset of the engine (R33). -/
def abortAll (s : State) : State :=
  let gone := s.sch.held
  let s := (setHeld s []).fset SCH_STATUS_TICK_CHG_PEND 0
  s.each gone fun s h => complete s h.hdr 3 0 false 0 0

/-! ## A command that comes by itself -/

/-- The instant of a tick start: ticks are processed, C still stands at the tick's first M edge, and nothing of the tick has
been brought to its end. -/
def atTickStart (s : State) : Bool :=
  s.running && powerState s == 0 && s.tmb.c == s.sch.ck && !s.sch.ended && !s.sch.outDone

/-- A CARRY swap just scheduled begins to join its regions in the tick in which it is scheduled, where R118 has it so. -/
def joinNow (s : State) (o : HostOp) : State :=
  match o with
  | .swapProgram h mode => match s.sch.held.find? fun x => x.sched && isSwapOf h.toNat x.op with
    | some x => s.when (mode == 0) (stepCarry · h.toNat x.nx)
    | none => s
  | _ => s

/-- A command of Table 13.4 is taken in. At the instant of a tick start it is scheduled in it, and takes effect if its time has
come; at any other time it waits for the next tick start (R25). With 4,096 held, it is not taken in (R29). -/
def hostCommand (s : State) (h : Hdr) (o : HostOp) : Host.Outcome State Fault Refusal :=
  done true
    (if 4096 ≤ s.sch.held.length then s
     else
       let s := takeIn s h o
       if atTickStart s then joinNow (dueTick (dueEarly (schedule s))) o else s)

def execHostNop (h : Hdr) (s : State) : Host.Outcome State Fault Refusal := hostCommand s h .nop
def execSetTick (h : Hdr) (code : Byte) (s : State) : Host.Outcome State Fault Refusal := hostCommand s h (.setTick code)
def execSlotCfg (h : Hdr) (first count : BitVec 16) (src : W64) (s : State) : Host.Outcome State Fault Refusal :=
  hostCommand s h (.slotCfg first count src)
def execLoadImage (h : Hdr) (hearth : Byte) (addr : W64) (len : W32) (s : State) : Host.Outcome State Fault Refusal :=
  hostCommand s h (.loadImage hearth addr len)
def execSwapProgram (h : Hdr) (hearth mode : Byte) (s : State) : Host.Outcome State Fault Refusal :=
  hostCommand s h (.swapProgram hearth mode)
def execDiscardImage (h : Hdr) (hearth : Byte) (s : State) : Host.Outcome State Fault Refusal :=
  hostCommand s h (.discardImage hearth)
def execUnloadProgram (h : Hdr) (hearth : Byte) (s : State) : Host.Outcome State Fault Refusal :=
  hostCommand s h (.unloadProgram hearth)
def execParamWrite (h : Hdr) (hearth block : Byte) (ofs count : W32) (src : W64) (s : State) :
    Host.Outcome State Fault Refusal := hostCommand s h (.paramWrite hearth block ofs count src)
def execParamSwap (h : Hdr) (hearth : Byte) (mask : BitVec 16) (s : State) : Host.Outcome State Fault Refusal :=
  hostCommand s h (.paramSwap hearth mask)
def execMixWrite (h : Hdr) (region flags : Byte) (first count : W32) (src : W64) (s : State) :
    Host.Outcome State Fault Refusal := hostCommand s h (.mixWrite region flags first count src)
def execMixSwap (h : Hdr) (s : State) : Host.Outcome State Fault Refusal := hostCommand s h .mixSwap
def execMixDamp (h : Hdr) (target : Byte) (index : W32) (gain : BitVec 16) (inv shape : Byte) (len : W32) (s : State) :
    Host.Outcome State Fault Refusal := hostCommand s h (.mixDamp target index gain inv shape len)
def execPortStart (h : Hdr) (port : Byte) (s : State) : Host.Outcome State Fault Refusal := hostCommand s h (.portStart port)
def execPortStop (h : Hdr) (port : Byte) (s : State) : Host.Outcome State Fault Refusal := hostCommand s h (.portStop port)
def execPortMute (h : Hdr) (port ch mute : Byte) (s : State) : Host.Outcome State Fault Refusal :=
  hostCommand s h (.portMute port ch mute)
def execDecFreeze (h : Hdr) (chain : BitVec 16) (freeze : Byte) (s : State) : Host.Outcome State Fault Refusal :=
  hostCommand s h (.decFreeze chain freeze)
def execFlueEnable (h : Hdr) (flue : Byte) (s : State) : Host.Outcome State Fault Refusal := hostCommand s h (.flueEnable flue)
def execFlueDisable (h : Hdr) (flue : Byte) (s : State) : Host.Outcome State Fault Refusal :=
  hostCommand s h (.flueDisable flue)
def execFlueClear (h : Hdr) (flue : Byte) (s : State) : Host.Outcome State Fault Refusal := hostCommand s h (.flueClear flue)
def execStreamWrite (h : Hdr) (dir : Byte) (stream : BitVec 16) (src : W64) (s : State) : Host.Outcome State Fault Refusal :=
  hostCommand s h (.streamWrite dir stream src)
def execStreamStart (h : Hdr) (dir : Byte) (stream : BitVec 16) (s : State) : Host.Outcome State Fault Refusal :=
  hostCommand s h (.streamStart dir stream)
def execStreamStop (h : Hdr) (dir : Byte) (stream : BitVec 16) (s : State) : Host.Outcome State Fault Refusal :=
  hostCommand s h (.streamStop dir stream)
def execStreamStats (h : Hdr) (dir flags : Byte) (first count : BitVec 16) (dst : W64) (s : State) :
    Host.Outcome State Fault Refusal := hostCommand s h (.streamStats dir flags first count dst)
def execTwinSwap (h : Hdr) (s : State) : Host.Outcome State Fault Refusal := hostCommand s h .twinSwap

end Sys2Proof.Machine
end

