-- ==== Sys2Proof/Machine/Reset.lean ====
section
/-! DEFINITION. Machine/Reset.lean: the five kinds of reset (R400 to R409), what each loses (Tables 0.4 and 17.8), their release,
clock loss and the supplies (R410, R420, R421). -/

namespace Sys2Proof.Machine

/-! ## Units (R403) -/

/-- What a cluster did ends: an image of a hearth as by UNLOAD_PROGRAM, a staged image, shadowing or test. -/
def clusterOut (s : State) (c : Nat) : State :=
  let staged := fun (s : State) => decide (2 ≤ s.imgState c) && decide (s.imgState c ≤ 4)
  if s.role c = roleHearth then
    (if s.runs c then endImage s (s.lhOf c) c
     else s.when (staged s) fun s => dropStaged s (s.fget (HRT_IMG_STATE_LH c)) c)
  else if s.role c = roleRetired then s
  else
    let s := s.when (staged s) fun s => dropStaged s (s.fget (HRT_IMG_STATE_LH c)) c
    leaveShadow (s.fset (EMB_MAP_ROLE c) roleEmber) c

/-- A U reset reaches a cluster. -/
def clusterReset (s : State) (c : Nat) : State :=
  let s := clusterLoss (clusterOut s c) c
  embStatus { s with pwr := { s.pwr with
    clusters := c :: s.pwr.clusters.filter (· ≠ c), zeroing := s.pwr.zeroing.filter (· ≠ c) } }

/-- Commands that a U reset of port `p` completes ABORTED (R175). -/
def ofPort (p : Nat) : HostOp → Bool
  | .portStart x => x.toNat == p
  | .portStop x => x.toNat == p
  | .portMute x _ _ => x.toNat == p
  | .flueEnable x => x.toNat == p
  | .flueDisable x => x.toNat == p
  | _ => false

/-- A U reset reaches a port, with its ASRC channels, its chains and its flue. -/
def portReset (s : State) (p : Nat) : State :=
  let asrcs := (asrcChans s p).map (·.idx)
  let decs := (chainChans s p).map (·.idx) ++ (if s.mode p = mFlue then [2 * p, 2 * p + 1] else [])
  let s := abortHeld s fun h => ofPort p h.op
  let s := s.each asrcs fun s a => s.setAsrc a {}
  let s := s.each decs fun s c => s.setChain c {}
  let s := (s.setPort p {}).setFlue p {}
  let own := asrcs.map ASR_CH_STATUS ++ decs.flatMap fun c => [DEC_CH_STATUS c, DEC_CH_DC c, DEC_CNT c]
  let s := resetRegs s letterU fun off => inSpan off (PRT_MODE p) 0x1000 || off == ASR_GRP_CFG p || off == ASR_GRP_RATIO p ||
    own.contains off
  let s := groupRest s (p / 8)
  { s with pwr := { s.pwr with ports := p :: s.pwr.ports.filter (· ≠ p) } }

/-- A U reset reaches a network port. -/
def netReset (s : State) (p : Nat) : State :=
  let s := s.setNet p {}
  let s := resetRegs s letterU fun off => inSpan off (NET_CFG p) 0x8000
  { s with pwr := { s.pwr with nets := p :: s.pwr.nets.filter (· ≠ p) } }

/-! ## E, M and W -/

/-- Everything that an E reset loses outside the registers. -/
def engineLoss (s : State) : State :=
  let s := abortAll s
  let s := s.each (allClusters.filter fun c => s.role c != roleHearth && s.role c != roleRetired) fun s c => setRole s c roleEmber 0x1F
  let s := s.each (List.range 208) fun s i => newEpoch s (0x100 + i)
  let s := s.each (List.range 208) fun s i => wipeBox s (16 + i)
  let s := s.each (List.range 26 ++ [0x20, 0x22]) burstReset
  let s := s.each (List.range 44) targetReset
  let s := zeroRange s (clusterBase 0) (clusterBase 26)
  let s := zeroRange s delayBase (delayBase + 0x6000000)
  let s := zeroRange s netBase (netBase + 0x58000)
  let s := zeroRange (zeroRange s mixBase (mixBase + 0x400000)) slotStoreBase (slotStoreBase + 0x400000)
  { s with
    cores := [], clusters := [], ember := {}, sch := {}, mix := {}, ports := [], asrc := [], chains := [], flues := [], groups := []
    rx := [], tx := [], convoy := {}
    pwr := { s.pwr with engineRst := true, clusters := List.range 26, ports := List.range 48, zeroing := [] } }

def engineReset (s : State) : State := embStatus (showAnchor (resetRegs (engineLoss s) letterE fun _ => true))

/-- An M reset: the management core only. -/
def mgmtReset (s : State) : State :=
  let s := newEpoch s sidMgmt
  let s := s.each (List.range 8 ++ (List.range 32).map (224 + ·)) wipeBox
  let s := resetRegs (burstReset s 0x25) letterM fun _ => true
  { s with
    mgmt := { s.mgmt with
      replies := [], ringLevel := 3, attempting := false, bootDue := true, halted := false, bootByM := !s.pwr.hifRst, nonceUsed := true }
    pwr := { s.pwr with mgmtRst := true } }

/-- A W reset, without the M reset that it also asserts. -/
def warmReset (s : State) : State :=
  let s := engineLoss s
  let s := s.each ((List.range 8).map (8 + ·)) wipeBox
  let s := s.each [0x21, 0x23, 0x24, 0x26] burstReset
  let s := s.each [44, 46, 47] targetReset
  let s := zeroRange s netBase (netBase + 0xC00000)
  let s := resetRegs s letterW fun _ => true
  embStatus (showAnchor { s with
    nets := [], twin := {}, hif := { bad := s.hif.bad, msix := s.hif.msix }, mtx := { ue := s.mtx.ue, ce := s.mtx.ce }
    mgmt := { s.mgmt with scan := false }
    pwr := { s.pwr with hifRst := true, twinRst := true, nets := List.range 6 } })

/-! ## C (R400, R404) -/

/-- HCLK is stretched while VDD_CORE or VDD_SRAM is below its warning level (R421). -/
def showStretch (s : State) : State := s.fset CLK_SUP_STATUS_STRETCH (b2n (s.on ⟨CLK_SUP_STATUS, 0, 1⟩ || s.on ⟨CLK_SUP_STATUS, 1, 1⟩))

/-- A cold reset keeps OTP and flash, what lies outside the part, and the supplies and clocks as they are. -/
def coldReset (s : State) (cause : Nat) (released : Bool) : State :=
  let r := State.reset
  let m : Mgmt := { r.mgmt with
    copies := s.mgmt.copies, slots := s.mgmt.slots, flashLog := s.mgmt.flashLog, otpSvn := s.mgmt.otpSvn
    deviceKey := s.mgmt.deviceKey }
  let p : Pwr := { r.pwr with asserts := [⟨.c, released, 2000000⟩], coldCause := cause, lowSupply := s.pwr.lowSupply }
  let t := { r with
    pending := s.pending, hostMem := s.hostMem, balls := s.balls, drawn := s.drawn, mgmt := m, pwr := p
    hif := { r.hif with bad := s.hif.bad } }
  let t := t.fset SEC_LIFE_STATE (s.mgmt.lifeNext.getD (s.fget SEC_LIFE_STATE))
  let t := (t.set64 SEC_DEVID (s.get64 SEC_DEVID)).fset SEC_SVN_OTP_SVN s.mgmt.otpSvn
  showStretch (t.fset CLK_SUP_STATUS_WARN (s.fget CLK_SUP_STATUS_WARN))

/-! ## Assertion (R404, Table 17.2) -/

def stretchNs (k : Rst) : Nat :=
  let cycles := match k with
    | .c => 3072
    | .w => 154
    | .e => 31
    | _ => 16
  ceilDiv (cycles * 1000000) 1536

/-- Clocks whose loss asserts a kind (Table 17.3). -/
def lossClocks : Rst → List Nat
  | .c => []
  | .w => [0, 1, 5, 12]
  | .e => [6, 8]
  | .m => [2, 14]
  | .uNet _ => [3, 4]
  | _ => []

/-- A source of the kind that is still there: a lost clock, a supply below its reset level, or for E the KEEP state until its
last domain has come back (Tables 17.3, 17.5, R419). -/
def stillHeld (s : State) (k : Rst) : Bool :=
  (lossClocks k).any s.pwr.lostClk.contains ||
  (match k with
   | .c => s.pwr.lowSupply.any fun x => x != 3 && x != 4
   | .uNet _ => s.pwr.lowSupply.any fun x => x == 3 || x == 4
   | .uPort p => s.pwr.fclkHeld.contains p
   | .e => powerState s == 2 || (powerState s == 4 && s.pwr.goal == 0 && s.pwr.powerOn != [])
   | _ => false)

def isAsserted (s : State) (k : Rst) : Bool := s.pwr.asserts.any fun a => a.kind == k

/-- RST_STATUS follows the assertions, and a W reset asserts M for as long as it lasts (R400); RST_N is driven low in C and
W (R405). -/
def showActs (s : State) : State :=
  let s := (s.fset RST_STATUS_W_ACT (b2n (isAsserted s .w))).fset RST_STATUS_E_ACT (b2n (isAsserted s .e))
  let s := s.fset RST_STATUS_M_ACT (b2n (isAsserted s .m || isAsserted s .w))
  s.fset RST_STATUS_RSTN_IN (b2n (!isAsserted s .c && !isAsserted s .w))

/-- What an assertion does to the units it reaches. -/
def resetEffect (s : State) : Rst → State
  | .c => s
  | .w => warmReset s
  | .e => engineReset s
  | .m => mgmtReset s
  | .uCluster i => clusterReset s i
  | .uPort i => portReset s i
  | .uNet i => netReset s i

/-- A kind is asserted, or asserted again. While C is, no other is. -/
def assertOne (s : State) (k : Rst) : State :=
  if isAsserted s .c then s
  else
    let s := resetEffect s k
    let rest := s.pwr.asserts.filter fun a => a.kind != k
    showActs { s with pwr := { s.pwr with asserts := rest ++ [⟨k, !stillHeld s k, stretchNs k⟩] } }

/-- A W reset also asserts M (R400). -/
def assertReset (s : State) (k : Rst) : State := if k = .w then assertOne (assertOne s .w) .m else assertOne s k

def assertCold (s : State) (cause : Nat) : State :=
  let s := coldReset s cause true
  let s := { s with pwr := { s.pwr with asserts := [⟨.c, !stillHeld s .c, stretchNs .c⟩] } }
  showActs s

/-- Sources that have gone are released, and the stretch begins. -/
def releaseSources (s : State) : State :=
  { s with pwr := { s.pwr with asserts := s.pwr.asserts.map fun (a : Assert) =>
      if !a.released && !stillHeld s a.kind then { a with released := true, left := stretchNs a.kind } else a } }

/-! ## Release (R407) -/

/-- Whether an asserted reset reaches a domain, named by the kinds that do. -/
def reached (s : State) (ks : List Rst) : Bool := (Rst.c :: ks).any (isAsserted s)

/-- The engine leaves reset: the rate family in force is the one set (R16), and the mix table memory is zero (R141). -/
def engineFree (s : State) : State :=
  let s := zeroRange s mixBase (mixBase + 0x400000)
  let s := s.fset SCH_STATUS_FAMILY_ACT (s.fget SCH_FAMILY_CFG_FAMILY)
  let s := s.fset SCH_STATUS_TICK_ACT (s.fget SCH_TICK_CFG_TICK_LEN)
  { s with pwr := { s.pwr with engineRst := false } }

/-- One step of a release: the units in `ready` leave if the clocks that the step uses are good; a step whose clock is not
holds the later ones. -/
def releaseStep (clocks : List Nat) (ready : State → Bool) (free : State → State) (a : State × Bool) : State × Bool :=
  if ¬ a.2 ∨ ¬ ready a.1 then a
  else if clocks.all (good a.1) then (free a.1, true)
  else (a.1, false)

/-- Every domain that no reset reaches any more, whose clocks are good and whose power is on leaves reset, in order. -/
def settle (s : State) : State :=
  let nets := fun (s : State) => (List.range 6).filter fun p => s.pwr.nets.contains p && !reached s [.w, .uNet p] && s.pdOn pdNet
  let cls := fun (s : State) => allClusters.filter fun c =>
    s.pwr.clusters.contains c && !reached s [.w, .e, .uCluster c] && s.pdOn c && s.role c != roleRetired && !s.pwr.engineRst
  let prts := fun (s : State) => (List.range 48).filter fun p =>
    s.pwr.ports.contains p && !reached s [.w, .e, .uPort p] && s.pdOn pdPorts && !s.pwr.engineRst
  let a : State × Bool := (s, true)
  let a := releaseStep [0, 1, 2] (fun s => s.pwr.mgmtRst && !reached s [.w, .m])
    (fun s => { s with pwr := { s.pwr with mgmtRst := false } }) a
  let a := releaseStep [0, 1, 10] (fun s => s.pwr.hifRst && !reached s [.w] && s.pdOn pdHif)
    (fun s => { s with pwr := { s.pwr with hifRst := false } }) a
  let a := releaseStep [1, 3, 4] (fun s => nets s != [])
    (fun s => let l := nets s
      { s with pwr := { s.pwr with nets := s.pwr.nets.filter fun p => !l.contains p } }) a
  let a := releaseStep [1, 13] (fun s => s.pwr.twinRst && !reached s [.w] && s.pdOn pdTwin)
    (fun s => { s with pwr := { s.pwr with twinRst := false } }) a
  let a := releaseStep [0, 1, 6, 8] (fun s => s.pwr.engineRst && !reached s [.w, .e] && s.pdOn pdMix && s.pwr.powerOn == []) engineFree a
  let a := releaseStep [0] (fun s => cls s != []) (fun s => s.each (cls s) clusterFree) a
  let a := releaseStep [1, 6] (fun s => prts s != [])
    (fun s => let l := prts s
      { s with pwr := { s.pwr with ports := s.pwr.ports.filter fun p => !l.contains p } }) a
  a.1

/-- Straps are sampled (R315, R429). -/
def sampleStraps (s : State) : State :=
  let s := s.fset TWN_STATUS_STRAP (b2n s.balls.twinId)
  let s := s.fset MGT_BOOT_STATUS_BOOTSEL s.balls.bootsel.toNat
  s.when (s.on TWN_CFG_EN) (·.fset TWN_STATUS_ROLE (b2n s.balls.twinId))

/-- The roles at a cold reset (R307): the passing clusters take H00 to H23 in order, the next two become E0 and E1, and a
cluster that fails its power-on BIST is RETIRED (POWERON). -/
def firstRoles (s : State) (failed : List Nat) : State :=
  let pass := allClusters.filter fun c => !failed.contains c
  let s := s.each ((pass.take 24).zipIdx) fun s e => setRole s e.1 roleHearth e.2
  let s := s.each ((pass.drop 24).zipIdx) fun s e => (setRole s e.1 roleEmber 0x1F).fset (EMB_MAP_EID e.1) e.2
  embStatus (s.each (allClusters.filter failed.contains) fun s c => retire s c whyPoweron)

/-- A cold reset ends: its cause, the straps, the roles, and PD_HIF powered. -/
def coldOver (s : State) (failed : List Nat) : State :=
  let s := s.fset ⟨RST_CAUSE, s.pwr.coldCause, 1⟩ 1
  firstRoles (sampleStraps (s.fset ⟨CLK_PD_ST1, 3, 1⟩ 1)) failed

/-- Assertions whose sources are released and whose stretch has passed end. -/
def dropAsserts (s : State) (failed : List Nat) : State :=
  let gone := s.pwr.asserts.filter fun a => a.released && a.left == 0
  let cold := gone.any fun a => a.kind == .c
  let warm := gone.any fun a => a.kind == .w
  let s := { s with pwr := { s.pwr with asserts := s.pwr.asserts.filter fun a => !(a.released && a.left == 0) } }
  let s := s.when (cold || warm) fun s => { s with pwr := { s.pwr with smokeFrom := s.tmb.c, rstnQuiet := 20000 } }
  let s := s.when cold (coldOver · failed)
  s.when warm sampleStraps

/-- RESET_RELEASE: `ns` nanoseconds of the slow clock pass; the strap balls stand as given (R454), and
where a cold reset ends the clusters in `failed` fail their power-on BIST. -/
def resetRelease (s : State) (ns : Nat) (twinId : Bool) (bootsel : BitVec 2) (failed : List Nat) : State :=
  let s := { s with balls := ⟨twinId, bootsel⟩, pwr := { s.pwr with
    rstnQuiet := s.pwr.rstnQuiet - ns
    asserts := s.pwr.asserts.map fun (a : Assert) => if a.released then { a with left := a.left - ns } else a } }
  settle (showActs (dropAsserts s failed))

def execResetRelease (ns : Nat) (twinId : Bool) (bootsel : BitVec 2) (failed : List Nat) (s : State) :
    Host.Outcome State Fault Refusal :=
  done (failed.all clusterOk) (resetRelease s ns twinId bootsel failed)

/-! ## RST_CMD (R401, R402) -/

def rstCause (s : State) (f : Fd) : State := s.fset f 1

/-- The unit of a U reset: class 0 cluster, 1 port, 2 network port. -/
def unitKind (uclass unit : Nat) : Option Rst :=
  if uclass = 0 ∧ unit < 26 then some (.uCluster unit)
  else if uclass = 1 ∧ unit < 48 then some (.uPort unit)
  else if uclass = 2 ∧ unit < 6 then some (.uNet unit)
  else none

/-- A host E or U reset: refused in the LEAD of a joined pair; a SHADOW leaves its pair first. -/
def pairGuard (s : State) (ag : Agent) (f : State → State) (kind unit : Nat) : State :=
  if ag = .host ∧ pairJoined s then
    (if s.lead then raise s (srcOf 1 3) (plain kind unit 0xFFFF 0)
     else f (raise (detachPair s 5) (srcOf 1 3) (plain kind unit 0 0)))
  else f (raise s (srcOf 1 3) (plain kind unit 0 0))

def resetW (s : State) : State := assertReset (rstCause (raise s (srcOf 1 3) (plain 1 0 0 0)) RST_CAUSE_W_HOST) .w
def resetE (s : State) (ag : Agent) : State := pairGuard s ag (fun s => assertReset (rstCause s RST_CAUSE_E_HOST) .e) 2 0
def resetU (s : State) (ag : Agent) (uclass unit : Nat) : State := match unitKind uclass unit with
  | none => regAccess s 3 RST_CMD
  | some k => pairGuard s ag (fun s => assertReset (rstCause s RST_CAUSE_U_HOST) k) 3 unit
def resetM (s : State) : State := assertReset (rstCause (raise s (srcOf 1 3) (plain 4 0 0 0)) RST_CAUSE_M_HOST) .m

/-- A write of RST_CMD acts only with its key. -/
def keyed (s : State) (key : Nat) (f : State → State) : State := if key = 0x5EED then f s else raise s (srcOf 1 1) 0

/-- A write of RST_CMD. -/
def writeRstCmd (s : State) (ag : Agent) (v : Nat) : State :=
  keyed s (bits v 16 16) fun s => match bits v 0 3 with
    | 0 => s
    | 1 => resetW s
    | 2 => resetE s ag
    | 3 => resetU s ag (bits v 3 2) (bits v 5 6)
    | 4 => resetM s
    | _ => regAccess s 3 RST_CMD

/-- WRESET from the twin peer (R326). -/
def execWreset (s : State) : Host.Outcome State Fault Refusal :=
  done true (if ¬ s.on TWN_CFG_EN ∨ s.fget TWN_STATUS_LANE_UP = 0 then s else assertReset (rstCause s RST_CAUSE_W_TWIN) .w)

/-! ## RST_N, power-on and supplies (R405, R420, R421) -/

/-- RST_N_LOW: the ball is held low from outside for `ns`. -/
def execRstNLow (ns : Nat) (s : State) : Host.Outcome State Fault Refusal :=
  let drives := isAsserted s .c || isAsserted s .w
  done true (s.when (!drives && decide (s.pwr.rstnQuiet + 1000 ≤ ns)) (assertCold · 2))

def execPowerOn (s : State) : Host.Outcome State Fault Refusal := done true (assertCold s 0)

/-- SUPPLY_RESET: a supply falls below its reset level. -/
def supplyReset (s : State) (x : Nat) : State :=
  let s := { s with pwr := { s.pwr with lowSupply := x :: s.pwr.lowSupply.filter (· ≠ x) } }
  if x ≠ 3 ∧ x ≠ 4 then assertCold s 1
  else
    let s := s.fset TWN_STATUS_LANE_UP 0
    s.each (List.range 6) fun s p => assertReset s (.uNet p)

def execSupplyReset (supply : Nat) (s : State) : Host.Outcome State Fault Refusal := done (decide (supply < 7)) (supplyReset s supply)

/-- SUPPLY_WARN: a supply falls below its warning level. -/
def supplyWarn (s : State) (x : Nat) : State :=
  let f : Fd := ⟨CLK_SUP_STATUS, x, 1⟩
  if s.on f then s
  else raise ((showStretch (s.fset f 1)).count CLK_SUP_CNT_WARN_CNT 1) (srcOf 0 3) (plain 0 x 0 0)

def execSupplyWarn (supply : Nat) (s : State) : Host.Outcome State Fault Refusal := done (decide (supply < 7)) (supplyWarn s supply)

/-- SUPPLY_OK: a supply is above its warning level again; `us` whole microseconds of stretch end with it. -/
def supplyOk (s : State) (x us : Nat) : State :=
  let was := s.on CLK_SUP_STATUS_STRETCH
  let s := showStretch (s.fset ⟨CLK_SUP_STATUS, x, 1⟩ 0)
  let s := s.when (was && !s.on CLK_SUP_STATUS_STRETCH) (·.count CLK_SUP_CNT_STRETCH_US us)
  let s := { s with pwr := { s.pwr with lowSupply := s.pwr.lowSupply.filter (· ≠ x) } }
  releaseSources s

def execSupplyOk (supply us : Nat) (s : State) : Host.Outcome State Fault Refusal := done (decide (supply < 7)) (supplyOk s supply us)

/-! ## Clocks (R410) -/

/-- A PCI Express conventional or function-level reset (R403). -/
def pcieReset (s : State) : State :=
  let s := newEpoch s sidHost
  let s := s.each ((List.range 8).map (8 + ·)) wipeBox
  let outside := fun (key : Nat) => !inSpan (key / 8 * 4) HIF_CTRL 0x10000
  { s with
    regs := Tbl.clear s.regs HIF_CTRL 0x20000
    latch := s.latch.filter fun e => outside e.1
    hold := s.hold.filter fun e => outside e.1
    hif := { bad := s.hif.bad, msix := s.hif.msix } }

def execPcieReset (s : State) : Host.Outcome State Fault Refusal := done true (pcieReset s)

/-- The kinds that the loss of a clock asserts, with the cause bit. -/
def lossKinds (s : State) (b : Nat) : List Rst × Option Fd :=
  if (lossClocks .w).contains b then ([.w], some RST_CAUSE_W_CLK)
  else if (lossClocks .e).contains b then ([.e], none)
  else if (lossClocks .m).contains b then ([.m], none)
  else if b = 3 ∨ b = 4 then ((List.range 6).map Rst.uNet, some RST_CAUSE_U_CLK)
  else if b = 7 then (((List.range 48).filter fun p => s.mode p == mFlue).map Rst.uPort, some RST_CAUSE_U_CLK)
  else ([], none)

/-- CLK_LOST. -/
def clkLost (s : State) (b : Nat) : State :=
  if b = 9 ∨ b = 11 ∨ b = 15 then s
  else
    let ks := lossKinds s b
    let s := (s.fset ⟨CLK_LOST, b, 1⟩ 1).fset ⟨CLK_GOOD, b, 1⟩ 0
    let s := raise { s with pwr := { s.pwr with lostClk := b :: s.pwr.lostClk.filter (· ≠ b) } } (srcOf 1 0) (plain 0 b 0 0)
    let s := s.when (b == 4 || b == 13) (·.fset TWN_STATUS_LANE_UP 0)
    let s := s.when (b == 10) pcieReset
    let s := s.when (b == 7) fun s =>
      { s with pwr := { s.pwr with fclkHeld := (List.range 48).filter fun p => s.mode p == mFlue || s.pwr.fclkHeld.contains p } }
    let s := match ks.2 with
      | some f => s.when (!ks.1.isEmpty) (rstCause · f)
      | none => s
    s.each ks.1 assertReset

def execClkLost (clk : Nat) (s : State) : Host.Outcome State Fault Refusal := done (decide (clk < 16)) (clkLost s clk)

/-- CLOCK_QUALIFIED: a clock has shown good for its qualification time. -/
def clockQualified (s : State) (b : Nat) : State :=
  let s := s.when (b != 9 && b != 11) (·.fset ⟨CLK_GOOD, b, 1⟩ 1)
  let s := { s with pwr := { s.pwr with
    lostClk := s.pwr.lostClk.filter (· ≠ b), fclkHeld := if b = 7 then [] else s.pwr.fclkHeld } }
  settle (releaseSources s)

def execClockQualified (clk : Nat) (s : State) : Host.Outcome State Fault Refusal := done (decide (clk < 16)) (clockQualified s clk)

end Sys2Proof.Machine
end

