-- ==== Sys2Proof/Machine/Fault.lean ====
section
/-! DEFINITION. Machine/Fault.lean: the fault collector (R383 to R398): escalation, the counts, recovery, parity and the thermal
comparisons (R424). -/

namespace Sys2Proof.Machine

/-! ## Escalation (R388 to R391) -/

def pendBit (src : Nat) : Fd := ⟨FLT_PEND (src / 32), src % 32, 1⟩
def isPending (s : State) (src : Nat) : Bool := s.on (pendBit src)

/-- The pending bit clears and the timer stops. -/
def clearPending (s : State) (src : Nat) : State :=
  { s.fset (pendBit src) 0 with flt := { s.flt with grace := Tbl.clear s.flt.grace src (src + 1) } }

/-- L_g. -/
def lvl (g : Nat) : Fd := ⟨FLT_GRP_LVL (g / 16), 2 * (g % 16), 2⟩

/-- The unit of a source that a U reset can reach (Table 16.1). -/
def sourceUnit (src : Nat) : Option Rst :=
  let g := src / 16
  if 2 ≤ g ∧ g ≤ 27 then some (.uCluster (g - 2))
  else if 30 ≤ g ∧ g ≤ 41 then some (.uPort (4 * (g - 30) + src % 16 / 4))
  else if 48 ≤ g ∧ g ≤ 53 then some (.uNet (g - 48))
  else none

/-- ENTRY for a source (R393, Table 16.5). -/
def entryOf (src : Nat) : Nat := if src = 0 then 2 else if src = 5 then 3 else if src = 6 then 4 else 1

def rung1 (s : State) (src : Nat) : Option State := match sourceUnit src with
  | some (.uCluster c) =>
    if s.role c = roleHearth then none else some (assertReset (rstCause s RST_CAUSE_U_ESCAL) (.uCluster c))
  | some k => some (assertReset (rstCause s RST_CAUSE_U_ESCAL) k)
  | none => none

def rung2 (s : State) (src : Nat) : Option State := match sourceUnit src with
  | some (.uCluster c) => if s.role c = roleHearth then takeover s c else none
  | _ => none

/-- Take the first available rung from `r` on (Table 16.3): the rung and its effect. -/
def takeRung (s : State) (src r : Nat) : Nat × State :=
  let four := (4, enterFault s (entryOf src))
  let three := match (if r ≤ 3 then escalateTwin s else none) with
    | some t => (3, t)
    | none => four
  let two := match (if r ≤ 2 then rung2 s src else none) with
    | some t => (2, t)
    | none => three
  match (if r ≤ 1 then rung1 s src else none) with
  | some t => (1, t)
  | none => two

/-- A source's grace expires. -/
def escalate (s : State) (src : Nat) : State :=
  if ¬ isPending s src then s
  else
    let g := src / 16
    let t := takeRung (clearPending s src) src (max (srcRung s src) (s.fget (lvl g) + 1))
    let s := t.2.fset (lvl g) (min t.1 3)
    let s := { s with flt := { s.flt with decay := Tbl.clear s.flt.decay g (g + 1) } }
    let s := raise s (srcOf 0 1) (plain t.1 g src 0)
    s.when (src == 0 || src == 5 || src == 6) (enterFault · (entryOf src))

/-- Every pending source whose grace is over, in ascending order. -/
def expireDue (s : State) : State :=
  s.each ((s.regs.filter fun e => inSpan e.1 (FLT_PEND 0) 128).flatMap fun e =>
    ((List.range 32).filter fun b => e.2.getLsbD b).map fun b => 32 * ((e.1 - FLT_PEND 0) / 4) + b) fun s src =>
      s.when (decide (Tbl.get 0 s.flt.grace src ≤ s.tmb.c)) (escalate · src)

/-- A source raises an event; one without a grace time escalates at once. -/
def report (s : State) (src detail : Nat) : State := expireDue (raise s src detail)

/-- A parity error is found. -/
def parityError (s : State) : State := expireDue (raiseOnce (s.fset FLT_STATUS_PARITY_ERR 1) 0 0)

/-- A word that is used, with its parity checked. -/
def useWord (s : State) (off : Nat) : State := s.when (s.flt.badParity.contains off) parityError

/-- SOURCE_EVENT: a unit reports; an offset that Table 16.1 does not list is never raised (R383). For CFG_PARITY, ARG32 names
the word that failed at its use. -/
def sourceEvent (s : State) (src : Nat) (detail : W64) : State :=
  if sourceCfg src = 1024 then s
  else if src ≠ 0 then report s src detail.toNat
  else
    let off := bits detail.toNat 32 32
    let s := s.when (parityWord off && !s.flt.badParity.contains off) fun s =>
      { s with flt := { s.flt with badParity := off :: s.flt.badParity } }
    parityError s

def execSourceEvent (src : Nat) (detail : W64) (s : State) : Host.Outcome State Fault Refusal :=
  done (decide (src < 1024)) (sourceEvent s src detail)

def execEscalation (src : Nat) (s : State) : Host.Outcome State Fault Refusal := done (decide (src < 1024)) (escalate s src)

/-- FLT_ACK. -/
def ackSource (s : State) (src : Nat) : State := s.when (isPending s src) (clearPending · src)

/-! ## Counts (R386, R390, R395) -/

def closeWindow (s : State) (src : Nat) : State :=
  { s.fset (FLT_SRC_CNT_CUR src) 0 with flt := { s.flt with window := Tbl.clear s.flt.window src (src + 1) } }

def countWindow (s : State) (src : Nat) : State :=
  let w := Tbl.get 0 s.flt.window src
  if w ≤ 1 then closeWindow s src else { s with flt := { s.flt with window := Tbl.put 0 s.flt.window src (w - 1) } }

/-- WINDOW_CLOSE: the count point at which a source's window closes. -/
def execWindowClose (src : Nat) (s : State) : Host.Outcome State Fault Refusal :=
  done (decide (src < 1024)) (s.when (Tbl.get 0 s.flt.window src == 1) (closeWindow · src))

def escW (s : State) : Nat := max 1 (s.fget FLT_ESC_ESC_W)

def decayGroup (s : State) (g : Nat) : State :=
  { s.fset (lvl g) 0 with flt := { s.flt with decay := Tbl.clear s.flt.decay g (g + 1) } }

def countDecay (s : State) (g : Nat) : State :=
  if s.fget (lvl g) = 0 then s
  else
    let n := Tbl.get 0 s.flt.decay g + 1
    if escW s ≤ n then decayGroup s g else { s with flt := { s.flt with decay := Tbl.put 0 s.flt.decay g n } }

/-- LADDER_DECAY: the count point at which a group's ladder level returns to 0. -/
def execLadderDecay (group : Nat) (s : State) : Host.Outcome State Fault Refusal :=
  done (decide (group < 64))
    (s.when (s.fget (lvl group) != 0 && decide (escW s ≤ Tbl.get 0 s.flt.decay group + 1)) (decayGroup · group))

/-- The quiet count reaches Q with no parity error (R395). -/
def recover (s : State) : State :=
  let s := useWord s FLT_REC
  if s.on FLT_STATUS_PARITY_ERR then s
  else
    let s := if s.flt.recOpen then s.count FLT_STATUS_REC_CNT 1
      else { s.fset FLT_STATUS_REC_CNT 1 with flt := { s.flt with recOpen := true, recWin := max 1 (s.fget FLT_REC_REC_W) } }
    if s.fget FLT_REC_REC_MAX < s.fget FLT_STATUS_REC_CNT then raise (s.fset FLT_STATUS_STATE 2) (srcOf 0 8) 0
    else raise (portsFadeIn (s.fset FLT_STATUS_STATE 0)) (srcOf 0 7) 0

def quietDue (s : State) (n : Nat) : Bool :=
  s.fget FLT_STATUS_STATE == 1 && !s.flt.noisy && !s.on FLT_STATUS_PARITY_ERR && decide (max 1 (s.fget FLT_QUIET_Q) ≤ n)

/-- RECOVERY: the count point at which the quiet count reaches Q. -/
def execRecovery (s : State) : Host.Outcome State Fault Refusal :=
  let n := s.fget FLT_STATUS_QUIET + 1
  done true (s.when (quietDue s n) fun s => recover (s.fset FLT_STATUS_QUIET n))

/-- The quiet count at a count point: the tick that ended counts unless an event that restarts the count arrived in it. -/
def countQuiet (s : State) : State :=
  if s.fget FLT_STATUS_STATE ≠ 1 then s
  else if s.flt.noisy then { s with flt := { s.flt with noisy := false } }
  else
    let s := useWord (s.count FLT_STATUS_QUIET 1) FLT_QUIET
    s.when (quietDue s (s.fget FLT_STATUS_QUIET)) recover

def closeRec (s : State) : State :=
  { s.fset FLT_STATUS_REC_CNT 0 with flt := { s.flt with recOpen := false, recWin := 0 } }

def countRec (s : State) : State :=
  if ¬ s.flt.recOpen then s
  else if s.flt.recWin ≤ 1 then closeRec s
  else { s with flt := { s.flt with recWin := s.flt.recWin - 1 } }

/-- REC_WINDOW_CLOSE: the count point at which the recovery window closes. -/
def execRecWindowClose (s : State) : Host.Outcome State Fault Refusal :=
  done true (s.when (s.flt.recOpen && decide (s.flt.recWin ≤ 1)) closeRec)

/-- One count point: a tick start, or an instant of the grid while no ticks are processed; and what is due by the count of C. -/
def collectorPoint (s : State) : State :=
  let s := s.each (s.flt.window.map (·.1)) countWindow
  let groups := (List.range 64).filter fun g => s.fget (lvl g) != 0
  let s := s.when (!groups.isEmpty) (useWord · FLT_ESC)
  let s := s.each groups countDecay
  expireDue (countQuiet (countRec s))

/-! ## Parity sweep and the host's writes (R393, R396, R397) -/

/-- The sweep starts as C reaches the next multiple of 500,000; while C does not advance, the slow clock starts it. -/
def sweepStart (s : State) : State :=
  if ¬ good s 5 then s
  else
    let s := advance s (nextInstant s.tmb.c s.flt.lastSweep 500000)
    { s with flt := { s.flt with lastSweep := s.tmb.c } }

def execParitySweep (s : State) : Host.Outcome State Fault Refusal :=
  let s1 := sweepStart s
  done true (s1.when (s1.flt.badParity != []) parityError)

def forceSafe (s : State) : State := report s (srcOf 0 6) 0

def unlatch (s : State) : State :=
  s.when (s.fget FLT_STATUS_STATE == 2) fun s =>
    restartQuiet ((s.fset FLT_STATUS_STATE 1).fset FLT_STATUS_REC_CNT 0)

/-! ## Temperature (R424) -/

/-- The highest of the sensors' readings, with the sensor that gives it. -/
def hottest (l : List (BitVec 16)) : Int × Nat :=
  l.zipIdx.foldl (fun (a : Int × Nat) e => if a.1 < e.1.toInt then (e.1.toInt, e.2) else a) ((l.headD 0).toInt, 0)

/-- One threshold: raised when it is reached while armed, and armed again 5 °C below it. -/
def thermStep (t : Int) (limit : Nat) (armed : Bool) : Bool × Bool :=
  if armed ∧ (256 * limit : Int) ≤ t then (true, false)
  else (false, armed || decide (t ≤ 256 * ((limit : Int) - 5)))

def thermalSample (s : State) (l : List (BitVec 16)) : State :=
  let h := hottest l
  let s := (s.fset MGT_THERM_MAX_TEMP (uns 16 h.1)).fset MGT_THERM_MAX_SENSOR h.2
  let w := thermStep h.1 (s.fget MGT_THERM_CFG_WARN) s.mgmt.thermWarnArmed
  let c := thermStep h.1 (s.fget MGT_THERM_CFG_CRIT) s.mgmt.thermCritArmed
  let s := { s with mgmt := { s.mgmt with
    therm := l.zipIdx.foldl (fun (t : Tbl (BitVec 16)) (e : BitVec 16 × Nat) => Tbl.put 0 t e.2 e.1) [], thermWarnArmed := w.2, thermCritArmed := c.2 } }
  let s := s.when w.1 (report · (srcOf 0 4) 0)
  s.when c.1 (report · (srcOf 0 5) 0)

def execThermalSample (readings : List (BitVec 16)) (s : State) : Host.Outcome State Fault Refusal :=
  done (readings.length == 16) (thermalSample s readings)

/-! ## SMOKE (R398) -/

/-- The level of the SMOKE ball. -/
def smokeLevel (s : State) : Bool :=
  if isAsserted s .c ∨ isAsserted s .w then true
  else if s.faulted then false
  else s.tmb.c / 250000 == s.pwr.smokeFrom / 250000 || s.tmb.c / 250000 % 2 == 0

end Sys2Proof.Machine
end

