-- ==== Sys2Proof/Machine/Power.lean ====
section
/-! DEFINITION. Machine/Power.lean: power domains (R412 to R414) and power states (R415 to R419). -/

namespace Sys2Proof.Machine

/-! ## Domains (Table 17.6) -/

def pdEn (d : Nat) : Fd := if d < 32 then ⟨CLK_PD_EN0, d, 1⟩ else ⟨CLK_PD_EN1, d - 32, 1⟩
def pdSt (d : Nat) : Fd := if d < 32 then ⟨CLK_PD_ST0, d, 1⟩ else ⟨CLK_PD_ST1, d - 32, 1⟩

/-- The addresses of the delay-store banks 4d to 4d + 3 (R375). -/
def delayBanks (d a : Nat) : Bool := inSpan a delayBase 0x6000000 && a / 64 % 16 / 4 == d

/-- The contents of delay-store domain `d` are lost. -/
def loseBanks (s : State) (d : Nat) : State :=
  let s := s.each ((List.range 4).map (26 + 4 * d + ·)) targetReset
  { s with
    mem := s.mem.filter fun e => !delayBanks d e.1
    mtx := { s.mtx with ue := s.mtx.ue.filter fun a => !delayBanks d a, ce := s.mtx.ce.filter fun a => !delayBanks d a } }

/-- The ASRC channels and the chains lose everything, as by E; the sense chains of FLUE ports start anew (R202). -/
def loseCnv (s : State) : State :=
  let s := resetRegs s letterE fun off => inSpan off (ASR_CH_CFG 0) 0x10000 || inSpan off (DEC_CH_CFG 0) 0x10000
  let s : State := { s with asrc := [], chains := [] }
  s.each ((List.range 48).filter fun p => s.mode p == mFlue) startSense

/-- The twin link goes off: both lanes are down, and with them the pair, unless it is DETACHED (Table 12.2). -/
def twinLoss (s : State) : State :=
  let s := s.when (s.pair != pDetached) fun s => (s.fset TWN_STATUS_PAIR pDown).fset TWN_STATUS_PRESENT 0
  { s.fset TWN_STATUS_LANE_UP 0 with twin := {}, pwr := { s.pwr with twinRst := true } }

/-- What the units of a domain lose when it goes off. -/
def domainLoss (s : State) (d : Nat) : State :=
  if d < 26 then clusterReset s d
  else if d < 30 then loseBanks s (d - 26)
  else if d = pdNet then zeroRange ((targetReset s 44).each (List.range 6) netReset) netBase (netBase + 0xC00000)
  else if d = pdTwin then twinLoss s
  else if d = pdPorts then s.each (List.range 48) portReset
  else if d = pdCnv then loseCnv s
  else s

def domainOff (s : State) (d : Nat) : State := domainLoss (s.fset (pdSt d) 0) d

/-- The memories of a domain. -/
def domainMems (d : Nat) : List Nat :=
  if d < 26 then [d]
  else if d < 30 then (List.range 4).map (0x20 + 4 * (d - 26) + ·)
  else if d = pdNet then [0x30]
  else if d = pdMix then [0x31, 0x32]
  else []

/-- A domain is on and qualified; its units leave reset when nothing holds them (R407), and its scrubbers start. -/
def domainOn (s : State) (d : Nat) : State :=
  if s.pdOn d then s else settle ((startPace (domainLoss s d) (domainMems d)).fset (pdSt d) 1)

/-- The delay lines of the images that clusters hold. -/
def heldLines (s : State) : List DLine := s.clusters.flatMap fun e => match e.2.image with
  | some im => im.dlines
  | none => []

/-- A line has a word in banks 4d to 4d + 3. -/
def lineUses (l : DLine) (d : Nat) : Bool :=
  let a := (delayBase + 4 * l.base) / 64
  let n := (delayBase + 4 * (l.base + l.len) + 63) / 64 - a
  (List.range (min 16 n)).any fun i => (a + i) % 16 / 4 == d

/-- A unit of the domain is in use (R413). -/
def inUse (s : State) (d : Nat) : Bool :=
  if d < 26 then s.role d != roleRetired || s.imgState d != 0
  else if d < 30 then (heldLines s).any (lineUses · (d - 26))
  else if d = pdNet then
    ((List.range 6).any fun p => netMode s p != 0) || (s.rx.any fun e => e.2.state != 0) || s.tx.any fun e => e.2.state != 0
  else if d = pdTwin then s.on TWN_CFG_EN
  else if d = pdPorts then
    (List.range 48).any fun p => s.pst p != stOff || (s.fst p != fOff && s.fst p != fLatched)
  else if d = pdCnv then (List.range 48).any fun p => (chans s p).any fun e => e.path == 1 || e.path == 2
  else true

/-- The domains that power follows their EN bits in: all of them in RUN and QUIET, PD_NET in KEEP (Table 17.7). -/
def powered (s : State) (d : Nat) : Bool :=
  powerState s == 0 || powerState s == 1 || (powerState s == 2 && d == pdNet)

/-- One bit of a write of CLK_PD_EN. -/
def putPdBit (s : State) (d : Nat) (v : Bool) : State :=
  let retired := decide (d < 26) && s.role d == roleRetired
  if d = pdMix ∨ d = pdHif ∨ retired then s
  else if v then (s.fset (pdEn d) 1).when (powered s d) (domainOn · d)
  else if s.fget (pdEn d) = 0 then s
  else if inUse s d then s.fset CLK_PWR_STATUS_REFUSED 1
  else (s.fset (pdEn d) 0).when (powered s d) (domainOff · d)

/-- A write of CLK_PD_EN0 (word 0) or CLK_PD_EN1. -/
def writePdEn (s : State) (word : Nat) (v : W32) : State :=
  s.each (List.range (if word = 0 then 32 else 4)) fun s b => putPdBit s (32 * word + b) (v.getLsbD b)

/-! ## Power states (R415 to R419) -/

def setPower (s : State) (st : Nat) : State := s.fset CLK_PWR_STATUS_STATE st
def refusePower (s : State) : State := s.fset CLK_PWR_STATUS_REFUSED 1

/-- A transition begins. -/
def changing (s : State) (goal : Nat) : State :=
  let s := setPower s 4
  { s with pwr := { s.pwr with goal := goal } }

/-- Ports, streams and flues stop at the tick start (R416 steps 1 and 2). -/
def stopAll (s : State) : State :=
  let n := s.n
  let s := s.each (livePorts s) fun s p => portOff (schedPortStop s p n n).1 p
  let s := s.each ((s.rx.filter fun e => e.2.state != 0).map (·.1)) fun s i => streamOff (effStreamStop s false i n).1 false i
  let s := s.each ((s.tx.filter fun e => e.2.state != 0).map (·.1)) fun s i => (effStreamStop s true i n).1
  s.each (List.range 48) fun s p => (effFlueDisable s p n).1

/-- The order in which domains come on (R419); PD_NET, which KEEP leaves on, comes first after a boot. -/
def powerOrder (s : State) : List Nat :=
  ([pdNet, pdMix, pdCnv] ++ (List.range 4).map pdDelay ++ allClusters.filter (fun c => s.role c != roleRetired) ++ [pdPorts, pdTwin]).filter
    fun d => s.fget (pdEn d) == 1 && !s.pdOn d

/-- KEEP is entered (R418): E, and every domain but PD_HIF and PD_NET off. -/
def enterKeep (s : State) : State :=
  let s := assertReset (rstCause (setPower s 2) RST_CAUSE_E_POWER) .e
  let s := s.each (List.range 30 ++ [pdPorts, pdCnv]) fun s d => s.fset (pdSt d) 0
  twinLoss ((s.fset (pdSt pdTwin) 0).fset (pdSt pdMix) 0)

/-- The last flue is OFF: STATE becomes QUIET, or the entry to KEEP goes on. -/
def quietGate (s : State) : State :=
  let busy := (List.range 48).any fun p => driving (s.fst p) || s.fst p == fStopping
  if powerState s ≠ 4 ∨ s.pwr.goal = 0 ∨ busy then s
  else if s.pwr.goal = 1 then setPower s 1
  else enterKeep s

def execQuietGate (s : State) : Host.Outcome State Fault Refusal := done true (quietGate s)

/-- The return from KEEP begins. -/
def leaveKeep (s : State) : State :=
  let s := changing s 0
  { s with pwr := { s.pwr with powerOn := powerOrder s } }

/-- The return from QUIET (R417): both slot buffers read as zeros in this tick. -/
def leaveQuiet (s : State) : State :=
  let s := setPower s 0
  lateAfterQuiet { s with sch := { s.sch with blank := true } }

/-- A request takes effect. -/
def applyPower (s : State) (q : Nat) : State :=
  let st := powerState s
  if q = 0 then
    (if st = 1 then leaveQuiet s
     else if st = 2 then leaveKeep s
     else if st = 4 ∧ s.pwr.goal ≠ 0 then setPower s 0
     else s)
  else if q = 1 then (if st = 0 then quietGate (changing (stopAll s) 1) else s)
  else if st = 0 ∨ st = 1 then quietGate (changing (stopAll s) 2)
  else s

/-- A write of CLK_PWR_CTRL.REQ (R415). -/
def requestPower (s : State) (q : Nat) : State :=
  let st := powerState s
  if q = 3 ∨ st = 3 ∨ (q = 1 ∧ st = 2) ∨ (q ≠ 0 ∧ pairJoined s) then refusePower s
  else if s.running then { s with pwr := { s.pwr with request := some q } }
  else applyPower s q

def putReq (s : State) (q : Nat) : State := requestPower (s.fset CLK_PWR_CTRL_REQ q) q

/-- The request that waits is taken at a tick start. -/
def takeRequest (s : State) : State := match s.pwr.request with
  | none => s
  | some q => applyPower { s with pwr := { s.pwr with request := none } } q

/-- DOMAIN_POWER_ON: the next domain of the sequence is on; after the last one E is released (R419). -/
def powerNext (s : State) : State := match s.pwr.powerOn with
  | [] => s
  | d :: t =>
    let s := domainOn { s with pwr := { s.pwr with powerOn := t } } d
    if t ≠ [] then s
    else settle (releaseSources (s.when (powerState s == 4 && s.pwr.goal == 0) (setPower · 0)))

def execDomainPowerOn (s : State) : Host.Outcome State Fault Refusal := done true (powerNext s)

end Sys2Proof.Machine
end

