-- ==== Sys2Proof/Machine/Mgmt.lean ====
section
/-! DEFINITION. Machine/Mgmt.lean: boot (R426 to R432), PILOT (R433, R434), the Obior messages (R364, R435, R436) and the receiver's
read of a mailbox (R359). -/

namespace Sys2Proof.Machine

/-! ## Log subjects -/

def subjReply : Nat := 1024
def subjBoot : Nat := 1025
def subjUpdate : Nat := 1026
def subjSecurity : Nat := 1027

def logNote (s : State) (level subject : Nat) : State := writeLog s level (logCode level subject) (Config.logArgs subject)

/-! ## Boot (R430 to R432) -/

def stRom : Nat := 0
def stLoading : Nat := 1
def stWaitHost : Nat := 2
def stFirmware : Nat := 3
def stRunning : Nat := 4
def stPilot : Nat := 5
def State.stage (s : State) : Nat := s.fget MGT_BOOT_STATUS_STAGE
def setStage (s : State) (x : Nat) : State := s.fset MGT_BOOT_STATUS_STAGE x

def slotOf (s : State) (b : Bool) : FwSlot := Tbl.get {} s.mgmt.slots (b2n b)
def setSlot (s : State) (b : Bool) (x : FwSlot) : State :=
  { s with mgmt := { s.mgmt with slots := Tbl.put {} s.mgmt.slots (b2n b) x } }

/-- The slot holds an image that is valid now (R427). -/
def slotOk (s : State) (b : Bool) : Bool := (slotOf s b).valid && decide (s.mgmt.otpSvn ≤ (slotOf s b).svn)

/-- A new boot record, in the other copy with GEN + 1 (R426). -/
def writeRecord (s : State) (active trial : Bool) : State :=
  let gen : W32 := match s.mgmt.record with
    | some r => r.1 + 1
    | none => 0
  let s := (s.fset MGT_BOOT_STATUS_ACTIVE (b2n active)).fset MGT_BOOT_STATUS_TRIAL (b2n trial)
  let r := some (gen, active, trial)
  { s with mgmt := { s.mgmt with copies := if s.mgmt.second ∨ s.mgmt.copies.1 = none then (r, s.mgmt.copies.2) else (s.mgmt.copies.1, r) } }

def showRecord (s : State) : State := match s.mgmt.record with
  | some r => (s.fset MGT_BOOT_STATUS_ACTIVE (b2n r.2.1)).fset MGT_BOOT_STATUS_TRIAL (b2n r.2.2)
  | none => s

/-- PILOT (R433). -/
def enterPilot (s : State) (reason : Nat) : State :=
  let s := engineReset s
  let s := zeroRange (s.each (List.range 6) netReset) netBase (netBase + 0xC00000)
  let s := s.each (List.range 35) fun s d => s.fset (pdSt d) 0
  let s := setPower (setStage (twinLoss s) stPilot) 3
  let s := (s.fset MGT_BOOT_STATUS_REASON reason).fset SEC_DBG_STATUS_LEVEL (min 1 (debugLevel s))
  { s with mgmt := { s.mgmt with attempting := false, failed := true }, pwr := { s.pwr with powerOn := [], request := none } }

/-- An attempt fails; a trial image gives way to the other slot (R431). -/
def failAttempt (s : State) (reason : Nat) : State :=
  let s := s.fset MGT_BOOT_STATUS_REASON reason
  let s := writeLog s 0 (logCode 0 subjBoot) (leBytes 1 reason)
  let s := { s with mgmt := { s.mgmt with attempting := false, failed := true } }
  match s.mgmt.record with
  | some (_, active, true) => logNote (writeRecord s (!active) false) 2 subjUpdate
  | _ => s

/-- The firmware is entered (R432 steps 4 to 6); after a cold or warm reset, and out of PILOT, it powers the domains. -/
def startFirmware (s : State) (version : W32) (svn : Nat) : State :=
  let s := writeLog (s.fset MTX_REMAP_REMAP 1) 0 3 (Config.logArgs subjBoot)
  let s := ((setStage s stFirmware).wr MGT_FW_VER version).fset SEC_SVN_FW_SVN svn
  let s := { s with mgmt := { s.mgmt with attempting := true } }
  if s.mgmt.bootByM ∧ powerState s ≠ 3 then s else { s with pwr := { s.pwr with powerOn := powerOrder s } }

/-- Attempts follow one another until one waits, enters the firmware, or leads to PILOT. -/
def bootTry : Nat → State → State
  | 0, s => s
  | fuel + 1, s =>
    let s := (setStage s stRom).wr MGT_BOOT_CNT (s.rd MGT_BOOT_CNT + 1)
    let s := { s with mgmt := { s.mgmt with attemptAt := s.tmb.c } }
    let fails := s.fget MGT_BOOT_STATUS_FAILS
    if fails = 3 then enterPilot s 2
    else
      let s := s.fset MGT_BOOT_STATUS_FAILS (fails + 1)
      let again := fun (s : State) reason => bootTry fuel (failAttempt s reason)
      match s.fget MGT_BOOT_STATUS_BOOTSEL with
      | 2 => enterPilot s 1
      | 3 => if s.fget SEC_LIFE_STATE = 0 then s else enterPilot s 9
      | 1 => { setStage s stWaitHost with mgmt := { s.mgmt with attempting := true } }
      | _ =>
        let s := showRecord (setStage s stLoading)
        match s.mgmt.record with
        | none => again s 3
        | some (_, a, trial) =>
          if slotOk s a then startFirmware s (slotOf s a).version (slotOf s a).svn
          else if ¬ trial ∧ slotOk s (!a) then
            startFirmware (writeRecord s (!a) false) (slotOf s (!a)).version (slotOf s (!a)).svn
          else again s (if (slotOf s a).sigOk ∨ (slotOf s (!a)).sigOk then 5 else 4)

/-- BOOT_ATTEMPT: the management core has left reset. -/
def bootAttempt (s : State) : State :=
  if s.pwr.mgmtRst ∨ ¬ s.mgmt.bootDue then s
  else bootTry 5 { s with mgmt := { s.mgmt with bootDue := false } }

def execBootAttempt (s : State) : Host.Outcome State Fault Refusal := done true (bootAttempt s)

/-- BOOT_OK: the firmware completes the boot. -/
def bootOk (s : State) : State :=
  if ¬ s.mgmt.attempting ∨ s.stage ≠ stFirmware then s
  else
    let s := match s.mgmt.record with
      | some (_, a, true) => logNote (writeRecord s a false) 2 subjUpdate
      | _ => s
    let s := (setStage s stRunning).fset MGT_BOOT_STATUS_BOOT_OK 1
    let s := s.fset MGT_BOOT_STATUS_FAILS 0
    let s := s.when (!s.mgmt.failed) (·.fset MGT_BOOT_STATUS_REASON 0)
    let s := s.when (!s.mgmt.bootByM || powerState s == 3) (setPower · 0)
    { s with mgmt := { s.mgmt with attempting := false, failed := false } }

def execBootOk (s : State) : Host.Outcome State Fault Refusal := done true (bootOk s)

/-- The ROM waits for the host's image. -/
def waitsHost (s : State) : Bool := s.mgmt.attempting && s.stage == stWaitHost && !s.pwr.mgmtRst

/-- `sec` seconds of the running attempt have passed. -/
def attemptFor (s : State) (sec : Nat) : Bool := decide (s.mgmt.attemptAt + 500000000 * sec ≤ s.tmb.c)

/-- HOST_TMO: no image in 60 s (Table 18.5). -/
def execHostTmo (s : State) : Host.Outcome State Fault Refusal :=
  done true (s.when (waitsHost s && attemptFor s 60) fun s => bootTry 5 (failAttempt s 7))

/-! ## Images (R427) -/

/-- The header is correct: MAGIC, LENGTH, the key index, the SVN's range and the zero fields. -/
def headerFits (bs : List Byte) : Bool :=
  let n := fun o w => leNat ((bs.drop o).take w)
  let zero := fun o w => n o w == 0
  n 0 4 == 0x51424F49 && decide (512 ≤ bs.length) && n 12 4 == bs.length - 512 && decide (bs.length ≤ 0x300000) &&
    decide (n 8 1 ≤ 64) && decide (n 9 1 ≤ 3) && zero 10 2 && zero 20 44 && zero 161 95 && zero 352 160

/-- What a slot holds after an image is checked: its signature, and whether it is valid under the OTP SVN. -/
def readSlotImage (s : State) (bs : List Byte) : FwSlot :=
  let sig := headerFits bs && Config.imageOk bs
  let svn := leNat ((bs.drop 8).take 1)
  if sig then { valid := decide (s.mgmt.otpSvn ≤ svn), sigOk := true, version := BitVec.ofNat 32 (leNat ((bs.drop 4).take 4)), svn := svn }
  else {}

/-- BOOT_GO: the host image is read and checked. -/
def bootGo (s : State) : State :=
  if ¬ waitsHost s then s
  else
    let a := s.get64 MGT_HOSTIMG
    let n := s.fget MGT_HOSTIMG_LEN_LEN
    let x := if s.hostBad a n then {} else readSlotImage s (Memory.rdN s.hostMem a n)
    if x.valid then startFirmware s x.version x.svn
    else bootTry 5 (failAttempt s (if x.sigOk then 5 else 4))

/-- CLR_FAIL acts in PILOT (R434). -/
def clrFail (s : State) : State := s.when (s.stage == stPilot) (·.fset MGT_BOOT_STATUS_FAILS 0)

/-- MGT_WDOG: the management watchdog expires (R400, R430); an attempt has 10 s. -/
def mgtWdog (s : State) : State :=
  if s.pwr.mgmtRst ∨ s.mgmt.halted ∨ (s.mgmt.attempting ∧ ¬ attemptFor s 10) then s
  else if s.mgmt.attempting then
    (let s := failAttempt (raise s (srcOf 1 2) 0) 6
     if s.mgmt.bootByM then assertReset (rstCause s RST_CAUSE_M_WDOG) .m else assertReset (rstCause s RST_CAUSE_W_WDOG) .w)
  else if s.stage = stRunning then assertReset (rstCause (raise s (srcOf 1 2) 0) RST_CAUSE_M_WDOG) .m
  else s

def execMgtWdog (s : State) : Host.Outcome State Fault Refusal := done true (mgtWdog s)

/-! ## Replies (R364) -/

def aOk : Nat := 0
def aUnknown : Nat := 1
def aArg : Nat := 2
def aDenied : Nat := 4
def aHostErr : Nat := 5
def aAuth : Nat := 6

/-- Bytes as words, the last one filled with zeros. -/
def wordsOf (bs : List Byte) : List W32 :=
  (List.range (ceilDiv bs.length 4)).map fun (i : Nat) => BitVec.ofNat 32 (leNat ((bs.drop (4 * i)).take 4))

/-- Waiting replies of box `m` go out while it is empty, in order. -/
def pumpReplies (s : State) (m : Nat) : State :=
  match s.mgmt.replies.find? fun r => r.1 == m with
  | none => s
  | some r =>
    if boxFull s m ∨ s.pwr.mgmtRst then s
    else
      let s := { s with mgmt := { s.mgmt with replies := s.mgmt.replies.erase r } }
      (mboxSend s sidMgmt m r.2.2.1 r.2.2.1.length r.2.1).1

/-- The reply to a request of box `i`: the token, STATUS and the bytes from 4 on. -/
def reply (s : State) (i code token status : Nat) (bs : List Byte) : State :=
  let ws := wordsOf (leBytes 2 token ++ leBytes 1 status ++ leBytes 1 0 ++ bs)
  pumpReplies { s with mgmt := { s.mgmt with
    replies := s.mgmt.replies ++ [(8 + i, code ||| 0x80, ws, s.tmb.c + 500000000)] } } (8 + i)

/-- REPLY_DROP: the oldest reply that waits for a box has waited 1 s: it is dropped and logged. -/
def replyDrop (s : State) (i : Nat) : State :=
  match s.mgmt.replies.find? fun r => r.1 == 8 + i && decide (r.2.2.2 ≤ s.tmb.c) with
  | none => s
  | some r =>
    let s := { s with mgmt := { s.mgmt with replies := s.mgmt.replies.erase r } }
    pumpReplies (logNote (raise s (srcOf 61 0) 0) 6 subjReply) (8 + i)

def execReplyDrop (req : Nat) (s : State) : Host.Outcome State Fault Refusal := done (decide (req < 8)) (replyDrop s req)

/-! ## The messages (Table 14.4). Each takes the request's bytes and gives the state, STATUS and the reply's bytes from 4 on. -/

def argN (bs : List Byte) (o w : Nat) : Nat := leNat ((bs.drop o).take w)

def drawWords : Nat → State → State × List W32
  | 0, s => (s, [])
  | n + 1, s =>
    let (v, s) := s.draw Config.sensor
    let r := drawWords n s
    (r.1, v :: r.2)

def msgSensorRead (s : State) (bs : List Byte) : State × Nat × List Byte :=
  let cls := argN bs 4 1
  let first := argN bs 5 1
  let n := argN bs 6 1
  let top := if cls = 0 then 16 else if cls = 1 then 24 else 8
  if 2 < cls ∨ n < 1 ∨ 14 < n ∨ top < first + n then (s, aArg, [])
  else
    let r := if cls = 0 then
        (s, (List.range n).map fun (i : Nat) => BitVec.signExtend 32 (Tbl.get 0 s.mgmt.therm (first + i)))
      else drawWords n s
    (r.1, aOk, leBytes 4 n ++ r.2.flatMap fun v => leBytes 4 v.toNat)

def msgLogRead (s : State) (bs : List Byte) : State × Nat × List Byte :=
  let which := argN bs 4 1
  let first : W32 := BitVec.ofNat 32 (argN bs 8 4)
  let n := argN bs 12 4
  let a := argN bs 16 8
  if 1 < which then (s, aArg, [])
  else
    let log := if which = 0 then s.mgmt.aoLog else s.mgmt.flashLog
    let l := log.filter fun (r : LogRec) => decide ((r.seq - first).toNat < n)
    if s.hostBad a (64 * l.length) then (hostFail s, aHostErr, [])
    else
      (hostStore s a (l.flatMap fun r => logBytes r 0), aOk,
        leBytes 4 l.length ++ leBytes 4 ((l.getLast?.map fun r => r.seq.toNat).getD 0))

def msgLogLevel (s : State) (bs : List Byte) : State × Nat × List Byte :=
  let l := argN bs 4 1
  if 7 < l then (s, aArg, []) else ({ s with mgmt := { s.mgmt with ringLevel := l } }, aOk, [])

/-- UPDATE_STAGE (R435): the inactive slot is erased, and filled with a valid image. -/
def msgUpdateStage (s : State) (bs : List Byte) : State × Nat × List Byte :=
  let a := argN bs 8 8
  let n := argN bs 16 4
  let b := !s.on MGT_BOOT_STATUS_ACTIVE
  let s := logNote (setSlot s b {}) 2 subjUpdate
  if 0x300000 < n then (s, aAuth, [])
  else if s.hostBad a n then (hostFail s, aHostErr, [])
  else
    let x := readSlotImage s (Memory.rdN s.hostMem a n)
    if x.valid then (setSlot s b { x with staged := true }, aOk, leBytes 1 (b2n b)) else (s, aAuth, [])

/-- UPDATE_ACTIVATE (R436): the boot record; the M reset follows the reply. -/
def msgUpdateActivate (s : State) (bs : List Byte) : State × Nat × List Byte :=
  let x := argN bs 4 1
  let b := x == 1
  if 1 < x ∨ ¬ (slotOf s b).staged ∨ ¬ slotOk s b then (s, aArg, [])
  else
    let s := setSlot s b { slotOf s b with staged := false }
    let s := logNote (writeRecord s b true) 2 subjUpdate
    (clrFail s, aOk, [])

def msgBootStatus (s : State) (_bs : List Byte) : State × Nat × List Byte :=
  (s, aOk, leBytes 1 (s.fget MGT_BOOT_STATUS_ACTIVE) ++ leBytes 1 (s.fget MGT_BOOT_STATUS_FAILS) ++
    leBytes 1 (s.fget MGT_BOOT_STATUS_REASON) ++ leBytes 1 (s.fget SEC_LIFE_STATE) ++ leBytes 4 (s.rd MGT_FW_VER).toNat ++
    leBytes 4 (s.rd MGT_BOOT_CNT).toNat)

def msgHealth (s : State) (bs : List Byte) : State × Nat × List Byte :=
  let first := argN bs 4 1
  if 25 < first then (s, aArg, [])
  else
    let n := min 12 (26 - first)
    let cells := (List.range n).flatMap fun i =>
      leBytes 2 (s.fget (EMB_HLTH_VOTE_PASS (first + i))) ++ leBytes 2 (s.fget (EMB_HLTH_BIST_PASS (first + i)))
    let body := leBytes 1 first ++ leBytes 1 n ++ leBytes 2 0 ++ cells
    (s, aOk, (body ++ List.replicate 52 0).take 52 ++ leBytes 2 (s.fget MGT_THERM_MAX_TEMP))

def msgPtpCfg (s : State) (bs : List Byte) : State × Nat × List Byte :=
  let d := argN bs 4 1
  if 1 < d ∨ 4 < argN bs 5 1 ∨ 63 < argN bs 7 1 ∨ 3 < argN bs 8 1 then (s, aArg, [])
  else ({ s with mgmt := { s.mgmt with ptp := Tbl.put [] s.mgmt.ptp d ((bs.drop 5).take 7) } }, aOk, [])

def message (code : Nat) : Option (State → List Byte → State × Nat × List Byte) :=
  match code with
  | 0x01 => some msgSensorRead
  | 0x02 => some msgLogRead
  | 0x03 => some msgLogLevel
  | 0x10 => some msgUpdateStage
  | 0x11 => some msgUpdateActivate
  | 0x20 => some msgBootStatus
  | 0x28 => some msgHealth
  | 0x30 => some msgPtpCfg
  | _ => none

/-- Codes that the ROM's PILOT service answers (R433). -/
def pilotAnswers (code : Nat) : Bool := [0x01, 0x02, 0x10, 0x11, 0x20].contains code

/-- Management takes requests: its firmware runs, or the PILOT service does. -/
def serviceUp (s : State) : Bool := firmwareUp s || (s.stage == stPilot && !s.pwr.mgmtRst)

/-- Management takes the request in box `i` and answers it. -/
def answer (s : State) (i : Nat) : State :=
  if ¬ boxFull s i ∨ ¬ serviceUp s then s
  else
    let code := s.fget (MBX_HDR1_CODE i)
    let bs := (boxWords s i).flatMap fun w => leBytes 4 w.toNat
    let token := argN bs 0 2
    let s := emptyBox s i oTaken
    if s.stage = stPilot ∧ ¬ pilotAnswers code then reply s i code token aDenied []
    else match message code with
      | none => reply s i code token aUnknown []
      | some f =>
        if argN bs 2 2 ≠ 0 then reply s i code token aArg []
        else
          let r := f s bs
          let s := reply r.1 i code token r.2.1 r.2.2
          s.when (code == 0x11 && r.2.1 == aOk) fun s => assertReset (rstCause s RST_CAUSE_M_UPDATE) .m

/-- The request in box `i` is the message `code`. -/
def answerIf (s : State) (i code : Nat) : State := s.when (s.fget (MBX_HDR1_CODE i) == code) (answer · i)

def execSensorRead (req : Nat) (s : State) : Host.Outcome State Fault Refusal := done (decide (req < 8)) (answerIf s req 0x01)
def execLogRead (req : Nat) (s : State) : Host.Outcome State Fault Refusal := done (decide (req < 8)) (answerIf s req 0x02)
def execLogLevel (req : Nat) (s : State) : Host.Outcome State Fault Refusal := done (decide (req < 8)) (answerIf s req 0x03)
def execUpdateStage (req : Nat) (s : State) : Host.Outcome State Fault Refusal := done (decide (req < 8)) (answerIf s req 0x10)
def execUpdateActivate (req : Nat) (s : State) : Host.Outcome State Fault Refusal := done (decide (req < 8)) (answerIf s req 0x11)
def execBootStatus (req : Nat) (s : State) : Host.Outcome State Fault Refusal := done (decide (req < 8)) (answerIf s req 0x20)
def execHealth (req : Nat) (s : State) : Host.Outcome State Fault Refusal := done (decide (req < 8)) (answerIf s req 0x28)
def execPtpCfg (req : Nat) (s : State) : Host.Outcome State Fault Refusal := done (decide (req < 8)) (answerIf s req 0x30)

/-! ## TAKEN (R359) -/

/-- The receiver reads the last word of the message in box `m`. Management answers a request that it takes. -/
def takeBox (s : State) (reader m : Nat) : State :=
  if ¬ boxFull s m ∨ ¬ isReader m reader then s
  else if m < 8 then answer s m
  else
    let s := emptyBox s m oTaken
    s.when (decide (m < 16)) (pumpReplies · m)

end Sys2Proof.Machine
end

