-- ==== Sys2Proof/Machine/Sec.lean ====
section
/-! DEFINITION. Machine/Sec.lean: lifecycle (R438), SVN (R428), debug access (R439 to R441) and the JTAG instructions (R440,
R456). -/

namespace Sys2Proof.Machine

/-- The firmware logs a security matter (Table 18.2). -/
def logSecurity (s : State) : State := s.when (firmwareUp s) (logNote · 4 subjSecurity)

/-! ## Lifecycle and SVN -/

/-- A write of SEC_LIFE: the key and the next state program OTP, whose new state a cold reset brings into force. -/
def writeLife (s : State) (v : W32) : State :=
  let next := bits v.toNat 8 2
  if bits v.toNat 16 16 = 0x5EA1 ∧ next = s.mgmt.lifeNext.getD (s.fget SEC_LIFE_STATE) + 1 ∧ next ≤ 2 then
    logSecurity { s.fset SEC_LIFE_PEND 1 with
      mgmt := { s.mgmt with lifeNext := some next, deviceKey := s.mgmt.deviceKey && next != 2 } }
  else regAccess s 3 SEC_LIFE

/-- A write of the 16 bits of SEC_SVN.COMMIT. -/
def commitSvn (s : State) (v : BitVec 16) : State :=
  if v = 0x5EA1 then
    let n := max s.mgmt.otpSvn (s.fget SEC_SVN_FW_SVN)
    { s.fset SEC_SVN_OTP_SVN n with mgmt := { s.mgmt with otpSvn := n } }
  else regAccess s 3 SEC_SVN

/-! ## Debug requests -/

def nonceWords : Nat → State → State
  | 0, s => s
  | k + 1, s =>
    let (v, s) := (nonceWords k s).draw Config.nonce
    s.wr (SEC_CHAL k) v

/-- A fresh nonce, for one request. -/
def newchal (s : State) : State :=
  let s := nonceWords 8 s
  { s with mgmt := { s.mgmt with nonceUsed := false } }

def lastGranted : Nat := 1
def lastProof : Nat := 2
def lastMode : Nat := 3
def lastState : Nat := 4
def lastLocked : Nat := 5

/-- The proof in SEC_RESP fits the nonce and the level; no challenge-response does once the device key is zeroised. -/
def proofRight (s : State) (level : Nat) (token : Bool) : Bool :=
  !s.mgmt.nonceUsed && (token || s.mgmt.deviceKey) &&
    Config.proofOk token ((List.range 8).map fun (i : Nat) => s.rd (SEC_CHAL i)) level
      ((List.range (if token then 24 else 8)).map fun (i : Nat) => s.rd (SEC_RESP i))

/-- Challenge-response may grant the level in this lifecycle (Table 18.7). -/
def chalAllowed (s : State) (level : Nat) : Bool := match s.fget SEC_LIFE_STATE with
  | 0 => true
  | 1 => decide (level ≤ 2)
  | _ => false

def grant (s : State) (level : Nat) : State :=
  let s := (s.fset SEC_DBG_STATUS_LEVEL level).fset SEC_DBG_STATUS_FAILS 0
  logSecurity (s.fset SEC_DBG_STATUS_LAST lastGranted)

/-- A refused request; a wrong proof counts, and the eighth in a row locks requests out for 60 s. -/
def refuseDebug (s : State) (last : Nat) : State :=
  let s := s.fset SEC_DBG_STATUS_LAST last
  let s := s.when (last == lastProof) fun s =>
    (let s := s.count SEC_DBG_STATUS_FAILS 1
     s.when (decide (8 ≤ s.fget SEC_DBG_STATUS_FAILS)) fun s =>
      { s.fset SEC_DBG_STATUS_LOCKOUT 1 with mgmt := { s.mgmt with lockAt := s.tmb.c } })
  logSecurity (raise s (srcOf 60 2) 0)

/-- A request for a level. -/
def debugRequest (s : State) (level : Nat) (token : Bool) : State :=
  if s.on SEC_DBG_STATUS_LOCKOUT then refuseDebug s lastLocked
  else if level ≤ debugLevel s then grant s level
  else
    let t := { s with mgmt := { s.mgmt with nonceUsed := true } }
    if ¬ proofRight s level token then refuseDebug t lastProof
    else if ¬ token ∧ ¬ chalAllowed s level then refuseDebug t lastMode
    else if powerState s = 3 ∧ 2 ≤ level then refuseDebug t lastState
    else grant t level

/-- A write of SEC_DBG_REQ: a new nonce, or a request. -/
def writeDbgReq (s : State) (v : W32) : State :=
  if v.getLsbD 3 then newchal s else debugRequest s (bits v.toNat 0 2) (v.getLsbD 2)

/-- LOCKOUT_END: 60 s of a lockout have passed (R440). -/
def execLockoutEnd (s : State) : Host.Outcome State Fault Refusal :=
  done true (s.when (decide (s.mgmt.lockAt + 30000000000 ≤ s.tmb.c)) (·.fset SEC_DBG_STATUS_LOCKOUT 0))

/-! ## JTAG -/

def jtagSample : Nat := 0
def jtagIdcode : Nat := 1
def jtagBypass : Nat := 2
def jtagExtest : Nat := 3

def putJtag (s : State) (i : Nat) : State := { s with mgmt := { s.mgmt with jtag := i } }

def execSamplePreload (s : State) : Host.Outcome State Fault Refusal := done true (putJtag s jtagSample)
def execBypass (s : State) : Host.Outcome State Fault Refusal := done true (putJtag s jtagBypass)

/-- The IDCODE word (R456). -/
def idcodeWord (s : State) : W32 :=
  BitVec.ofNat 32 (s.fget GLB_ID_REV * 2 ^ 28 + 0x4096 * 2 ^ 12 + Config.makerCode.toNat * 2 + 1)

def execIdcode (s : State) : Host.Outcome State Fault Refusal :=
  done true { putJtag s jtagIdcode with readData := idcodeWord s }

/-- The scan row of Table 18.7. -/
def scanAllowed (s : State) : Bool :=
  let p := powerState s
  debugLevel s == 3 && (if p = 0 then !s.running else p != 3) &&
    (s.pair == pDetached || (s.lead && s.pair == pDown))

/-- EXTEST; scan mode ends only with a warm reset. -/
def extest (s : State) : State :=
  if scanAllowed s then { s with mgmt := { s.mgmt with jtag := jtagExtest, scan := true } } else raise s (srcOf 60 3) 0

def execExtest (s : State) : Host.Outcome State Fault Refusal := done true (extest s)

end Sys2Proof.Machine
end

