-- ==== Sys2Proof/Machine/ConvoyRing.lean ====
section
/-! DEFINITION. Machine/ConvoyRing.lean: the caravan of convoy mode (R258 to R261) and the take point of every receive
stream. -/

namespace Sys2Proof.Machine

/-! ## The ring's settings (Table 9.10) -/

def cvC (s : State) : Nat := s.fget NET_CV_SIZE_C
def cvRet (s : State) : Nat := s.fget NET_CV_CFG_RET_M1 + 1
def cvLat (s : State) : Nat := max 2 (s.fget NET_CV_CFG_LAT)
def cvPos (s : State) : Nat := s.fget NET_CV_CFG_POS
def cvMaster (s : State) : Bool := s.on NET_CV_CFG_MASTER

/-- The ring runs: enabled in a chip without a twin, the engine running, and C within R258. -/
def ringRuns (s : State) : Bool :=
  s.on NET_CV_CFG_EN && s.running && !s.on TWN_CFG_EN && decide (1 ≤ cvC s) && decide (cvC s ≤ 256) &&
  decide (4 * cvC s * s.tlen + 4 * ceilDiv (cvC s) 32 ≤ 9160) && (!cvMaster s || cvPos s == 0)

/-! ## Caravans -/

/-- Caravan slots: LIVE and T words each. -/
abbrev CvSlots := List (Bool × List W32)

/-- The running transmit streams of format CARAVAN. -/
def cvTx (s : State) : List Nat := (s.tx.filter fun e => e.2.state == 2).map (·.1) |>.filter fun i => (txDesc s i).fmt == 4

/-- The slots that this node's streams own take their words of tick `k`. -/
def overwrite (s : State) (k : Nat) (slots : CvSlots) : CvSlots :=
  (cvTx s).foldl (fun sl i =>
    let d := txDesc s i
    let x := s.txs i
    let safe := decide (1 ≤ s.fget FLT_STATUS_STATE)
    (List.range d.ch).foldl (fun sl c =>
      let ws := (List.range s.tlen).map fun (j : Nat) =>
        ((x.tx.find? fun e => e.1 == 256 * (k * s.tlen + j) + c).map (·.2)).getD ⟨false, 0, false⟩
      let out := ws.map fun w => if safe || !w.live then (0 : W32)
        else BitVec.ofNat 32 (sendWord 32 d.data w.word).1
      sl.set (d.sid + c) (!safe && ws.all (·.live), out)) sl) slots

/-- The payload after the EtherType (R261). -/
def cvPayload (s : State) (k hops : Nat) (slots : CvSlots) : List Byte :=
  [0x12, BitVec.ofNat 8 (s.fget NET_CV_CFG_RING_ID)] ++ beBytes 2 (cvC s) ++ beBytes 8 k ++
  [BitVec.ofNat 8 s.tlen, BitVec.ofNat 8 s.family, BitVec.ofNat 8 (cvRet s), BitVec.ofNat 8 hops] ++ leBytes 8 0 ++
  liveBitmap (slots.map (·.1)) ++ slots.flatMap fun e => e.2.flatMap fun w => beBytes 4 w.toNat

/-- The Ethernet header of this node's caravans: the template of its lowest caravan stream; without one, the broadcast
address and the port's own. -/
def cvHeader (s : State) : List Byte :=
  match cvTx s with
  | i :: _ => (txDesc s i).hdrA
  | [] => List.replicate 6 0xFF ++ beBytes 6 (portMac s 4) ++ beBytes 2 0x88B5

def noteRing (s : State) (k : Nat) (slots : CvSlots) : State :=
  { s with convoy := { s.convoy with ring := ((k, slots) :: s.convoy.ring).take 32 } }

def returned (s : State) (k : Nat) : Option CvSlots := (s.convoy.ring.find? fun e => e.1 == k).map (·.2)

/-- PHASE: a value not below T is taken as 0. -/
def cvPhase (s : State) : Nat :=
  let p := s.fget NET_CV_CFG_PHASE
  if p < s.tlen then p else 0

/-- CARAVAN_SEND: the master's caravan of tick k, once, at M index kT + PHASE (R259). -/
def caravanSend (s : State) : State :=
  if ¬ ringRuns s ∨ ¬ cvMaster s ∨ ¬ s.reached (4096 * (s.k * s.tlen + cvPhase s)) ∨ s.convoy.sentK = some s.k then s
  else
    let s := { s with convoy := { s.convoy with sentK := some s.k } }
    let back := if s.k < cvRet s then none else returned s (s.k - cvRet s)
    let s := s.when back.isNone fun s => s.count NET_CV_CNT_LOST 1
    let slots := back.getD (List.replicate (cvC s) (false, List.replicate s.tlen 0))
    sendFrame s 4 12 (cvHeader s ++ cvPayload s s.k 0 (overwrite s s.k slots))

def execCaravanSend (c : Nat) (s : State) : Host.Outcome State Fault Refusal :=
  done (decide (c < 2 ^ 64)) (caravanSend (advance s c))

/-- The slots of a caravan whose payload begins at `o`. -/
def cvSlots (bs : List Byte) (o c t : Nat) : CvSlots :=
  (List.range c).map fun (i : Nat) =>
    (bit (be bs (o + 24 + 4 * (i / 32)) 4) (31 - i % 32),
      (List.range t).map fun (j : Nat) => BitVec.ofNat 32 (be bs (o + 24 + 4 * ceilDiv c 32 + 4 * i * t + 4 * j) 4))

/-- A caravan that this ring could hold at this time: ring, C, T and family its own, and a tick that is out (R261). -/
def cvFits (s : State) (bs : List Byte) (o : Nat) : Bool :=
  let k := be bs (o + 4) 8
  be bs o 1 == 0x12 && be bs (o + 1) 1 == s.fget NET_CV_CFG_RING_ID && be bs (o + 2) 2 == cvC s &&
  be bs (o + 16) 8 == 0 && be bs (o + 12) 1 == s.tlen && be bs (o + 13) 1 == s.family && decide (k ≤ s.k) && decide (s.k < k + cvRet s)

/-- A reader of this node takes the words of caravan `k` from it, rather than from the one RET later (R260). -/
def takesNow (s : State) (owner : Nat) : Bool := decide (owner < cvPos s) || cvMaster s

/-- Caravan `k` comes after the take point of a tick that it supplies: that of tick k + LAT − 1 for a reader that takes its own
words from it, and RET ticks before for one that takes those of caravan k − RET. A node without a reader goes by the first
(DESIGN CHOICE, log entry 47). -/
def cvLate (s : State) (k : Nat) : Bool :=
  let past := fun (t : Nat) => decide (4096 * ((t + cvLat s) * s.tlen - 1) < fclkNow s)
  match (runningRx s).filter fun i => (rxDesc s i).fmt == 4 with
  | [] => past k
  | l => l.any fun i => if takesNow s (rxDesc s i).owner then past k else decide (cvRet s ≤ k) && past (k - cvRet s)

/-- CARAVAN_RECEIVED on N5 (R259 to R261). A late caravan has come back all the same, and ends the silence. -/
def caravanIn (s : State) (bs : List Byte) (fcsOk : Bool) : State :=
  if ¬ s.link 5 ∨ s.pwr.nets.contains 5 ∨ ¬ ringRuns s then s
  else
    let r := macChecks s 5 bs fcsOk
    if ¬ r.2 then r.1
    else
      let e := ethOf bs
      let s := addStat r.1 5 true 12 1
      if ¬ cvFits s bs e.pl then addStat s 5 true 33 1
      else
        let k := be bs (e.pl + 4) 8
        let hops := be bs (e.pl + 15) 1
        let slots := cvSlots bs e.pl (cvC s) s.tlen
        let late := cvLate s k
        let s := noteRing (s.fset NET_CV_STATUS_HOPS hops) k slots
        let s := { s with convoy := { s.convoy with silent := 0 } }
        let s := if late then s.count NET_CV_CNT_LATE 1 else s.fset NET_CV_STATUS_RING 1
        if cvMaster s then s
        else sendFrame s 4 12 (bs.take e.pl ++ cvPayload s k (hops + 1) (if late then slots else overwrite s k slots))

def execCaravanReceived (bytes : List Byte) (fcsOk : Bool) (c : Nat) (s : State) : Host.Outcome State Fault Refusal :=
  done (decide (c < 2 ^ 64)) (caravanIn (advance s c) bytes fcsOk)

/-- RING_DOWN: no caravan for 4 consecutive ticks (R261). -/
def execRingDown (s : State) : Host.Outcome State Fault Refusal :=
  done true (s.when (s.on NET_CV_STATUS_RING && decide (4 ≤ s.convoy.silent)) fun s =>
    raise (s.fset NET_CV_STATUS_RING 0) (srcOf 54 1) 0)

/-- The tick start's part: a tick more without a caravan. -/
def convoyTick (s : State) : State :=
  if ringRuns s then { s with convoy := { s.convoy with silent := s.convoy.silent + 1 } } else s.fset NET_CV_STATUS_RING 0

/-! ## Readers (R260) -/

/-- The take point of a CARAVAN stream: the words of tick k + 1 − LAT, from the caravan that carries them. -/
def caravanTake (s : State) (i : Nat) : State :=
  let d := { rxDesc s i with linkOfs := cvLat s * s.tlen }
  let kw := s.k + 1 - cvLat s
  let from' := if takesNow s d.owner then kw else kw + cvRet s
  let slots := if s.k + 1 < cvLat s then none else returned s from'
  let idx := presentedIn s d (s.k + 1)
  writeStream s i d idx fun n c => slots.bind fun sl => (sl[d.sid + c]?).bind fun e =>
    (e.2[n % s.tlen]?).map fun w => ⟨e.1, w, false⟩

/-- TAKE_POINT (R249). -/
def execTakePoint (stream : Nat) (s : State) : Host.Outcome State Fault Refusal :=
  done (decide (stream < 1024))
    (if (s.rxs stream).state ≠ 2 then s
     else if (rxDesc s stream).fmt = 4 then caravanTake s stream
     else takePoint s stream)

/-- ARRIVE: the peer's record of a stream's cut (R321). -/
def execArrive (stream : Nat) (peer : List Nat) (s : State) : Host.Outcome State Fault Refusal :=
  done (decide (stream < 1024))
    (s.when ((s.rxs stream).state == 2 && s.defers) fun s => s.setRxs stream { s.rxs stream with peer := some peer })

end Sys2Proof.Machine
end

