-- ==== Sys2Proof/Machine/Tick.lean ====
section
/-! DEFINITION. Machine/Tick.lean: the tick (R17, R25, R39, R102), N_VALID (R13, R14), intake from the command ring (R339 to R342,
R350), the 100 µs grid (R461) and the enable of the rings (R352). -/

namespace Sys2Proof.Machine

/-! ## Intake (R341) -/

/-- The commands of the ring up to index `upTo`, at most `fuel`, while nothing stops intake; `lead` is false in a SHADOW, which
reads no doorbell block and follows the LEAD's index. -/
def takeRing (upTo : W32) (lead : Bool) : Nat → State → State
  | 0, s => noteStall s 0
  | fuel + 1, s =>
    if waiting s upTo = 0 then
      noteStall s (if lead && !s.hif.tailOk then 4 else if waiting s s.hif.cmdTail = 0 then 0 else 6)
    else
      let why := if lead then intakeStop s none else if 4096 ≤ s.sch.held.length then 1 else 0
      if why ≠ 0 then noteStall s why
      else
        let i := s.hif.cmdHead
        let a := ringBase s rCmd + 64 * (i.toNat % max 1 (ringSize s rCmd))
        if s.hostBad a 64 then dmaFailed s
        else
          let bs := ringEntry s i
          let s := dmaOk s
          let s := takeIn s (entryHdr i bs) (entryOp bs)
          takeRing upTo lead fuel { s with hif := { s.hif with cmdHead := i + 1 } }

/-- A new LEAD drops the records that the heads it has fetched have passed (R351). -/
def catchUp (s : State) : State :=
  let r : TickRec := { k := 0, fromLead := true, sigs := [], evidence := 0, cplIdx := s.hif.cplHead, evtIdx := s.hif.evtHead }
  let past := fun (h t : W32) => decide (0 < (h - t).toNat) && decide ((h - t).toNat < 2 ^ 31)
  s.when (s.on TWN_CFG_EN) fun s => discardRecords s { r with
    cplIdx := if past s.hif.cplHead s.hif.cplTail then s.hif.cplHead else s.hif.cplTail
    evtIdx := if past s.hif.evtHead s.hif.evtTail then s.hif.evtHead else s.hif.evtTail }

/-- The doorbell block is fetched. A joined pair takes in no command at the fetch, and its SHADOW fetches nothing. -/
def fetchDoorbell (s : State) : State :=
  if ¬ hifRun s ∨ (s.defers ∧ ¬ s.lead) then s
  else
    let s := catchUp (readDoorbell s)
    if s.defers then s else takeRing s.hif.cmdTail true 1024 s

def execDoorbellFetch (s : State) : Host.Outcome State Fault Refusal := done true (fetchDoorbell s)

/-- NUDGE: a write to BAR2 (R334). -/
def execNudge (off : Nat) (_val : W32) (s : State) : Host.Outcome State Fault Refusal :=
  done (decide (off < 2 ^ 16)) (fetchDoorbell s)

/-- The fetch of every m-th tick start. -/
def fetchTick (s : State) : State :=
  let m := s.fget HIF_CTRL_FETCH_M1 + 1
  let due := s.hif.fetchArmed || decide (m ≤ s.hif.sinceFetch + 1)
  let s := { s with hif := { s.hif with fetchArmed := false, sinceFetch := if due then 0 else s.hif.sinceFetch + 1 } }
  s.when due fetchDoorbell

/-- Intake at a tick start; a joined pair takes in up to the LEAD's index (R350). -/
def intakeTick (s : State) (follow : Option TickRec) : State :=
  let s := fetchTick s
  match follow with
  | none => s
  | some r => if hifRun s then takeRing r.intake false 1024 s else s

/-! ## The end of a tick (R110, R305, R338) -/

/-- In a SHADOW the completions of the tick are kept in ring order until the LEAD's index passes them. -/
def keepRecords (s : State) : State :=
  if s.lead then s
  else
    let l := orderCpls s
    { s with hif := { s.hif with cpls := l, cplKept := l.length } }

/-- What the engine does up to the end of the tick. -/
def engineEnd (s : State) : State :=
  if powerState s = 1 then s
  else closeSlots (meterTick (twinTickEnd (classSigs (mixTick mixDue (outputPhase s)))))

def tickEnd (s : State) : State :=
  if ¬ s.running ∨ s.sch.ended then s
  else
    let s := engineEnd (endPlanned s (s.n + s.tlen - 1))
    let s := keepRecords (hifWrites s (s.n + s.tlen) (s.k + 1))
    { s with sch := { s.sch with ended := true } }

def execTickEnd (c : Nat) (s : State) : Host.Outcome State Fault Refusal := done (decide (c < 2 ^ 64)) (tickEnd (advance s c))

/-! ## The start of a tick -/

/-- CARRY swaps that are scheduled copy their regions on (R118). -/
def carrySwaps (s : State) : State :=
  s.each (s.sch.held.filter (·.sched)) fun s h => match h.op with
    | .swapProgram x mode => s.when (mode == 0) (stepCarry · x.toNat h.nx)
    | _ => s

/-- The work of a tick start in a running engine; the tick before began at sample `np` and had `tp` samples. -/
def engineTick (s : State) (np tp : Nat) : State :=
  let s := s.when (s.on MIX_STATUS_VALIDATING) finishValidation
  let s := prunePatches s
  let s := { s with sch := { s.sch with domNew := [], oldT := none } }
  let s := openSlots (dueEarly (schedule s))
  let s := takeRequest (fluesTick (portsTick s np tp) tp)
  if ¬ s.running ∨ powerState s = 1 then convoyTick (streamsTick s)
  else
    let s := convoyTick (streamsTick (carrySwaps (mixTickStart (dueTick s))))
    portsSend (inputPhases (s.each allClusters coresTickStart))

/-- What happens at every tick start of a running engine, in QUIET too. -/
def tickBody (s : State) (np tp : Nat) : State :=
  let s := collectorPoint s
  let follow := twinDecisions s
  let s := refTick (slewTick s (fsM s)) follow
  let s := match follow with
    | some r => applyDecisions s r
    | none => s
  let s := s.when (powerState s != 1) emberTick
  let s := intakeTick s follow
  let s := s.when (powerState s == 1) takeRequest
  if powerState s = 1 then streamsTick s else engineTick s np tp

/-- The first sample of the tick is `n`, `d` M edges after the last. -/
def enterTick (s : State) (n d : Nat) : State :=
  let s := (s.set64 SCH_N n).set64 SCH_K (n / s.tlen)
  mediaAdvance { s with sch := { s.sch with
    elapsed := s.sch.elapsed + 1, ck := s.tmb.c, outDone := false, ended := false, blank := false } } d

/-- M edges since the last one seen, to the nearest. -/
def edgesSince (s : State) : Nat :=
  let num : Int := ((s.tmb.c : Int) - s.ref.mediaC) * 2 ^ 17 * fsM s * (2 ^ 48 + s.refY)
  let den : Int := unitsPerSec * 2 ^ 48
  ((2 * num + den) / (2 * den)).toNat

/-- A tick boundary while no ticks are processed: n goes to the next multiple of T if it counts, and the timebase and the
reference loop take their step (R271, R290). -/
def idleTick (s : State) : State :=
  let n := s.tlen * (s.n / s.tlen + 1)
  let s := { s with sch := { s.sch with ck := s.tmb.c } }
  let s := if s.nValid then mediaAdvance ((s.set64 SCH_N n).set64 SCH_K (n / s.tlen)) (n - s.n)
    else mediaAdvance s (edgesSince s)
  refTick (slewTick s (fsM s)) none

def tickStart (s : State) (c : Nat) : State :=
  let s := advance (tickEnd s) c
  if ¬ s.running then idleTick s
  else
    let np := s.n
    let tp := s.tlen
    tickBody (enterTick s (np + tp) tp) np tp

def execTickStart (c : Nat) (s : State) : Host.Outcome State Fault Refusal := done (decide (c < 2 ^ 64)) (tickStart s c)

/-! ## Starting (R13, R14, R39) -/

/-- ENGINE_START: the first tick boundary after RUN, N_VALID and the release of the engine. A chip whose twin link is down
runs as LEAD (R316). -/
def engineStart (s : State) : State :=
  if ¬ s.on SCH_CTRL_RUN ∨ ¬ s.nValid ∨ s.pwr.engineRst ∨ s.running then s
  else
    let alone := s.on TWN_CFG_EN && s.fget TWN_STATUS_PAIR == 0 && s.fget TWN_STATUS_LANE_UP == 0
    let s := s.when alone (·.fset TWN_STATUS_ROLE 0)
    let t := s.tlen
    let n := t * (s.n / t + 1)
    let s := { s.fset SCH_STATUS_ENGINE_RUN 1 with hif := { s.hif with fetchArmed := true } }
    tickBody (mixBegin (enterTick s n (n - s.n))) (n - t) t

def execEngineStart (c : Nat) (s : State) : Host.Outcome State Fault Refusal :=
  done (decide (c < 2 ^ 64)) (engineStart (advance s c))

/-- FREE_START (Table 1.8). -/
def freeStart (s : State) : State :=
  if (s.loop = lFree ∨ s.loop = lAcq) ∧ ¬ s.nValid ∧ ¬ s.pwr.engineRst then { s with sch := { s.sch with freePend := true } }
  else if s.pwr.engineRst then s
  else regAccess s 3 SCH_CTRL

/-- A write of 1 to RUN (R38). -/
def writeRun (s : State) : State :=
  if s.pwr.engineRst then s else if s.running then regAccess s 3 SCH_CTRL else s.fset SCH_CTRL_RUN 1

def execFreeStart (s : State) : Host.Outcome State Fault Refusal := done true (freeStart s)
def execRun (s : State) : Host.Outcome State Fault Refusal := done true (writeRun s)

/-- N_VALID_RISE: the first M edge after an event of R14. -/
def nValidRise (s : State) : State :=
  if s.pwr.engineRst ∨ s.nValid ∨ ¬ (s.sch.freePend ∨ s.loop = lLocked ∨ s.loop = lHold) then s
  else
    let s := if s.sch.freePend then mediaSetNow { s with ref := { s.ref with anchor := 2 } } else mediaAdvance s (edgesSince s)
    let s := (s.fset SCH_STATUS_N_VALID 1).set64 SCH_N s.ref.mediaIndex
    showAnchor { s.set64 SCH_K (s.ref.mediaIndex / s.tlen) with sch := { s.sch with freePend := false, ck := s.tmb.c } }

def execNValidRise (c : Nat) (s : State) : Host.Outcome State Fault Refusal :=
  done (decide (c < 2 ^ 64)) (nValidRise (advance s c))

/-! ## The grid (R461) -/

/-- What N of the status block holds while no ticks are processed (R338): the smallest multiple of T above n, or 0. -/
def gridN (s : State) : Nat :=
  let t := 4 * 2 ^ s.fget SCH_TICK_CFG_TICK_LEN
  if s.nValid then t * (s.nNow / t + 1) else 0

/-- GRID_INSTANT: C reaches the next multiple of 50,000, or stands at one whose work has not run. What the grid carries runs while ENGINE_RUN is clear. -/
def gridInstant (s : State) : State :=
  if ¬ good s 5 then s
  else
    let s := advance s (nextInstant s.tmb.c s.tmb.lastGrid 50000)
    let s := { s with tmb := { s.tmb with lastGrid := s.tmb.c } }
    if s.running then s
    else
      let s := fetchDoorbell (collectorPoint s)
      hifWrites s (gridN s) (gridN s / (4 * 2 ^ s.fget SCH_TICK_CFG_TICK_LEN))

def execGridInstant (s : State) : Host.Outcome State Fault Refusal := done true (gridInstant s)

/-! ## HIF_CTRL (R352) -/

def sizeOk (n : Nat) : Bool := decide (16 ≤ n) && decide (n ≤ 65536) && 2 ^ Nat.log2 n == n

/-- The set-up that EN needs. -/
def setupOk (s : State) : Bool :=
  ((List.range 5).all fun r => ringBase s r % 4096 == 0 && sizeOk (ringSize s r)) && s.get64 HIF_DB_ADDR % 64 == 0 &&
    s.get64 HIF_SB_ADDR % 64 == 0

/-- EN is set: with a valid set-up every index is 0 and the rings run. -/
def hifOn (s : State) : State :=
  if ¬ setupOk s then sendCause (s.fset HIF_STATUS_CFG_ERR 1) cErr
  else
    let s := (s.fset HIF_STATUS_RUN 1).fset HIF_STATUS_CFG_ERR 0
    meterOpen { s with hif := { bad := s.hif.bad, msix := s.hif.msix, events := s.hif.events } }

/-- EN is cleared: completions that wait are discarded. -/
def hifOff (s : State) : State :=
  let s := ((s.fset HIF_STATUS_RUN 0).fset HIF_STATUS_STALL 0).fset HIF_STATUS_STALL_WHY 0
  { s with hif := { s.hif with cpls := [], cplKept := 0, causes := s.hif.causes &&& (1#8 <<< cMbx) } }

/-- A write of HIF_CTRL. -/
def writeHifCtrl (s : State) (v : W32) : State :=
  if s.pwr.hifRst then s
  else
    let was := s.on HIF_CTRL_EN
    let s := s.wr HIF_CTRL (maskedWord (s.rd HIF_CTRL) v (rwMask HIF_CTRL))
    let now := s.on HIF_CTRL_EN
    if now ∧ ¬ was then hifOn s else if was ∧ ¬ now then hifOff s else s

def execHifEnable (val : W32) (s : State) : Host.Outcome State Fault Refusal := done true (writeHifCtrl s (val ||| 1))
def execHifDisable (val : W32) (s : State) : Host.Outcome State Fault Refusal := done true (writeHifCtrl s (val &&& ~~~1))

end Sys2Proof.Machine
end

