-- ==== Sys2Proof/Machine/Bar0.lean ====
section
/-! DEFINITION. Machine/Bar0.lean: accesses of BAR0 (R1 to R5, R367, R375, R408): what each register does with a write, and
what a read returns and clears. -/

namespace Sys2Proof.Machine

/-! ## Blocks (Table 15.4, R408) -/

def clusterAt (off : Nat) : Nat := (off - 0x200000) / 0x10000
def portAt (off : Nat) : Nat := (off - 0x100000) / 0x1000
def netAt (off : Nat) : Nat := (off - 0x80000) / 0x10000

/-- The block of an offset is in reset or powered off. -/
def blockDown (s : State) (off : Nat) : Bool :=
  let matrix := reached s [.w]
  if isAsserted s .c then true
  else if off < 0x10000 then false
  else if off < 0x20000 then s.pwr.hifRst
  else if off < 0x80000 then false
  else if off < 0xE0000 then
    (if inSpan off 0x88000 0x8000 then s.pwr.nets.length == 6 else s.pwr.nets.contains (netAt off))
  else if off < 0x100000 then s.pwr.twinRst
  else if off < 0x130000 then s.pwr.ports.contains (portAt off)
  else if off < 0x140000 then s.pwr.engineRst || !s.pdOn pdPorts
  else if off < 0x160000 then s.pwr.engineRst || !s.pdOn pdCnv
  else if off < 0x180000 then s.pwr.engineRst
  else if off < 0x200000 then matrix
  else if off < 0x3A0000 then s.pwr.clusters.contains (clusterAt off)
  else if off < 0x3E0000 then matrix
  else false

/-- What a write of a block's register does while the block is up. -/
def atBlock (s : State) (off : Nat) (f : State → State) : State := if blockDown s off then s else f s

/-! ## Locks: writes that a rule ignores with an event -/

def flueRests (s : State) (p : Nat) : Bool := s.fst p == fOff || s.fst p == fLatched

/-- An entry of a port that is not OFF and not `but`, by its path and channel (R175, R186). -/
def entryLive (s : State) (but : Option Nat) (path idx : Nat) : Bool :=
  (List.range 48).any fun p => s.pst p != stOff && some p != but && (chans s p).any fun e => e.path == path && e.idx == idx

/-- The register does not accept writes now (R38, R155, R175, R186, R197, R217, R262, R352). -/
def locked (s : State) (off : Nat) : Bool :=
  if off = SCH_TICK_CFG ∨ inSpan off (SCH_SLOT_CFG 0) 0x8000 ∨ off = MIX_PATCH_CFG ∨ off = NET_CV_CFG ∨ off = NET_CV_SIZE then s.running
  else if inSpan off 0x100000 0x30000 then
    (let p := portAt off
     if off % 0x1000 / 0x100 = 8 then !flueRests s p
     else s.pst p != stOff || (off == PRT_MODE p && !flueRests s p))
  else if inSpan off (FLU_GRP_CFG 0) 0x60 then
    (List.range 8).any fun i => !flueRests s (8 * ((off - FLU_GRP_CFG 0) / 0x10) + i)
  else if inSpan off (ASR_CH_CFG 0) 0x800 then entryLive s none 1 ((off - ASR_CH_CFG 0) / 4)
  else if inSpan off (DEC_CH_CFG 0) 0x300 then
    (let c := (off - DEC_CH_CFG 0) / 4
     reservedChain s c || entryLive s none 2 c)
  else if inSpan off HIF_DB_ADDR 0x10 ∨ inSpan off (HIF_RING_BASE 0) 0x50 then s.on HIF_CTRL_EN
  else false

/-! ## Registers without behaviour of their own (R5) -/

def accMask (off : Nat) (a : Acc) : W32 :=
  BitVec.ofNat 32 (((fieldsAt off).filter fun f => f.acc == a).foldl (fun m f => putBits m f.lo f.w (2 ^ f.w - 1)) 0)

/-- RW fields store, W1C bits clear, W1S bits set, the others stay. -/
def plainWord (s : State) (off : Nat) (v : W32) : W32 :=
  let old := s.rd off
  let rw := accMask off .rw
  ((old &&& ~~~rw) ||| (v &&& rw)) &&& ~~~(v &&& accMask off .w1c) ||| (v &&& accMask off .w1s)

def plainWrite (s : State) (off : Nat) (v : W32) : State := s.wr off (plainWord s off v)

/-! ## Registers with behaviour of their own -/

/-- HRT_CORE_CTRL (Table 2.14). -/
def writeCoreCtrl (s : State) (off : Nat) (v : W32) : State :=
  let c := clusterAt off
  let j := off % 0x1000 / 0x100
  let s := plainWrite s off v
  if v.getLsbD 0 then haltRequest s c j
  else (s.when (v.getLsbD 1) (resume · c j)).when (v.getLsbD 2) (stepCore · c j)

/-- PRT_MODE (R186, R202). -/
def writePortMode (s : State) (p : Nat) (v : W32) : State :=
  let flue := bits v.toNat 0 3 == 4
  if flue ∧ (entryLive s (some p) 2 (2 * p) ∨ entryLive s (some p) 2 (2 * p + 1)) then regAccess s 3 (PRT_MODE p)
  else
    let was := s.mode p == mFlue
    modeChanged (plainWrite s (PRT_MODE p) v) p was

/-- A running stream names the port. -/
def portBusy (s : State) (p : Nat) : Bool :=
  ((runningRx s).any fun i => (pathPorts (rxDesc s i) false).any fun e => e.1 == p) ||
    (runningTx s).any fun i => (pathPorts (txDesc s i) true).any fun e => e.1 == p

/-- NET_EEE (R238); TW_SYS is management's to write. -/
def writeEee (s : State) (ag : Agent) (p : Nat) (v : W32) : State :=
  if v.getLsbD 0 ∧ (portBusy s p ∨ s.convoyPort p) then regAccess s 3 (NET_EEE p)
  else
    let s := plainWrite s (NET_EEE p) v
    s.when (ag == .mgmt) (·.fset (NET_EEE_TW_SYS p) (bits v.toNat 16 16))

/-- NET_CV_CFG: no ring in a twin pair (R316). -/
def writeConvoy (s : State) (v : W32) : State :=
  let s := plainWrite s NET_CV_CFG v
  s.when (s.on NET_CV_CFG_EN && s.on TWN_CFG_EN) (regAccess · 3 NET_CV_CFG)

/-- TMB_PPS_OUT_CFG and TMB_PPS_OUT_OFS: a change of the source time begins no pulse. -/
def writePps (s : State) (off : Nat) (v : W32) : State :=
  let s := plainWrite (ppsLook s) off v
  { s with tmb := { s.tmb with ppsSec := (ppsSecond s).getD s.tmb.ppsSec } }

/-- REF_CTRL (Table 11.9). -/
def writeRefCtrl (s : State) (v : W32) : State :=
  ((plainWrite s REF_CTRL v).when (v.getLsbD 1) histClr).when (v.getLsbD 2) suspClr

def writeCandCfg (s : State) (i : Nat) (v : W32) : State :=
  let was := s.on (REF_CAND_CFG_EN i)
  candEnable (plainWrite s (REF_CAND_CFG i) v) i was

/-- REF_CAND_QIN: of a PTP candidate by the domain's owner or the host. -/
def writeQin (s : State) (ag : Agent) (i : Nat) (v : W32) : State :=
  if i < 2 ∧ ag = .mgmt ∧ domOwner s i = .host then s else plainWrite s (REF_CAND_QIN i) v

/-- TWN_CFG: EN changes while the pair is DOWN or DETACHED, and gives the role (R317). -/
def writeTwnCfg (s : State) (v : W32) : State :=
  if s.pair = pDown ∨ s.pair = pDetached then
    let was := s.on TWN_CFG_EN
    let s := plainWrite s TWN_CFG v
    let now := s.on TWN_CFG_EN
    let s := s.when (now && !was) (·.fset TWN_STATUS_ROLE (if s.running then 0 else s.fget TWN_STATUS_STRAP))
    s.when (!now) fun s => setPair (s.fset TWN_STATUS_ROLE 0) pDown
  else regAccess (plainWrite s TWN_CFG ((v &&& ~~~1) ||| (s.rd TWN_CFG &&& 1))) 3 TWN_CFG

/-- TWN_CTRL. -/
def writeTwnCtrl (s : State) (v : W32) : State :=
  ((s.when (v.getLsbD 0) twinDetach).when (v.getLsbD 1) twinRejoin).when (v.getLsbD 2) twinClear

/-- HIF_MTR_CFG: POINTS only while EN = 0; a new interval begins (R347, R352). -/
def writeMtrCfg (s : State) (v : W32) : State :=
  if s.on HIF_CTRL_EN then
    let other := bits v.toNat 16 13 != mtrPoints s
    (meterOpen (s.fset HIF_MTR_CFG_EVERY (bits v.toNat 0 16))).when other (regAccess · 3 HIF_MTR_CFG)
  else meterOpen (plainWrite s HIF_MTR_CFG v)

def sidOf : Agent → Nat
  | .host => sidHost
  | .mgmt => sidMgmt

/-- A message word, while the box is not FULL. -/
def writeMsg (s : State) (ag : Agent) (m off : Nat) (v : W32) : State :=
  s.when (!boxFull s m && mayMail m (sidOf ag)) (plainWrite · off v)

/-- MBX_CTRL (R358). -/
def writeBoxCtrl (s : State) (ag : Agent) (m : Nat) (v : W32) : State :=
  let len := bits v.toNat 1 5
  s.when (v.getLsbD 0) fun s => (mboxSend s (sidOf ag) m ((boxWords s m).take len) len (bits v.toNat 8 8)).1

/-- A word with a parity bit (R397); RUNG of a load group is not written (R225). -/
def writeFlt (s : State) (off : Nat) (v : W32) : State :=
  let load := inSpan off (FLT_SRC_CFG 0) 0x1000 && isLoadGroup ((off - FLT_SRC_CFG 0) / 64)
  let old := s.rd off
  parityWritten (plainWrite s off (if load then (v &&& ~~~0x38) ||| (old &&& 0x38) else v)) off

/-- MGT_BOOT_CTRL. -/
def writeBootCtrl (s : State) (v : W32) : State := (s.when (v.getLsbD 0) bootGo).when (v.getLsbD 1) clrFail

/-- SCH_CTRL: a written 0 has no effect. -/
def writeSchCtrl (s : State) (v : W32) : State := (s.when (v.getLsbD 0) writeRun).when (v.getLsbD 1) freeStart

def writeFltCtrl (s : State) (v : W32) : State := (s.when (v.getLsbD 0) forceSafe).when (v.getLsbD 1) unlatch

/-- SCH_TICK_CFG while no ticks run: the length in force follows. -/
def writeTickCfg (s : State) (v : W32) : State :=
  let s := plainWrite s SCH_TICK_CFG v
  s.fset SCH_STATUS_TICK_ACT (s.fget SCH_TICK_CFG_TICK_LEN)

/-- The domain of a TMB_DOM page. -/
def domAt (off : Nat) : Nat := (off - TMB_DOM_CTRL 0) / 0x40

/-- A staging register of a domain (R268): its owner's to write. -/
def stagingWord (off : Nat) : Bool := inSpan off (TMB_DOM_CTRL 0) 0xC0 &&
  (let o := off % 0x40
   o == 0x8 || o == 0xC || (decide (0x10 ≤ o) && decide (o < 0x30)))

/-- A write of one word of a register that is no pair, or one of a pair's halves as it takes effect. -/
def writeWord (s : State) (ag : Agent) (off : Nat) (v : W32) : State :=
  if accMask off .rw ≠ 0 ∧ locked s off then regAccess s 3 off
  else if off < 0x10000 then plainWrite s off v
  else if off < 0x20000 then
    (if off = HIF_CTRL then writeHifCtrl s v
     else if off = HIF_MTR_CFG then writeMtrCfg s v
     else if inSpan off 0x18000 0x400 ∧ off % 16 = 0xC then unmask (plainWrite s off v) ((off - 0x18000) / 16)
     else plainWrite s off v)
  else if off = RST_CMD then writeRstCmd s ag v.toNat
  else if off = CLK_PWR_CTRL then putReq s (bits v.toNat 0 2)
  else if off = CLK_PD_EN0 then writePdEn s 0 v
  else if off = CLK_PD_EN1 then writePdEn s 1 v
  else if off = FLT_CTRL then writeFltCtrl s v
  else if off = FLT_ACK then ackSource s (bits v.toNat 0 10)
  else if parityWord off then writeFlt s off v
  else if off = REF_CTRL then writeRefCtrl s v
  else if off = REF_HOLD_CFG then showHist (plainWrite s off v)
  else if inSpan off (REF_CAND_CFG 0) 0x200 then
    (let i := (off - REF_CAND_CFG 0) / 0x20
     if off = REF_CAND_CFG i then writeCandCfg s i v else if off = REF_CAND_QIN i then writeQin s ag i v else plainWrite s off v)
  else if off = TMB_SNAP then s.when (v.getLsbD 0) goSnap
  else if inSpan off (TMB_DOM_CTRL 0) 0xC0 then
    (let x := domAt off
     if off = TMB_DOM_CTRL x then writeDomCtrl s ag x v.toNat
     else if stagingWord off ∧ domOwner s x ≠ ag then refuseDom s x off
     else plainWrite s off v)
  else if off = TMB_PPS_OUT_CFG ∨ off = TMB_PPS_OUT_OFS then writePps s off v
  else if inSpan off 0x80000 0x60000 then
    (if off = NET_CFG (netAt off) then writeNetCfg s (netAt off) v
     else if off = NET_EEE (netAt off) then writeEee s ag (netAt off) v
     else if off = NET_CV_CFG then writeConvoy s v
     else plainWrite s off v)
  else if off = TWN_CFG then writeTwnCfg s v
  else if off = TWN_CTRL then writeTwnCtrl s v
  else if inSpan off 0x100000 0x30000 then
    (if off = PRT_MODE (portAt off) then writePortMode s (portAt off) v else plainWrite s off v)
  else if off = MIX_RAMP_USE then s.when (v.getLsbD 31) peakClr
  else if off = SCH_CTRL then writeSchCtrl s v
  else if off = SCH_TICK_CFG then writeTickCfg s v
  else if inSpan off 0x180000 0x10000 then
    (let m := (off - 0x180000) / 0x100
     if off % 0x100 < 0x40 then writeMsg s ag m off v
     else if off = MBX_CTRL m then writeBoxCtrl s ag m v
     else plainWrite s off v)
  else if inSpan off 0x200000 0x1A0000 then
    (if off % 0x10000 / 0x1000 = 1 ∧ off % 0x100 = 0 then writeCoreCtrl s off v else plainWrite s off v)
  else if off = EMB_CFG then
    (let was := s.on EMB_CFG_ROT_EN
     rotWritten (plainWrite s off v) was)
  else if off = MTX_REMAP then writeRemap s ag v
  else if off = MTX_ECC_INJ then writeEccInj s v
  else if off = MGT_BOOT_CTRL then writeBootCtrl s v
  else if off = SEC_LIFE then writeLife s v
  else if off = SEC_DBG_REQ then writeDbgReq s v
  else if off = SEC_SVN then commitSvn s (v.extractLsb' 16 16)
  else if inSpan off (SEC_RESP 0) 0x60 then s.wr off v
  else plainWrite s off v

/-- Both halves of a pair take effect together (R4). -/
def writePair (s : State) (ag : Agent) (lo : Nat) (v : W64) : State :=
  let x := domAt lo
  if lo = REF_DCO_FFO then writeFfo s v
  else if inSpan lo (TMB_DOM_CTRL 0) 0xC0 ∧ lo = TMB_DOM_RATE x then
    (if domOwner s x ≠ ag then refuseDom s x lo else s.setDom x { s.dom x with stRate := v })
  else if stagingWord lo ∧ domOwner s x ≠ ag then refuseDom s x lo
  else if accMask lo .rw ≠ 0 ∧ locked s lo then regAccess s 3 lo
  else plainWrite (plainWrite s lo (v.setWidth 32)) (lo + 4) (v.extractLsb' 32 32)

/-! ## Accesses -/

def halfAt (off : Nat) : Half := match regAt off with
  | some r => r.half
  | none => .no

def agentKey (off : Nat) (ag : Agent) : Nat := 2 * off + (if ag = .mgmt then 1 else 0)

/-- The host reaches MB000 to MB223 only (R356). -/
def outOfReach (ag : Agent) (off : Nat) : Bool := ag == .host && inSpan off (MBX_MSG 224 0) 0x2000

/-- A write of an aligned word. -/
def busWrite (s : State) (ag : Agent) (off : Nat) (v : W32) : State :=
  if blockDown s off then s
  else if (regAt off).isNone then regAccess s 1 off
  else if outOfReach ag off then regAccess s 3 off
  else match halfAt off with
    | .lo => { s with hold := Tbl.put none s.hold (agentKey off ag) (some v) }
    | .hi =>
      let lo := off - 4
      let low := (Tbl.get none s.hold (agentKey lo ag)).getD (if lo = TMB_CNT then 0 else s.rd lo)
      writePair { s with hold := Tbl.put none s.hold (agentKey lo ag) none } ag lo (v ++ low)
    | .no => writeWord s ag off v

/-- REF_CAND_STATUS reports the rank that the fields in force give, and the state that candidate 15 has, at all times (R287, R289). -/
def candShown (s : State) (i : Nat) (v : W32) : W32 :=
  BitVec.ofNat 32 (putBits (putBits v.toNat 7 3 (candRank s i)) 0 3 (s.cst i))

/-- The value that a word reads: reserved and WO bits read zero. -/
def readValue (s : State) (off : Nat) : W32 :=
  let shown := accMask off .rw ||| accMask off .ro ||| accMask off .w1c ||| accMask off .w1s ||| accMask off .rc
  let v := if off = TMB_CNT then BitVec.ofNat 32 s.tmb.c else if off = TMB_CNT + 4 then BitVec.ofNat 32 (s.tmb.c / 2 ^ 32)
    else if off = SCH_N then BitVec.ofNat 32 s.nNow else if off = SCH_N + 4 then BitVec.ofNat 32 (s.nNow / 2 ^ 32)
    else if inSpan off SCH_K 8 ∧ ¬ s.running then 0
    else s.rd off
  let v := if off = TMB_DOM_CTRL 2 then v ||| 1
    else if inSpan off (FLT_SRC_CFG 0) 0x1000 ∧ isLoadGroup ((off - FLT_SRC_CFG 0) / 64) then v &&& ~~~0x38
    else if inSpan off 0x100000 0x30000 ∧ off % 0x1000 / 0x40 = 5 ∧ off % 0x20 = 0x14 then v &&& 0x00FFFFFF
    else if inSpan off 0x50100 0x200 ∧ off % 0x20 = 0x0C then candShown s ((off - 0x5010C) / 0x20) v
    else v
  v &&& shown

/-- What a read clears (R5), and what it arms again (R126, R158). -/
def readClears (s : State) (off : Nat) : State :=
  let rc := accMask off .rc
  let s := if rc = 0 then s else s.wr off (s.rd off &&& ~~~rc)
  if off = MIX_SKIP_CNT then { s with mix := { s.mix with skipRead := true } }
  else if inSpan off 0x100000 0x30000 ∧ off = PRT_CNT2 (portAt off) then
    (let p := portAt off
     s.setPort p { s.port p with skipRead := true })
  else s

/-- A message word: the receiver's reading of the last one takes the message (R356, R359). -/
def readMsg (s : State) (ag : Agent) (m w : Nat) : State × W32 :=
  if ¬ isReader m (sidOf ag) then (s, 0)
  else
    let v := s.rd (MBX_MSG m w)
    (s.when (boxFull s m && w + 1 == s.fget (MBX_HDR1_LEN m)) (takeBox · (sidOf ag) m), v)

/-- A read of an aligned word: the state after it and the value. -/
def readWord (s : State) (ag : Agent) (off : Nat) : State × W32 :=
  if blockDown s off then (s, 0)
  else if (regAt off).isNone then (regAccess s 1 off, 0)
  else if outOfReach ag off then (regAccess s 1 off, 0)
  else match halfAt off with
    | .lo =>
      let v := readValue s off
      let high := readValue s (off + 4)
      let s := { s with latch := Tbl.put (resetWord (off + 4)) s.latch (agentKey off ag) high }
      (readClears (readClears s off) (off + 4), v)
    | .hi => (s, Tbl.get (resetWord off) s.latch (agentKey (off - 4) ag))
    | .no =>
      if inSpan off 0x180000 0x10000 ∧ off % 0x100 < 0x40 then readMsg s ag ((off - 0x180000) / 0x100) (off % 0x100 / 4)
      else (readClears s off, readValue s off)

def regRead (s : State) (ag : Agent) (off : Nat) : State :=
  let r := readWord s ag off
  { r.1 with readData := r.2 }

/-! ## Commands -/

def execRegisterWrite (ag : Agent) (off : Nat) (val : W32) (s : State) : Host.Outcome State Fault Refusal :=
  done (wordOk off) (busWrite s ag off val)

/-- LO_READ: a read, of a pair's low word in particular. -/
def execLoRead (ag : Agent) (off : Nat) (s : State) : Host.Outcome State Fault Refusal := done (wordOk off) (regRead s ag off)

/-- RC_READ: a read, of a register with RC fields in particular. -/
def execRcRead (ag : Agent) (off : Nat) (s : State) : Host.Outcome State Fault Refusal := done (wordOk off) (regRead s ag off)

/-- BAD_ACCESS: an access that is no aligned word (R3). -/
def badAccess (s : State) (off : Nat) (write : Bool) : State :=
  let s := regAccess s 2 off
  if write then s else { s with readData := 0 }

def execBadAccess (_ag : Agent) (off size : Nat) (write : Bool) (s : State) : Host.Outcome State Fault Refusal :=
  done (decide (off < 2 ^ 24) && !(size == 4 && off % 4 == 0)) (badAccess s off write)

def execPeakClr (s : State) : Host.Outcome State Fault Refusal := done true (atBlock s MIX_RAMP_USE peakClr)
def execNetCfgWrite (_ag : Agent) (port : Nat) (val : W32) (s : State) : Host.Outcome State Fault Refusal :=
  done (decide (port < 6)) (atBlock s (NET_CFG port) (writeNetCfg · port val))
def execRemap (ag : Agent) (val : W32) (s : State) : Host.Outcome State Fault Refusal :=
  done true (atBlock s MTX_REMAP (writeRemap · ag val))
def execEccInjArm (val : W32) (s : State) : Host.Outcome State Fault Refusal := done true (atBlock s MTX_ECC_INJ (writeEccInj · val))
def execDetach (s : State) : Host.Outcome State Fault Refusal := done true (atBlock s TWN_CTRL twinDetach)
def execRejoin (s : State) : Host.Outcome State Fault Refusal := done true (atBlock s TWN_CTRL twinRejoin)
def execClrDispute (s : State) : Host.Outcome State Fault Refusal := done true (atBlock s TWN_CTRL twinClear)
def execHistClr (s : State) : Host.Outcome State Fault Refusal := done true (atBlock s REF_CTRL histClr)
def execSuspClr (s : State) : Host.Outcome State Fault Refusal := done true (atBlock s REF_CTRL suspClr)
def execDcoFfoWrite (val : W64) (s : State) : Host.Outcome State Fault Refusal := done true (atBlock s REF_DCO_FFO (writeFfo · val))
def execGo (s : State) : Host.Outcome State Fault Refusal := done true (atBlock s TMB_SNAP goSnap)

/-! Rows that are writes of one register; a block that is down ignores them (R408). -/

def execApply (ag : Agent) (dom : Nat) (val : W32) (s : State) : Host.Outcome State Fault Refusal :=
  done (decide (dom < 3)) (atBlock s (TMB_DOM_CTRL dom) (writeDomCtrl · ag dom (val ||| 2).toNat))
def execCancel (ag : Agent) (dom : Nat) (val : W32) (s : State) : Host.Outcome State Fault Refusal :=
  done (decide (dom < 3)) (atBlock s (TMB_DOM_CTRL dom) (writeDomCtrl · ag dom (val ||| 32).toNat))
def execOwner (ag : Agent) (dom : Nat) (val : W32) (s : State) : Host.Outcome State Fault Refusal :=
  done (decide (dom < 3)) (atBlock s (TMB_DOM_CTRL dom) (writeDomCtrl · ag dom val.toNat))

def execResetW (_ag : Agent) (key : BitVec 16) (s : State) : Host.Outcome State Fault Refusal :=
  done true (atBlock s RST_CMD (keyed · key.toNat resetW))
def execResetE (ag : Agent) (key : BitVec 16) (s : State) : Host.Outcome State Fault Refusal :=
  done true (atBlock s RST_CMD (keyed · key.toNat fun s => resetE s ag))
def execResetU (ag : Agent) (key : BitVec 16) (uclass unit : Nat) (s : State) : Host.Outcome State Fault Refusal :=
  done (decide (uclass < 4) && decide (unit < 64)) (atBlock s RST_CMD (keyed · key.toNat fun s => resetU s ag uclass unit))
def execResetM (_ag : Agent) (key : BitVec 16) (s : State) : Host.Outcome State Fault Refusal :=
  done true (atBlock s RST_CMD (keyed · key.toNat resetM))

def execAckSource (src : Nat) (s : State) : Host.Outcome State Fault Refusal :=
  done (decide (src < 1024)) (atBlock s FLT_ACK (ackSource · src))
def execForceSafe (s : State) : Host.Outcome State Fault Refusal := done true (atBlock s FLT_CTRL forceSafe)
def execUnlatch (s : State) : Host.Outcome State Fault Refusal := done true (atBlock s FLT_CTRL unlatch)

def execReqRun (s : State) : Host.Outcome State Fault Refusal := done true (atBlock s CLK_PWR_CTRL (putReq · 0))
def execReqQuiet (s : State) : Host.Outcome State Fault Refusal := done true (atBlock s CLK_PWR_CTRL (putReq · 1))
def execReqKeep (s : State) : Host.Outcome State Fault Refusal := done true (atBlock s CLK_PWR_CTRL (putReq · 2))
def execPdEnWrite (word : Nat) (val : W32) (s : State) : Host.Outcome State Fault Refusal :=
  done (decide (word < 2)) (atBlock s CLK_PD_EN0 (writePdEn · word val))

def execBootGo (s : State) : Host.Outcome State Fault Refusal := done true (atBlock s MGT_BOOT_CTRL bootGo)
def execClrFail (s : State) : Host.Outcome State Fault Refusal := done true (atBlock s MGT_BOOT_CTRL clrFail)
def execLifecycleAdvance (val : W32) (s : State) : Host.Outcome State Fault Refusal := done true (atBlock s SEC_LIFE (writeLife · val))
def execCommit (val : BitVec 16) (s : State) : Host.Outcome State Fault Refusal := done true (atBlock s SEC_SVN (commitSvn · val))
def execNewchal (s : State) : Host.Outcome State Fault Refusal := done true (atBlock s SEC_DBG_REQ newchal)
def execDebugRequest (val : W32) (s : State) : Host.Outcome State Fault Refusal :=
  done true (atBlock s SEC_DBG_REQ (writeDbgReq · val))

/-- SEND: `words` is what the sender has written for the message. -/
def execSend (sender mbox : Nat) (words : List W32) (len : Nat) (code : Byte) (s : State) :
    Host.Outcome State Fault Refusal :=
  done (decide (sender < 1024) && mboxOk mbox && decide (words.length ≤ 16))
    (atBlock s (MBX_CTRL mbox) fun s => (mboxSend s sender mbox words len code.toNat).1)

/-- TAKEN: the receiver of a message has read its last word. -/
def execTaken (reader mbox : Nat) (s : State) : Host.Outcome State Fault Refusal :=
  done (decide (reader < 1024) && mboxOk mbox) (atBlock s (MBX_MSG mbox 0) (takeBox · reader mbox))

end Sys2Proof.Machine
end

