-- ==== Sys2Proof/Machine/Cslot.lean ====
section
/-! DEFINITION. Machine/Cslot.lean: the operations of the C slot (Table 3.7). Each command issues its operation, with the words that the
command names for the other slots, on a core in RUN; on any other core no bundle issues (R70). -/

namespace Sys2Proof.Machine

/-- A slot with no operation (Tables 3.7 to 3.9). -/
def execSlotNop (a : At) (s : State) : Host.Outcome State Fault Refusal :=
  done (atOk a) (issue s a (withC a {} .nop))

/-- ADD (Table 3.7). -/
def execAdd (a : At) (p : Pred) (sd sa sb : BitVec 4) (s : State) : Host.Outcome State Fault Refusal :=
  done (atOk a) (issue s a (withC a p (.add sd sa sb)))

/-- SUB (Table 3.7). -/
def execSub (a : At) (p : Pred) (sd sa sb : BitVec 4) (s : State) : Host.Outcome State Fault Refusal :=
  done (atOk a) (issue s a (withC a p (.sub sd sa sb)))

/-- ADDS (Table 3.7). -/
def execAdds (a : At) (p : Pred) (sd sa sb : BitVec 4) (s : State) : Host.Outcome State Fault Refusal :=
  done (atOk a) (issue s a (withC a p (.adds sd sa sb)))

/-- SUBS (Table 3.7). -/
def execSubs (a : At) (p : Pred) (sd sa sb : BitVec 4) (s : State) : Host.Outcome State Fault Refusal :=
  done (atOk a) (issue s a (withC a p (.subs sd sa sb)))

/-- AND (Table 3.7). -/
def execAndS (a : At) (p : Pred) (sd sa sb : BitVec 4) (s : State) : Host.Outcome State Fault Refusal :=
  done (atOk a) (issue s a (withC a p (.and sd sa sb)))

/-- OR (Table 3.7). -/
def execOrS (a : At) (p : Pred) (sd sa sb : BitVec 4) (s : State) : Host.Outcome State Fault Refusal :=
  done (atOk a) (issue s a (withC a p (.or sd sa sb)))

/-- XOR (Table 3.7). -/
def execXorS (a : At) (p : Pred) (sd sa sb : BitVec 4) (s : State) : Host.Outcome State Fault Refusal :=
  done (atOk a) (issue s a (withC a p (.xor sd sa sb)))

/-- SHL (Table 3.7). -/
def execShl (a : At) (p : Pred) (sd sa sb : BitVec 4) (s : State) : Host.Outcome State Fault Refusal :=
  done (atOk a) (issue s a (withC a p (.shl sd sa sb)))

/-- SHR (Table 3.7). -/
def execShr (a : At) (p : Pred) (sd sa sb : BitVec 4) (s : State) : Host.Outcome State Fault Refusal :=
  done (atOk a) (issue s a (withC a p (.shr sd sa sb)))

/-- SAR (Table 3.7). -/
def execSar (a : At) (p : Pred) (sd sa sb : BitVec 4) (s : State) : Host.Outcome State Fault Refusal :=
  done (atOk a) (issue s a (withC a p (.sar sd sa sb)))

/-- MIN (Table 3.7). -/
def execMinS (a : At) (p : Pred) (sd sa sb : BitVec 4) (s : State) : Host.Outcome State Fault Refusal :=
  done (atOk a) (issue s a (withC a p (.min sd sa sb)))

/-- MAX (Table 3.7). -/
def execMaxS (a : At) (p : Pred) (sd sa sb : BitVec 4) (s : State) : Host.Outcome State Fault Refusal :=
  done (atOk a) (issue s a (withC a p (.max sd sa sb)))

/-- CMP (Table 3.7). -/
def execCmp (a : At) (p : Pred) (sa sb : BitVec 4) (s : State) : Host.Outcome State Fault Refusal :=
  done (atOk a) (issue s a (withC a p (.cmp sa sb)))

/-- MULL (Table 3.7). -/
def execMull (a : At) (p : Pred) (sd sa sb : BitVec 4) (s : State) : Host.Outcome State Fault Refusal :=
  done (atOk a) (issue s a (withC a p (.mull sd sa sb)))

/-- ADDI (Table 3.7). -/
def execAddi (a : At) (p : Pred) (sd sa : BitVec 4) (imm : BitVec 14) (s : State) : Host.Outcome State Fault Refusal :=
  done (atOk a) (issue s a (withC a p (.addi sd sa imm)))

/-- CMPI (Table 3.7). -/
def execCmpi (a : At) (p : Pred) (sa : BitVec 4) (imm : BitVec 14) (s : State) : Host.Outcome State Fault Refusal :=
  done (atOk a) (issue s a (withC a p (.cmpi sa imm)))

/-- ANDI (Table 3.7). -/
def execAndi (a : At) (p : Pred) (sd sa : BitVec 4) (imm : BitVec 14) (s : State) : Host.Outcome State Fault Refusal :=
  done (atOk a) (issue s a (withC a p (.andi sd sa imm)))

/-- SHLI (Table 3.7). -/
def execShli (a : At) (p : Pred) (sd sa : BitVec 4) (imm : BitVec 5) (s : State) : Host.Outcome State Fault Refusal :=
  done (atOk a) (issue s a (withC a p (.shli sd sa imm)))

/-- SHRI (Table 3.7). -/
def execShri (a : At) (p : Pred) (sd sa : BitVec 4) (imm : BitVec 5) (s : State) : Host.Outcome State Fault Refusal :=
  done (atOk a) (issue s a (withC a p (.shri sd sa imm)))

/-- SARI (Table 3.7). -/
def execSari (a : At) (p : Pred) (sd sa : BitVec 4) (imm : BitVec 5) (s : State) : Host.Outcome State Fault Refusal :=
  done (atOk a) (issue s a (withC a p (.sari sd sa imm)))

/-- MOVI (Table 3.7). -/
def execMovi (a : At) (p : Pred) (sd : BitVec 4) (imm : BitVec 16) (s : State) : Host.Outcome State Fault Refusal :=
  done (atOk a) (issue s a (withC a p (.movi sd imm)))

/-- MOVHI (Table 3.7). -/
def execMovhi (a : At) (p : Pred) (sd : BitVec 4) (imm : BitVec 16) (s : State) : Host.Outcome State Fault Refusal :=
  done (atOk a) (issue s a (withC a p (.movhi sd imm)))

/-- MOVR (Table 3.7). -/
def execMovr (a : At) (p : Pred) (dst src : BitVec 6) (s : State) : Host.Outcome State Fault Refusal :=
  done (atOk a) (issue s a (withC a p (.movr dst src)))

/-- NEG (Table 3.7). -/
def execNeg (a : At) (p : Pred) (sd sa : BitVec 4) (s : State) : Host.Outcome State Fault Refusal :=
  done (atOk a) (issue s a (withC a p (.neg sd sa)))

/-- ABS (Table 3.7). -/
def execAbs (a : At) (p : Pred) (sd sa : BitVec 4) (s : State) : Host.Outcome State Fault Refusal :=
  done (atOk a) (issue s a (withC a p (.abs sd sa)))

/-- NOT (Table 3.7). -/
def execNotS (a : At) (p : Pred) (sd sa : BitVec 4) (s : State) : Host.Outcome State Fault Refusal :=
  done (atOk a) (issue s a (withC a p (.not sd sa)))

/-- NRM (Table 3.7). -/
def execNrm (a : At) (p : Pred) (sd sa : BitVec 4) (s : State) : Host.Outcome State Fault Refusal :=
  done (atOk a) (issue s a (withC a p (.nrm sd sa)))

/-- RCPS (Table 3.7). -/
def execRcps (a : At) (p : Pred) (sd sa : BitVec 4) (s : State) : Host.Outcome State Fault Refusal :=
  done (atOk a) (issue s a (withC a p (.rcps sd sa)))

/-- DIVS_U (Table 3.7). -/
def execDivsU (a : At) (p : Pred) (sqr sq sv : BitVec 4) (s : State) : Host.Outcome State Fault Refusal :=
  done (atOk a) (issue s a (withC a p (.divsU sqr sq sv)))

/-- DIVS_S (Table 3.7). -/
def execDivsS (a : At) (p : Pred) (sqr sq sv : BitVec 4) (s : State) : Host.Outcome State Fault Refusal :=
  done (atOk a) (issue s a (withC a p (.divsS sqr sq sv)))

/-- CMPP (Table 3.7). -/
def execCmpp (a : At) (p : Pred) (pd : BitVec 2) (cc sa sb : BitVec 4) (s : State) : Host.Outcome State Fault Refusal :=
  done (atOk a) (issue s a (withC a p (.cmpp pd cc sa sb)))

/-- PAND (Table 3.7). -/
def execPand (a : At) (p : Pred) (pd pa pb : BitVec 2) (s : State) : Host.Outcome State Fault Refusal :=
  done (atOk a) (issue s a (withC a p (.pand pd pa pb)))

/-- POR (Table 3.7). -/
def execPor (a : At) (p : Pred) (pd pa pb : BitVec 2) (s : State) : Host.Outcome State Fault Refusal :=
  done (atOk a) (issue s a (withC a p (.por pd pa pb)))

/-- PXOR (Table 3.7). -/
def execPxor (a : At) (p : Pred) (pd pa pb : BitVec 2) (s : State) : Host.Outcome State Fault Refusal :=
  done (atOk a) (issue s a (withC a p (.pxor pd pa pb)))

/-- PNOT (Table 3.7). -/
def execPnot (a : At) (p : Pred) (pd pa : BitVec 2) (s : State) : Host.Outcome State Fault Refusal :=
  done (atOk a) (issue s a (withC a p (.pnot pd pa)))

/-- PSETI (Table 3.7). -/
def execPseti (a : At) (p : Pred) (pd : BitVec 2) (imm : BitVec 16) (s : State) : Host.Outcome State Fault Refusal :=
  done (atOk a) (issue s a (withC a p (.pseti pd imm)))

/-- BR (Table 3.7). -/
def execBr (a : At) (p : Pred) (cond : BitVec 4) (target : BitVec 12) (s : State) : Host.Outcome State Fault Refusal :=
  done (atOk a) (issue s a (withC a p (.br cond target)))

/-- BRI (Table 3.7). -/
def execBri (a : At) (p : Pred) (cond sa : BitVec 4) (s : State) : Host.Outcome State Fault Refusal :=
  done (atOk a) (issue s a (withC a p (.bri cond sa)))

/-- CALL (Table 3.7). -/
def execCall (a : At) (p : Pred) (target : BitVec 12) (s : State) : Host.Outcome State Fault Refusal :=
  done (atOk a) (issue s a (withC a p (.call target)))

/-- RET (Table 3.7). -/
def execRet (a : At) (p : Pred) (s : State) : Host.Outcome State Fault Refusal :=
  done (atOk a) (issue s a (withC a p .ret))

/-- RTE (Table 3.7). -/
def execRte (a : At) (p : Pred) (s : State) : Host.Outcome State Fault Refusal :=
  done (atOk a) (issue s a (withC a p .rte))

/-- END (Table 3.7). -/
def execEndTask (a : At) (p : Pred) (s : State) : Host.Outcome State Fault Refusal :=
  done (atOk a) (issue s a (withC a p .endTask))

/-- REP (Table 3.7). -/
def execRep (a : At) (p : Pred) (len : BitVec 10) (byReg : Bool) (cnt : BitVec 10) (s : State) : Host.Outcome State Fault Refusal :=
  done (atOk a) (issue s a (withC a p (.rep len byReg cnt)))

/-- IREP (Table 3.7). -/
def execIrep (a : At) (p : Pred) (len : BitVec 10) (byReg : Bool) (cnt : BitVec 10) (s : State) : Host.Outcome State Fault Refusal :=
  done (atOk a) (issue s a (withC a p (.irep len byReg cnt)))

/-- WAITE (Table 3.7). -/
def execWaite (a : At) (p : Pred) (mask : BitVec 16) (s : State) : Host.Outcome State Fault Refusal :=
  done (atOk a) (issue s a (withC a p (.waite mask)))

/-- XSIG (Table 3.7). -/
def execXsig (a : At) (p : Pred) (core : BitVec 3) (s : State) : Host.Outcome State Fault Refusal :=
  done (atOk a) (issue s a (withC a p (.xsig core)))

/-- BRK (Table 3.7). -/
def execBrk (a : At) (p : Pred) (s : State) : Host.Outcome State Fault Refusal :=
  done (atOk a) (issue s a (withC a p .brk))

/-- TRAP (Table 3.7). -/
def execTrap (a : At) (p : Pred) (s : State) : Host.Outcome State Fault Refusal :=
  done (atOk a) (issue s a (withC a p .trap))

end Sys2Proof.Machine
end

