-- ==== Sys2Proof/Machine/Mslot.lean ====
section
/-! DEFINITION. Machine/Mslot.lean: the operations of the X and Y slots (Table 3.8). Each command issues its operation, with the words that the
command names for the other slots, on a core in RUN; on any other core no bundle issues (R70). -/

namespace Sys2Proof.Machine

/-- LD_W (Table 3.8). -/
def execLdW (a : At) (p : Pred) (bus : Bus) (m : MemF) (s : State) : Host.Outcome State Fault Refusal :=
  done (atOk a) (issue s a (withM a bus p (.ldW m)))

/-- LD_D (Table 3.8). -/
def execLdD (a : At) (p : Pred) (bus : Bus) (m : MemF) (s : State) : Host.Outcome State Fault Refusal :=
  done (atOk a) (issue s a (withM a bus p (.ldD m)))

/-- LD_V (Table 3.8). -/
def execLdV (a : At) (p : Pred) (bus : Bus) (m : MemF) (s : State) : Host.Outcome State Fault Refusal :=
  done (atOk a) (issue s a (withM a bus p (.ldV m)))

/-- LDB_W (Table 3.8). -/
def execLdbW (a : At) (p : Pred) (bus : Bus) (m : MemF) (s : State) : Host.Outcome State Fault Refusal :=
  done (atOk a) (issue s a (withM a bus p (.ldbW m)))

/-- LDB_D (Table 3.8). -/
def execLdbD (a : At) (p : Pred) (bus : Bus) (m : MemF) (s : State) : Host.Outcome State Fault Refusal :=
  done (atOk a) (issue s a (withM a bus p (.ldbD m)))

/-- ST_W (Table 3.8). -/
def execStW (a : At) (p : Pred) (bus : Bus) (m : MemF) (s : State) : Host.Outcome State Fault Refusal :=
  done (atOk a) (issue s a (withM a bus p (.stW m)))

/-- ST_D (Table 3.8). -/
def execStD (a : At) (p : Pred) (bus : Bus) (m : MemF) (s : State) : Host.Outcome State Fault Refusal :=
  done (atOk a) (issue s a (withM a bus p (.stD m)))

/-- ST_V (Table 3.8). -/
def execStV (a : At) (p : Pred) (bus : Bus) (m : MemF) (s : State) : Host.Outcome State Fault Refusal :=
  done (atOk a) (issue s a (withM a bus p (.stV m)))

/-- STR_V (Table 3.8). -/
def execStrV (a : At) (p : Pred) (bus : Bus) (acc : BitVec 2) (sh : BitVec 5) (sat : Bool) (ptr kr : BitVec 3) (s : State) : Host.Outcome State Fault Refusal :=
  done (atOk a) (issue s a (withM a bus p (.strV acc sh sat ptr kr)))

/-- ADDP (Table 3.8). -/
def execAddp (a : At) (p : Pred) (bus : Bus) (m : MemF) (s : State) : Host.Outcome State Fault Refusal :=
  done (atOk a) (issue s a (withM a bus p (.addp m)))

end Sys2Proof.Machine
end

