-- ==== Sys2Proof/Machine/Vslot.lean ====
section
/-! DEFINITION. Machine/Vslot.lean: the operations of the V slot (Table 3.9). Each command issues its operation, with the words that the
command names for the other slots, on a core in RUN; on any other core no bundle issues (R70). -/

namespace Sys2Proof.Machine

/-- MUL (Table 3.9). -/
def execMul (a : At) (p : Pred) (acc : BitVec 2) (va vb : BitVec 4) (s : State) : Host.Outcome State Fault Refusal :=
  done (atOk a) (issue s a (withV a p (.mac .real .set acc va vb)))

/-- MAC (Table 3.9). -/
def execMac (a : At) (p : Pred) (acc : BitVec 2) (va vb : BitVec 4) (s : State) : Host.Outcome State Fault Refusal :=
  done (atOk a) (issue s a (withV a p (.mac .real .add acc va vb)))

/-- MSU (Table 3.9). -/
def execMsu (a : At) (p : Pred) (acc : BitVec 2) (va vb : BitVec 4) (s : State) : Host.Outcome State Fault Refusal :=
  done (atOk a) (issue s a (withV a p (.mac .real .sub acc va vb)))

/-- CMUL (Table 3.9). -/
def execCmul (a : At) (p : Pred) (acc : BitVec 2) (va vb : BitVec 4) (s : State) : Host.Outcome State Fault Refusal :=
  done (atOk a) (issue s a (withV a p (.mac .complex .set acc va vb)))

/-- CMAC (Table 3.9). -/
def execCmac (a : At) (p : Pred) (acc : BitVec 2) (va vb : BitVec 4) (s : State) : Host.Outcome State Fault Refusal :=
  done (atOk a) (issue s a (withV a p (.mac .complex .add acc va vb)))

/-- CMSU (Table 3.9). -/
def execCmsu (a : At) (p : Pred) (acc : BitVec 2) (va vb : BitVec 4) (s : State) : Host.Outcome State Fault Refusal :=
  done (atOk a) (issue s a (withV a p (.mac .complex .sub acc va vb)))

/-- CMULJ (Table 3.9). -/
def execCmulj (a : At) (p : Pred) (acc : BitVec 2) (va vb : BitVec 4) (s : State) : Host.Outcome State Fault Refusal :=
  done (atOk a) (issue s a (withV a p (.mac .conj .set acc va vb)))

/-- CMACJ (Table 3.9). -/
def execCmacj (a : At) (p : Pred) (acc : BitVec 2) (va vb : BitVec 4) (s : State) : Host.Outcome State Fault Refusal :=
  done (atOk a) (issue s a (withV a p (.mac .conj .add acc va vb)))

/-- CMSUJ (Table 3.9). -/
def execCmsuj (a : At) (p : Pred) (acc : BitVec 2) (va vb : BitVec 4) (s : State) : Host.Outcome State Fault Refusal :=
  done (atOk a) (issue s a (withV a p (.mac .conj .sub acc va vb)))

/-- BFLY (Table 3.9). -/
def execBfly (a : At) (p : Pred) (pair : Bool) (va vb vw : BitVec 4) (s : State) : Host.Outcome State Fault Refusal :=
  done (atOk a) (issue s a (withV a p (.bfly pair va vb vw)))

/-- EXT (Table 3.9). -/
def execExt (a : At) (p : Pred) (vd : BitVec 4) (acc : BitVec 2) (sh : BitVec 5) (sat : Bool) (s : State) : Host.Outcome State Fault Refusal :=
  done (atOk a) (issue s a (withV a p (.ext vd acc sh sat)))

/-- ACCLD (Table 3.9). -/
def execAccld (a : At) (p : Pred) (acc : BitVec 2) (va : BitVec 4) (sh : BitVec 5) (s : State) : Host.Outcome State Fault Refusal :=
  done (atOk a) (issue s a (withV a p (.accld acc va sh)))

/-- ACCZ (Table 3.9). -/
def execAccz (a : At) (p : Pred) (acc : BitVec 2) (s : State) : Host.Outcome State Fault Refusal :=
  done (atOk a) (issue s a (withV a p (.accz acc)))

/-- ACCADD (Table 3.9). -/
def execAccadd (a : At) (p : Pred) (accd accs : BitVec 2) (s : State) : Host.Outcome State Fault Refusal :=
  done (atOk a) (issue s a (withV a p (.accadd accd accs)))

/-- VADD (Table 3.9). -/
def execVadd (a : At) (p : Pred) (vd va vb : BitVec 4) (sat : Bool) (s : State) : Host.Outcome State Fault Refusal :=
  done (atOk a) (issue s a (withV a p (.vadd vd va vb sat)))

/-- VSUB (Table 3.9). -/
def execVsub (a : At) (p : Pred) (vd va vb : BitVec 4) (sat : Bool) (s : State) : Host.Outcome State Fault Refusal :=
  done (atOk a) (issue s a (withV a p (.vsub vd va vb sat)))

/-- VNEG (Table 3.9). -/
def execVneg (a : At) (p : Pred) (vd va : BitVec 4) (sat : Bool) (s : State) : Host.Outcome State Fault Refusal :=
  done (atOk a) (issue s a (withV a p (.vneg vd va sat)))

/-- VABS (Table 3.9). -/
def execVabs (a : At) (p : Pred) (vd va : BitVec 4) (sat : Bool) (s : State) : Host.Outcome State Fault Refusal :=
  done (atOk a) (issue s a (withV a p (.vabs vd va sat)))

/-- VMIN (Table 3.9). -/
def execVmin (a : At) (p : Pred) (vd va vb : BitVec 4) (s : State) : Host.Outcome State Fault Refusal :=
  done (atOk a) (issue s a (withV a p (.vmin vd va vb)))

/-- VMAX (Table 3.9). -/
def execVmax (a : At) (p : Pred) (vd va vb : BitVec 4) (s : State) : Host.Outcome State Fault Refusal :=
  done (atOk a) (issue s a (withV a p (.vmax vd va vb)))

/-- VAND (Table 3.9). -/
def execVand (a : At) (p : Pred) (vd va vb : BitVec 4) (s : State) : Host.Outcome State Fault Refusal :=
  done (atOk a) (issue s a (withV a p (.vand vd va vb)))

/-- VOR (Table 3.9). -/
def execVor (a : At) (p : Pred) (vd va vb : BitVec 4) (s : State) : Host.Outcome State Fault Refusal :=
  done (atOk a) (issue s a (withV a p (.vor vd va vb)))

/-- VXOR (Table 3.9). -/
def execVxor (a : At) (p : Pred) (vd va vb : BitVec 4) (s : State) : Host.Outcome State Fault Refusal :=
  done (atOk a) (issue s a (withV a p (.vxor vd va vb)))

/-- VSHL (Table 3.9). -/
def execVshl (a : At) (p : Pred) (vd va : BitVec 4) (sat : Bool) (imm : BitVec 5) (s : State) : Host.Outcome State Fault Refusal :=
  done (atOk a) (issue s a (withV a p (.vshl vd va sat imm)))

/-- VSAR (Table 3.9). -/
def execVsar (a : At) (p : Pred) (vd va : BitVec 4) (sat : Bool) (imm : BitVec 5) (s : State) : Host.Outcome State Fault Refusal :=
  done (atOk a) (issue s a (withV a p (.vsar vd va sat imm)))

/-- VSHR (Table 3.9). -/
def execVshr (a : At) (p : Pred) (vd va : BitVec 4) (imm : BitVec 5) (s : State) : Host.Outcome State Fault Refusal :=
  done (atOk a) (issue s a (withV a p (.vshr vd va imm)))

/-- VMOV (Table 3.9). -/
def execVmov (a : At) (p : Pred) (vd va : BitVec 4) (s : State) : Host.Outcome State Fault Refusal :=
  done (atOk a) (issue s a (withV a p (.vmov vd va)))

/-- VSEL (Table 3.9). -/
def execVsel (a : At) (p : Pred) (vd va vb : BitVec 4) (psel : BitVec 2) (s : State) : Host.Outcome State Fault Refusal :=
  done (atOk a) (issue s a (withV a p (.vsel vd va vb psel)))

/-- VBRD (Table 3.9). -/
def execVbrd (a : At) (p : Pred) (vd sa : BitVec 4) (s : State) : Host.Outcome State Fault Refusal :=
  done (atOk a) (issue s a (withV a p (.vbrd vd sa)))

/-- VGET (Table 3.9). -/
def execVget (a : At) (p : Pred) (sd va e : BitVec 4) (s : State) : Host.Outcome State Fault Refusal :=
  done (atOk a) (issue s a (withV a p (.vget sd va e)))

/-- VPERM (Table 3.9). -/
def execVperm (a : At) (p : Pred) (vd va vb pat : BitVec 4) (s : State) : Host.Outcome State Fault Refusal :=
  done (atOk a) (issue s a (withV a p (.vperm vd va vb pat)))

/-- VCMP (Table 3.9). -/
def execVcmp (a : At) (p : Pred) (pd : BitVec 2) (cc va vb : BitVec 4) (s : State) : Host.Outcome State Fault Refusal :=
  done (atOk a) (issue s a (withV a p (.vcmp pd cc va vb)))

end Sys2Proof.Machine
end

