-- ==== Sys2Proof/Machine/Dispatch.lean ====
section
/-! DEFINITION. Machine/Dispatch.lean: one arm per command, each one call of its meaning. -/

namespace Sys2Proof.Machine

def exec (i : Instr) (s : State) : Host.Outcome State Fault Refusal :=
  match i with
  | .hostNop h => Sys2Proof.Machine.execHostNop h s
  | .setTick h code => Sys2Proof.Machine.execSetTick h code s
  | .slotCfg h first count src => Sys2Proof.Machine.execSlotCfg h first count src s
  | .loadImage h hearth addr len => Sys2Proof.Machine.execLoadImage h hearth addr len s
  | .swapProgram h hearth mode => Sys2Proof.Machine.execSwapProgram h hearth mode s
  | .discardImage h hearth => Sys2Proof.Machine.execDiscardImage h hearth s
  | .unloadProgram h hearth => Sys2Proof.Machine.execUnloadProgram h hearth s
  | .paramWrite h hearth block ofs count src => Sys2Proof.Machine.execParamWrite h hearth block ofs count src s
  | .paramSwap h hearth mask => Sys2Proof.Machine.execParamSwap h hearth mask s
  | .mixWrite h region flags first count src => Sys2Proof.Machine.execMixWrite h region flags first count src s
  | .mixSwap h => Sys2Proof.Machine.execMixSwap h s
  | .mixDamp h target index gain inv shape len => Sys2Proof.Machine.execMixDamp h target index gain inv shape len s
  | .portStart h port => Sys2Proof.Machine.execPortStart h port s
  | .portStop h port => Sys2Proof.Machine.execPortStop h port s
  | .portMute h port ch mute => Sys2Proof.Machine.execPortMute h port ch mute s
  | .decFreeze h chain freeze => Sys2Proof.Machine.execDecFreeze h chain freeze s
  | .flueEnable h flue => Sys2Proof.Machine.execFlueEnable h flue s
  | .flueDisable h flue => Sys2Proof.Machine.execFlueDisable h flue s
  | .flueClear h flue => Sys2Proof.Machine.execFlueClear h flue s
  | .streamWrite h dir stream src => Sys2Proof.Machine.execStreamWrite h dir stream src s
  | .streamStart h dir stream => Sys2Proof.Machine.execStreamStart h dir stream s
  | .streamStop h dir stream => Sys2Proof.Machine.execStreamStop h dir stream s
  | .streamStats h dir flags first count dst => Sys2Proof.Machine.execStreamStats h dir flags first count dst s
  | .twinSwap h => Sys2Proof.Machine.execTwinSwap h s
  | .slotNop a => Sys2Proof.Machine.execSlotNop a s
  | .add a p sd sa sb => Sys2Proof.Machine.execAdd a p sd sa sb s
  | .sub a p sd sa sb => Sys2Proof.Machine.execSub a p sd sa sb s
  | .adds a p sd sa sb => Sys2Proof.Machine.execAdds a p sd sa sb s
  | .subs a p sd sa sb => Sys2Proof.Machine.execSubs a p sd sa sb s
  | .andS a p sd sa sb => Sys2Proof.Machine.execAndS a p sd sa sb s
  | .orS a p sd sa sb => Sys2Proof.Machine.execOrS a p sd sa sb s
  | .xorS a p sd sa sb => Sys2Proof.Machine.execXorS a p sd sa sb s
  | .shl a p sd sa sb => Sys2Proof.Machine.execShl a p sd sa sb s
  | .shr a p sd sa sb => Sys2Proof.Machine.execShr a p sd sa sb s
  | .sar a p sd sa sb => Sys2Proof.Machine.execSar a p sd sa sb s
  | .minS a p sd sa sb => Sys2Proof.Machine.execMinS a p sd sa sb s
  | .maxS a p sd sa sb => Sys2Proof.Machine.execMaxS a p sd sa sb s
  | .cmp a p sa sb => Sys2Proof.Machine.execCmp a p sa sb s
  | .mull a p sd sa sb => Sys2Proof.Machine.execMull a p sd sa sb s
  | .addi a p sd sa imm => Sys2Proof.Machine.execAddi a p sd sa imm s
  | .cmpi a p sa imm => Sys2Proof.Machine.execCmpi a p sa imm s
  | .andi a p sd sa imm => Sys2Proof.Machine.execAndi a p sd sa imm s
  | .shli a p sd sa imm => Sys2Proof.Machine.execShli a p sd sa imm s
  | .shri a p sd sa imm => Sys2Proof.Machine.execShri a p sd sa imm s
  | .sari a p sd sa imm => Sys2Proof.Machine.execSari a p sd sa imm s
  | .movi a p sd imm => Sys2Proof.Machine.execMovi a p sd imm s
  | .movhi a p sd imm => Sys2Proof.Machine.execMovhi a p sd imm s
  | .movr a p dst src => Sys2Proof.Machine.execMovr a p dst src s
  | .neg a p sd sa => Sys2Proof.Machine.execNeg a p sd sa s
  | .abs a p sd sa => Sys2Proof.Machine.execAbs a p sd sa s
  | .notS a p sd sa => Sys2Proof.Machine.execNotS a p sd sa s
  | .nrm a p sd sa => Sys2Proof.Machine.execNrm a p sd sa s
  | .rcps a p sd sa => Sys2Proof.Machine.execRcps a p sd sa s
  | .divsU a p sqr sq sv => Sys2Proof.Machine.execDivsU a p sqr sq sv s
  | .divsS a p sqr sq sv => Sys2Proof.Machine.execDivsS a p sqr sq sv s
  | .cmpp a p pd cc sa sb => Sys2Proof.Machine.execCmpp a p pd cc sa sb s
  | .pand a p pd pa pb => Sys2Proof.Machine.execPand a p pd pa pb s
  | .por a p pd pa pb => Sys2Proof.Machine.execPor a p pd pa pb s
  | .pxor a p pd pa pb => Sys2Proof.Machine.execPxor a p pd pa pb s
  | .pnot a p pd pa => Sys2Proof.Machine.execPnot a p pd pa s
  | .pseti a p pd imm => Sys2Proof.Machine.execPseti a p pd imm s
  | .br a p cond target => Sys2Proof.Machine.execBr a p cond target s
  | .bri a p cond sa => Sys2Proof.Machine.execBri a p cond sa s
  | .call a p target => Sys2Proof.Machine.execCall a p target s
  | .ret a p => Sys2Proof.Machine.execRet a p s
  | .rte a p => Sys2Proof.Machine.execRte a p s
  | .endTask a p => Sys2Proof.Machine.execEndTask a p s
  | .rep a p len byReg cnt => Sys2Proof.Machine.execRep a p len byReg cnt s
  | .irep a p len byReg cnt => Sys2Proof.Machine.execIrep a p len byReg cnt s
  | .waite a p mask => Sys2Proof.Machine.execWaite a p mask s
  | .xsig a p core => Sys2Proof.Machine.execXsig a p core s
  | .brk a p => Sys2Proof.Machine.execBrk a p s
  | .trap a p => Sys2Proof.Machine.execTrap a p s
  | .ldW a p bus m => Sys2Proof.Machine.execLdW a p bus m s
  | .ldD a p bus m => Sys2Proof.Machine.execLdD a p bus m s
  | .ldV a p bus m => Sys2Proof.Machine.execLdV a p bus m s
  | .ldbW a p bus m => Sys2Proof.Machine.execLdbW a p bus m s
  | .ldbD a p bus m => Sys2Proof.Machine.execLdbD a p bus m s
  | .stW a p bus m => Sys2Proof.Machine.execStW a p bus m s
  | .stD a p bus m => Sys2Proof.Machine.execStD a p bus m s
  | .stV a p bus m => Sys2Proof.Machine.execStV a p bus m s
  | .strV a p bus acc sh sat ptr kr => Sys2Proof.Machine.execStrV a p bus acc sh sat ptr kr s
  | .addp a p bus m => Sys2Proof.Machine.execAddp a p bus m s
  | .mul a p acc va vb => Sys2Proof.Machine.execMul a p acc va vb s
  | .mac a p acc va vb => Sys2Proof.Machine.execMac a p acc va vb s
  | .msu a p acc va vb => Sys2Proof.Machine.execMsu a p acc va vb s
  | .cmul a p acc va vb => Sys2Proof.Machine.execCmul a p acc va vb s
  | .cmac a p acc va vb => Sys2Proof.Machine.execCmac a p acc va vb s
  | .cmsu a p acc va vb => Sys2Proof.Machine.execCmsu a p acc va vb s
  | .cmulj a p acc va vb => Sys2Proof.Machine.execCmulj a p acc va vb s
  | .cmacj a p acc va vb => Sys2Proof.Machine.execCmacj a p acc va vb s
  | .cmsuj a p acc va vb => Sys2Proof.Machine.execCmsuj a p acc va vb s
  | .bfly a p pair va vb vw => Sys2Proof.Machine.execBfly a p pair va vb vw s
  | .ext a p vd acc sh sat => Sys2Proof.Machine.execExt a p vd acc sh sat s
  | .accld a p acc va sh => Sys2Proof.Machine.execAccld a p acc va sh s
  | .accz a p acc => Sys2Proof.Machine.execAccz a p acc s
  | .accadd a p accd accs => Sys2Proof.Machine.execAccadd a p accd accs s
  | .vadd a p vd va vb sat => Sys2Proof.Machine.execVadd a p vd va vb sat s
  | .vsub a p vd va vb sat => Sys2Proof.Machine.execVsub a p vd va vb sat s
  | .vneg a p vd va sat => Sys2Proof.Machine.execVneg a p vd va sat s
  | .vabs a p vd va sat => Sys2Proof.Machine.execVabs a p vd va sat s
  | .vmin a p vd va vb => Sys2Proof.Machine.execVmin a p vd va vb s
  | .vmax a p vd va vb => Sys2Proof.Machine.execVmax a p vd va vb s
  | .vand a p vd va vb => Sys2Proof.Machine.execVand a p vd va vb s
  | .vor a p vd va vb => Sys2Proof.Machine.execVor a p vd va vb s
  | .vxor a p vd va vb => Sys2Proof.Machine.execVxor a p vd va vb s
  | .vshl a p vd va sat imm => Sys2Proof.Machine.execVshl a p vd va sat imm s
  | .vsar a p vd va sat imm => Sys2Proof.Machine.execVsar a p vd va sat imm s
  | .vshr a p vd va imm => Sys2Proof.Machine.execVshr a p vd va imm s
  | .vmov a p vd va => Sys2Proof.Machine.execVmov a p vd va s
  | .vsel a p vd va vb psel => Sys2Proof.Machine.execVsel a p vd va vb psel s
  | .vbrd a p vd sa => Sys2Proof.Machine.execVbrd a p vd sa s
  | .vget a p sd va e => Sys2Proof.Machine.execVget a p sd va e s
  | .vperm a p vd va vb pat => Sys2Proof.Machine.execVperm a p vd va vb pat s
  | .vcmp a p pd cc va vb => Sys2Proof.Machine.execVcmp a p pd cc va vb s
  | .eventTaken cl core => Sys2Proof.Machine.execEventTaken cl core s
  | .repLoopBack cl core => Sys2Proof.Machine.execRepLoopBack cl core s
  | .halt cl core => Sys2Proof.Machine.execHalt cl core s
  | .haltAccepted cl core => Sys2Proof.Machine.execHaltAccepted cl core s
  | .resume cl core => Sys2Proof.Machine.execResume cl core s
  | .step cl core => Sys2Proof.Machine.execStep cl core s
  | .memInit cl => Sys2Proof.Machine.execMemInit cl s
  | .nValidRise c => Sys2Proof.Machine.execNValidRise c s
  | .engineStart c => Sys2Proof.Machine.execEngineStart c s
  | .tickStart c => Sys2Proof.Machine.execTickStart c s
  | .tstart cl core task => Sys2Proof.Machine.execTstart cl core task s
  | .budget cl core task => Sys2Proof.Machine.execBudget cl core task s
  | .outputPhase => Sys2Proof.Machine.execOutputPhase s
  | .tickEnd c => Sys2Proof.Machine.execTickEnd c s
  | .doorbellFetch => Sys2Proof.Machine.execDoorbellFetch s
  | .nudge off val => Sys2Proof.Machine.execNudge off val s
  | .meterFrame => Sys2Proof.Machine.execMeterFrame s
  | .gridInstant => Sys2Proof.Machine.execGridInstant s
  | .hifEnable val => Sys2Proof.Machine.execHifEnable val s
  | .hifDisable val => Sys2Proof.Machine.execHifDisable val s
  | .freeStart => Sys2Proof.Machine.execFreeStart s
  | .run => Sys2Proof.Machine.execRun s
  | .registerWrite ag off val => Sys2Proof.Machine.execRegisterWrite ag off val s
  | .badAccess ag off size write => Sys2Proof.Machine.execBadAccess ag off size write s
  | .loRead ag off => Sys2Proof.Machine.execLoRead ag off s
  | .rcRead ag off => Sys2Proof.Machine.execRcRead ag off s
  | .peakClr => Sys2Proof.Machine.execPeakClr s
  | .mixValidationDone => Sys2Proof.Machine.execMixValidationDone s
  | .rampEnd bus index => Sys2Proof.Machine.execRampEnd bus index s
  | .leadinStart port => Sys2Proof.Machine.execLeadinStart port s
  | .portFrameReceive port words => Sys2Proof.Machine.execPortFrameReceive port words s
  | .slip port full => Sys2Proof.Machine.execSlip port full s
  | .glitch port missing => Sys2Proof.Machine.execGlitch port missing s
  | .clockLost port => Sys2Proof.Machine.execClockLost port s
  | .clockRecovered port rate => Sys2Proof.Machine.execClockRecovered port rate s
  | .aesErr port ch => Sys2Proof.Machine.execAesErr port ch s
  | .csBlock port sub bytes c phase => Sys2Proof.Machine.execCsBlock port sub bytes c phase s
  | .asrcLock port ratio => Sys2Proof.Machine.execAsrcLock port ratio s
  | .acqFail port => Sys2Proof.Machine.execAcqFail port s
  | .trackErr port => Sys2Proof.Machine.execTrackErr port s
  | .muteRampEnd asrc => Sys2Proof.Machine.execMuteRampEnd asrc s
  | .holdExpiry asrc => Sys2Proof.Machine.execHoldExpiry asrc s
  | .syncMatch port ch found => Sys2Proof.Machine.execSyncMatch port ch found s
  | .naRelease port ch => Sys2Proof.Machine.execNaRelease port ch s
  | .unsettledEnd chain => Sys2Proof.Machine.execUnsettledEnd chain s
  | .loopSample group grs bits => Sys2Proof.Machine.execLoopSample group grs bits s
  | .switchingPeriod flue => Sys2Proof.Machine.execSwitchingPeriod flue s
  | .rampUpEnd flue => Sys2Proof.Machine.execRampUpEnd flue s
  | .rampDownEnd flue => Sys2Proof.Machine.execRampDownEnd flue s
  | .stoppingEnd flue => Sys2Proof.Machine.execStoppingEnd flue s
  | .trip flue ball => Sys2Proof.Machine.execTrip flue ball s
  | .tripRateShutdown flue => Sys2Proof.Machine.execTripRateShutdown flue s
  | .retry flue => Sys2Proof.Machine.execRetry flue s
  | .retrySuccess flue => Sys2Proof.Machine.execRetrySuccess flue s
  | .dcBlock flue => Sys2Proof.Machine.execDcBlock flue s
  | .senseFault flue onF => Sys2Proof.Machine.execSenseFault flue onF s
  | .frameReceived port bytes line c phase sub => Sys2Proof.Machine.execFrameReceived port bytes line c phase sub s
  | .packetDue stream c phase => Sys2Proof.Machine.execPacketDue stream c phase s
  | .lateDrop stream pathB => Sys2Proof.Machine.execLateDrop stream pathB s
  | .takePoint stream => Sys2Proof.Machine.execTakePoint stream s
  | .linkChange port up => Sys2Proof.Machine.execLinkChange port up s
  | .netCfgWrite ag port val => Sys2Proof.Machine.execNetCfgWrite ag port val s
  | .lpiEntry side => Sys2Proof.Machine.execLpiEntry side s
  | .caravanSend c => Sys2Proof.Machine.execCaravanSend c s
  | .caravanReceived bytes fcsOk c => Sys2Proof.Machine.execCaravanReceived bytes fcsOk c s
  | .ringDown => Sys2Proof.Machine.execRingDown s
  | .apply ag dom val => Sys2Proof.Machine.execApply ag dom val s
  | .cancel ag dom val => Sys2Proof.Machine.execCancel ag dom val s
  | .owner ag dom val => Sys2Proof.Machine.execOwner ag dom val s
  | .domainUpdate dom => Sys2Proof.Machine.execDomainUpdate dom s
  | .go => Sys2Proof.Machine.execGo s
  | .ppsIn c phase width => Sys2Proof.Machine.execPpsIn c phase width s
  | .ppsOut c => Sys2Proof.Machine.execPpsOut c s
  | .wtr cand => Sys2Proof.Machine.execWtr cand s
  | .dispute cand => Sys2Proof.Machine.execDispute cand s
  | .historySecond freqs => Sys2Proof.Machine.execHistorySecond freqs s
  | .lock => Sys2Proof.Machine.execLock s
  | .mediaIndexSet c => Sys2Proof.Machine.execMediaIndexSet c s
  | .histClr => Sys2Proof.Machine.execHistClr s
  | .suspClr => Sys2Proof.Machine.execSuspClr s
  | .dcoFfoWrite val => Sys2Proof.Machine.execDcoFfoWrite val s
  | .backgroundCopyDone cl => Sys2Proof.Machine.execBackgroundCopyDone cl s
  | .shadowSlotEnd => Sys2Proof.Machine.execShadowSlotEnd s
  | .bistEnd failed => Sys2Proof.Machine.execBistEnd failed s
  | .targetedSelfTest hearthFails emberFails => Sys2Proof.Machine.execTargetedSelfTest hearthFails emberFails s
  | .twinLinkUp peerRun => Sys2Proof.Machine.execTwinLinkUp peerRun s
  | .joinCopyDone j => Sys2Proof.Machine.execJoinCopyDone j s
  | .joinTick => Sys2Proof.Machine.execJoinTick s
  | .settled => Sys2Proof.Machine.execSettled s
  | .joinFail => Sys2Proof.Machine.execJoinFail s
  | .disputeCleared => Sys2Proof.Machine.execDisputeCleared s
  | .tickRecord r => Sys2Proof.Machine.execTickRecord r s
  | .arrive stream peer => Sys2Proof.Machine.execArrive stream peer s
  | .handover hc => Sys2Proof.Machine.execHandover hc s
  | .ack hc => Sys2Proof.Machine.execAck hc s
  | .handoverInstant => Sys2Proof.Machine.execHandoverInstant s
  | .wreset => Sys2Proof.Machine.execWreset s
  | .join items => Sys2Proof.Machine.execJoin items s
  | .mbxFrame mbox words epoch seq code outcome => Sys2Proof.Machine.execMbxFrame mbox words epoch seq code outcome s
  | .peerLost c => Sys2Proof.Machine.execPeerLost c s
  | .detach => Sys2Proof.Machine.execDetach s
  | .rejoin => Sys2Proof.Machine.execRejoin s
  | .clrDispute => Sys2Proof.Machine.execClrDispute s
  | .send sender mbox words len code => Sys2Proof.Machine.execSend sender mbox words len code s
  | .taken reader mbox => Sys2Proof.Machine.execTaken reader mbox s
  | .timeout mbox => Sys2Proof.Machine.execTimeout mbox s
  | .flushed mbox => Sys2Proof.Machine.execFlushed mbox s
  | .sensorRead req => Sys2Proof.Machine.execSensorRead req s
  | .logRead req => Sys2Proof.Machine.execLogRead req s
  | .logLevel req => Sys2Proof.Machine.execLogLevel req s
  | .updateStage req => Sys2Proof.Machine.execUpdateStage req s
  | .updateActivate req => Sys2Proof.Machine.execUpdateActivate req s
  | .bootStatus req => Sys2Proof.Machine.execBootStatus req s
  | .health req => Sys2Proof.Machine.execHealth req s
  | .ptpCfg req => Sys2Proof.Machine.execPtpCfg req s
  | .replyDrop req => Sys2Proof.Machine.execReplyDrop req s
  | .matrixGrant target reqs => Sys2Proof.Machine.execMatrixGrant target reqs s
  | .burstReset master => Sys2Proof.Machine.execBurstReset master s
  | .scrub mem => Sys2Proof.Machine.execScrub mem s
  | .remap ag val => Sys2Proof.Machine.execRemap ag val s
  | .eccInjArm val => Sys2Proof.Machine.execEccInjArm val s
  | .sourceEvent src detail => Sys2Proof.Machine.execSourceEvent src detail s
  | .windowClose src => Sys2Proof.Machine.execWindowClose src s
  | .escalation src => Sys2Proof.Machine.execEscalation src s
  | .ladderDecay group => Sys2Proof.Machine.execLadderDecay group s
  | .ackSource src => Sys2Proof.Machine.execAckSource src s
  | .recovery => Sys2Proof.Machine.execRecovery s
  | .recWindowClose => Sys2Proof.Machine.execRecWindowClose s
  | .paritySweep => Sys2Proof.Machine.execParitySweep s
  | .forceSafe => Sys2Proof.Machine.execForceSafe s
  | .unlatch => Sys2Proof.Machine.execUnlatch s
  | .thermalSample readings => Sys2Proof.Machine.execThermalSample readings s
  | .resetW ag key => Sys2Proof.Machine.execResetW ag key s
  | .resetE ag key => Sys2Proof.Machine.execResetE ag key s
  | .resetU ag key uclass unit => Sys2Proof.Machine.execResetU ag key uclass unit s
  | .resetM ag key => Sys2Proof.Machine.execResetM ag key s
  | .rstNLow ns => Sys2Proof.Machine.execRstNLow ns s
  | .powerOn => Sys2Proof.Machine.execPowerOn s
  | .supplyReset supply => Sys2Proof.Machine.execSupplyReset supply s
  | .supplyWarn supply => Sys2Proof.Machine.execSupplyWarn supply s
  | .supplyOk supply us => Sys2Proof.Machine.execSupplyOk supply us s
  | .resetRelease ns twinId bootsel failed => Sys2Proof.Machine.execResetRelease ns twinId bootsel failed s
  | .clkLost clk => Sys2Proof.Machine.execClkLost clk s
  | .clockQualified clk => Sys2Proof.Machine.execClockQualified clk s
  | .pcieReset => Sys2Proof.Machine.execPcieReset s
  | .mgtWdog => Sys2Proof.Machine.execMgtWdog s
  | .reqRun => Sys2Proof.Machine.execReqRun s
  | .reqQuiet => Sys2Proof.Machine.execReqQuiet s
  | .reqKeep => Sys2Proof.Machine.execReqKeep s
  | .quietGate => Sys2Proof.Machine.execQuietGate s
  | .domainPowerOn => Sys2Proof.Machine.execDomainPowerOn s
  | .pdEnWrite word val => Sys2Proof.Machine.execPdEnWrite word val s
  | .bootAttempt => Sys2Proof.Machine.execBootAttempt s
  | .bootOk => Sys2Proof.Machine.execBootOk s
  | .hostTmo => Sys2Proof.Machine.execHostTmo s
  | .bootGo => Sys2Proof.Machine.execBootGo s
  | .clrFail => Sys2Proof.Machine.execClrFail s
  | .lifecycleAdvance val => Sys2Proof.Machine.execLifecycleAdvance val s
  | .newchal => Sys2Proof.Machine.execNewchal s
  | .debugRequest val => Sys2Proof.Machine.execDebugRequest val s
  | .lockoutEnd => Sys2Proof.Machine.execLockoutEnd s
  | .commit val => Sys2Proof.Machine.execCommit val s
  | .samplePreload => Sys2Proof.Machine.execSamplePreload s
  | .idcode => Sys2Proof.Machine.execIdcode s
  | .bypass => Sys2Proof.Machine.execBypass s
  | .extest => Sys2Proof.Machine.execExtest s
  | .wordClockEdge wck present c phase => Sys2Proof.Machine.execWordClockEdge wck present c phase s
  | .frameFromManagement port bytes oneStep wantTs reqTs c phase => Sys2Proof.Machine.execFrameFromManagement port bytes oneStep wantTs reqTs c phase s
  | .tickRecordLate => Sys2Proof.Machine.execTickRecordLate s
  | .twinLaneChange lane up => Sys2Proof.Machine.execTwinLaneChange lane up s

end Sys2Proof.Machine
end

