-- ==== Sys2Proof/Machine/Balls.lean ====
section
/-! DEFINITION. Machine/Balls.lean: what the balls of the ports, the group clocks GCKg and the word clocks WCKOj show (R156, R163, R198,
R199, R209, R303): each is read off the state. A ball that is not driven rests on its weak pull-up (R406). -/

namespace Sys2Proof.Machine

/-! ## Ports (R156, Table 6.1) -/

/-- The use that a mode makes of a ball. -/
inductive BallUse where
  /-- not used: the weak pull-up holds it -/
  | unused
  | input
  | output
  deriving DecidableEq, Repr

def outIf (out : Bool) : BallUse := if out then .output else .input

/-- The use of ball `b` of port `p`, A to G being 0 to 6 (Table 6.1). -/
def ballUse (s : State) (p b : Nat) : BallUse :=
  if 6 < b then .unused
  else if s.mode p = mTdm then
    (if b < 2 then outIf (s.masters p)
     else if b < 6 then outIf (bit (s.fget (PRT_TDM_CFG_LANE_DIR p)) (b - 2))
     else if (mclkDiv s p).isSome then .output else .unused)
  else if s.mode p = mAes then (if b = 0 then .input else if b = 1 then .output else .unused)
  else if s.mode p = mBit then
    (if b = 0 then outIf (s.masters p) else if 2 ≤ b ∧ b < 6 then .input else .unused)
  else if s.mode p = mFlue then outIf (decide (b < 4))
  else .unused

/-- The port and this chip let its balls be driven: no reset holds it. -/
def portOut (s : State) (p : Nat) : Bool := s.drivesBalls && !s.pwr.ports.contains p && !s.pwr.engineRst

/-- Ball `b` of a port is driven (Tables 6.1 and 6.3): an output, in the states that drive it. The master clock on G comes from ACLK
and does not end with a clock that is lost. -/
def ballDriven (s : State) (p b : Nat) : Bool :=
  ballUse s p b == .output && portOut s p &&
    (s.mode p == mFlue || (s.port p).driven || (b == 6 && s.pst p == stLost))

/-- The output drive of a port in mA (Table 6.9). -/
def driveMa (s : State) (p : Nat) : Nat := 4 * (s.fget (PRT_MODE_DRIVE p) + 1)

/-- The frequency of the master clock on ball G, in Hz, while it is driven (R163). -/
def mclkHz (s : State) (p : Nat) : Option Nat := if ballDriven s p 6 then (mclkDiv s p).map (aclk s / ·) else none

/-! ## Flues (R198, R199) -/

/-- The levels of AH, AL, BH and BL at position `pos` of the running period, or the pull-ups, which hold them high. -/
def gateBalls (s : State) (p pos : Nat) : Bool × Bool × Bool × Bool :=
  if ballDriven s p 0 ∧ s.mode p = mFlue then gateLevels s p pos else (true, true, true, true)

/-- GCKg is driven, at ACLK / 4. -/
def gckDriven (s : State) (g : Nat) : Bool := groupFlue s g && s.drivesBalls && !s.pwr.engineRst

/-! ## Word clocks (R303) -/

def wckoEn (j : Nat) : Fd := if j = 0 then REF_WCKO_CFG_EN0 else REF_WCKO_CFG_EN1
def wckoRate (j : Nat) : Fd := if j = 0 then REF_WCKO_CFG_RATE0 else REF_WCKO_CFG_RATE1
def wckoPol (j : Nat) : Fd := if j = 0 then REF_WCKO_CFG_POL0 else REF_WCKO_CFG_POL1

/-- The domain whose samples WCKOj marks while it is driven: L, M or F. -/
def wckoDom (s : State) (j : Nat) : Option Nat :=
  let r := s.fget (wckoRate j)
  if s.on (wckoEn j) ∧ r ≠ 3 ∧ s.drivesBalls then some r else none

/-- The level of WCKOj at FCLK count `c`, 4,096 n being the instant of M sample n: a square wave whose active edge falls at the
instant of each sample of its domain. -/
def wckoLevel (s : State) (j c : Nat) : Option Bool :=
  (wckoDom s j).map fun d => decide (c % (8192 / 2 ^ d) < 4096 / 2 ^ d) != s.on (wckoPol j)

end Sys2Proof.Machine
end

