-- ==== Sys2Proof/Safety.lean ====
section
/-! DEFINITION. Safety.lean: what a safe run is, and the conditions and shapes of a next state that the statements of
Certificates/Slice0/Obligations.lean are made of. -/

namespace Sys2Proof

open Sys2Proof.Machine

/-! ## Safe states -/

/-- The memories and the register words stand in their canonical form: keys strictly rising, and no entry equal to what
its key reads as when it is not listed. -/
def tidy (s : State) : Prop :=
  Memory.wf s.mem = true ∧ Memory.wf s.hostMem = true ∧ Tbl.wfFrom resetWord none s.regs = true

/-- A run is safe as long as no command is refused. -/
def safeStep (s : State) : Prop := ∃ t, step s = .next t

/-! ## Valuc bundles -/

/-- Core `a.core` of cluster `a.cl` is about to issue the operation that a command names, alone in its bundle: the core runs
and its cluster has a clock, no repeat level is active and no result of an earlier bundle is unfinished, and no word of
memory carries an error. -/
structure Issuing (s : State) (a : At) : Prop where
  exists' : a.cl < 26 ∧ a.core < 8
  alone : a.others = ⟨0, 0, 0, 0⟩
  running : s.fget (HRT_CORE_STATUS_STATE a.cl a.core) = 2
  clocked : s.fget CLK_PWR_STATUS_STATE ≠ 1
  noLoop : (s.core a.cl a.core).loops = [] ∧ (s.core a.cl a.core).loopDue = false
  settled : (s.core a.cl a.core).flights = []
  sound : s.mtx.ue = [] ∧ s.mtx.ce = []

/-- The same for a bundle that is no delay slot. -/
structure Ready (s : State) (a : At) : Prop extends Issuing s a where
  noTurn : (s.core a.cl a.core).turns = []

/-- A core that has issued one more bundle, which went on to the next address. -/
def passed (c : Core) : Core := { c with pc := c.pc + 1, ic := c.ic + 1, issueNow := c.issueNow + 1 }

/-- The enable bit of element `e` (R80), as the register file holds the predicate. -/
def enabled (c : Core) (p : Pred) (e : Nat) : Bool :=
  !p.pe || ((Tbl.get 0 c.p p.ps.toNat).getLsbD e != p.pn)

/-- The elements that an operation reaches. -/
def reachedBy (c : Core) (p : Pred) : List Nat := (List.range 16).filter fun e => enabled c p e

/-- A predication that is not ILLEGAL by itself (R80): with PE = 0, PN and PS are zero. -/
def lawful (p : Pred) : Prop := p.pe = false → p.pn = false ∧ p.ps = 0

/-- ST with the flags N, Z, C and V as given, and SAT set where `sat` says so (Table 2.6). -/
def flagWord (old : W32) (n z c v sat : Bool) : W32 :=
  (old &&& 0xFFFFFFF0#32) ||| BitVec.ofNat 32 (b2n n + 2 * b2n z + 4 * b2n c + 8 * b2n v + 16 * b2n sat)

/-- The state after a bundle that leaves core `a.core` of cluster `a.cl` as `c` and goes on to the next address. `sat` and
`aov` say whether an operation saturated or an accumulator overflowed, which HRT_CORE_STATUS shows. -/
def wentOn (s : State) (a : At) (c : Core) (sat : Bool := false) (aov : Bool := false) : State :=
  ((s.when sat (·.fset (HRT_CORE_STATUS_SAT_SEEN a.cl a.core) 1)).when aov
    (·.fset (HRT_CORE_STATUS_AOV_SEEN a.cl a.core) 1)).setCore a.cl a.core (passed c)

/-- What a scalar operation of the C slot does: where its enable bit is set it writes `v` to register `sd` and the flags
to ST, else it writes nothing; it goes on to the next bundle and changes nothing else. -/
def scalarDoes (s : State) (a : At) (p : Pred) (i : Instr) (sd : BitVec 4) (v : W32) (st : W32) (sat : Bool := false) :
    Prop :=
  let c := s.core a.cl a.core
  exec i s = .next (if enabled c p 0 then wentOn s a { c with s := Tbl.put 0 c.s sd.toNat v, st := st } sat
    else wentOn s a c)

/-- What a scalar operation that writes nothing but flags does. -/
def compareDoes (s : State) (a : At) (p : Pred) (i : Instr) (st : W32) : Prop :=
  let c := s.core a.cl a.core
  exec i s = .next (if enabled c p 0 then wentOn s a { c with st := st } else wentOn s a c)

/-- What an operation of the C slot on predicate register `pd` does: its 16 bits go on their way as `v`. -/
def predicateDoes (s : State) (a : At) (p : Pred) (i : Instr) (pd : BitVec 2) (v : BitVec 16) : Prop :=
  let c := s.core a.cl a.core
  exec i s = .next (if enabled c p 0 then wentOn s a { c with
    flights := (List.range 16).map fun (b : Nat) => ⟨0, .pred, .p (16 * pd.toNat + b), BitVec.ofNat 72 (b2n (v.getLsbD b))⟩ }
    else wentOn s a c)

/-- The results of a vector operation on their way: one for each element that it reaches, and the sticky bits. -/
def sent (c : Core) (p : Pred) (cls : PClass) (dst : Nat → Dst) (f : Nat → BitVec 72) (sat aov : Bool) : Core :=
  { c with
    flights := ((reachedBy c p).map fun e => (⟨0, cls, dst e, f e⟩ : Flight)) ++
      (if sat then [⟨0, cls, .sat, 0⟩] else []) ++ (if aov then [⟨0, .mac, .aov, 0⟩] else []) }

/-- What a V-slot operation with vector destination `vd` does (R88): element by element `f e`, clipped to 32 bits where
`clipped` says so; otherwise modulo 2^32. -/
def vectorDoes (s : State) (a : At) (p : Pred) (i : Instr) (cls : PClass) (vd : BitVec 4) (clipped : Bool) (f : Nat → Int) :
    Prop :=
  let c := s.core a.cl a.core
  let out (e : Nat) : Bool := clipped && (decide (f e < -2 ^ 31) || decide (2 ^ 31 - 1 < f e))
  let word (e : Nat) : W32 :=
    BitVec.ofInt 32 (if clipped then max (-2 ^ 31) (min (2 ^ 31 - 1) (f e)) else f e)
  let sat := (reachedBy c p).any out
  exec i s = .next (wentOn s a (sent c p cls (fun e => .v (16 * vd.toNat + e)) (fun e => (word e).setWidth 72) sat false) sat)

/-- What an accumulator operation does (R85): each reached element takes the exact value modulo 2^72, and the overflow of
one of them is marked. -/
def accumulatorDoes (s : State) (a : At) (p : Pred) (i : Instr) (acc : Nat) (f : Nat → Int) : Prop :=
  let c := s.core a.cl a.core
  let aov := (reachedBy c p).any fun e => decide (f e < -2 ^ 71) || decide (2 ^ 71 - 1 < f e)
  exec i s = .next (wentOn s a (sent c p .mac (fun e => .acc (16 * acc + e)) (fun e => BitVec.ofInt 72 (f e)) false aov)
    false aov)

/-- The word that a core reads at a bus address (Table 2.3). -/
def busWordAt (s : State) (a : At) (bus : Bus) (adr : Nat) : W32 := busRead s ⟨a.cl, a.core, 0, false, false⟩ bus adr

/-- The byte address in the internal map of the word at a bus address. -/
def byteAt (a : At) (bus : Bus) (adr : Nat) : Nat := (busByte ⟨a.cl, a.core, 0, false, false⟩ bus adr).getD 0

/-- The core after the post-modification of an X-slot or Y-slot operation (Table 3.6). -/
def stepped (c : Core) (bus : Bus) (m : MemF) : Core :=
  if m.am = 2 then c else c.setBase (ptrCode bus m.ptr.toNat) (BitVec.ofNat 32 (c.address bus m).2)

/-- A load or a store of `n` words at `adr` is aligned (R48) and every word of it is there (Table 2.3). -/
def loadable (adr n : Nat) : Prop := adr % n = 0 ∧ (adr < 0xC000 ∨ 0x1FFF0 ≤ adr)
def storable (adr n : Nat) : Prop := adr % n = 0 ∧ (adr < 0xC000 ∨ 0x20000 ≤ adr)

/-- A loaded word on its way into a register of Table 3.4. -/
def arriving (code : Nat) (v : W32) : List Flight :=
  if 0x30 ≤ code ∧ code < 0x34 then
    (List.range 16).map fun (b : Nat) => ⟨0, .load, .p (16 * (code - 0x30) + b), BitVec.ofNat 72 (b2n (v.getLsbD b))⟩
  else [⟨0, .load, .reg code, v.setWidth 72⟩]

/-- The state with words stored one after another. -/
def storing (s : State) (l : List (Nat × W32)) : State :=
  { s with mem := l.foldl (fun m e => Memory.wr32 m e.1 e.2) s.mem }

/-- What every bundle that raises an exception leaves (R69): the core is FAULTED, HRT_CORE_EXC holds the code, the slots and
the bundle address, the registers of the core and memory are as they were, and EXC_SEEN is set. -/
def faultedWith (s : State) (a : At) (i : Instr) (code slots : Nat) : Prop :=
  ∃ t, exec i s = .next t ∧ t.fget (HRT_CORE_STATUS_STATE a.cl a.core) = 5 ∧
    t.rd (HRT_CORE_EXC a.cl a.core) = BitVec.ofNat 32 (code + 16 * slots + 2 ^ 16 * (s.core a.cl a.core).pc.toNat) ∧
    t.fget (HRT_CORE_STATUS_EXC_SEEN a.cl a.core) = 1 ∧ t.core a.cl a.core = s.core a.cl a.core ∧ t.mem = s.mem

/-- Elements of the operands as signed integers. -/
def vInt (c : Core) (r : BitVec 4) (e : Nat) : Int := (Tbl.get 0 c.v (16 * r.toNat + e)).toInt
def accInt (c : Core) (r : BitVec 2) (e : Nat) : Int := (Tbl.get 0 c.acc (16 * r.toNat + e)).toInt

/-- The complex product of R51, and that with the conjugate of `b`. -/
def complexProduct (a b : Nat → Int) (e : Nat) : Int :=
  if e % 2 = 0 then a e * b e - a (e + 1) * b (e + 1) else a (e - 1) * b e + a e * b (e - 1)
def conjProduct (a b : Nat → Int) (e : Nat) : Int :=
  if e % 2 = 0 then a e * b e + a (e + 1) * b (e + 1) else a e * b (e - 1) - a (e - 1) * b e

/-! ## Host commands (13) -/

/-- A command is scheduled when it comes (R25): the engine runs in power state RUN at the instant of a tick start, no command
is held, and the rings are enabled. -/
structure Serving (s : State) : Prop where
  running : s.running = true
  awake : powerState s = 0
  atStart : s.tmb.c = s.sch.ck ∧ s.sch.ended = false ∧ s.sch.outDone = false
  noneHeld : s.sch.held = []
  enabled : s.pwr.hifRst = false ∧ s.on HIF_CTRL_EN = true

/-- PEND_CMDS of a part that holds no command. -/
def noHeld (s : State) : State := s.fset SCH_STATUS_PEND_CMDS 0

/-- A completion is put behind those that wait (Table 13.5): status, reason, and the n of the effect of a command that was
applied. -/
def answered (s : State) (h : Hdr) (status reason : Nat) (applied : Option Nat) (lateOut : Nat := 0) : State :=
  { s with hif := { s.hif with cpls := s.hif.cpls ++
    [⟨h, status, reason, applied.isSome, lateOut, BitVec.ofNat 32 (applied.getD 0)⟩] } }

/-- `t` is `s` with the completion `st` of command `h` at n, and with changes in `regs` and in what `p` says. -/
def answeredOk (s t : State) (h : Hdr) : Prop :=
  t.hif = { s.hif with cpls := s.hif.cpls ++ [⟨h, 0, 0, true, 0, BitVec.ofNat 32 s.n⟩] }

/-- Every bit of every register outside the fields `l` is as it was. -/
def regsBut (s t : State) (l : List Fd) : Prop :=
  ∀ off i, (∀ f ∈ l, f.off = off → i < f.lo ∨ f.lo + f.w ≤ i) → (t.rd off).getLsbD i = (s.rd off).getLsbD i

/-- Both words of a register pair. -/
def pairWords (off : Nat) : List Fd := [word off, word (off + 4)]

/-! ## Decisions of a pair (Table 12.3, R320) -/

/-- What Table 12.3 leaves to the LEAD: a chip that runs in no joined pair does it at once; the LEAD of a joined pair puts
the decision in its next record, and the SHADOW waits for that record. -/
def decided (s : State) (add : TickRec → TickRec) (now : State) : State :=
  if s.defers = false then now
  else if s.lead = false then s
  else { s with twin := { s.twin with
    decisions := some (add (s.twin.decisions.getD { k := 0, fromLead := true, sigs := [], evidence := 0 })) } }

end Sys2Proof
end

