-- ==== Sys2Proof/Certificates/Slice0/Obligations.lean ====
section
/-! DEFINITION. Certificates/Slice0/Obligations.lean: the statements for the provers. -/

open Sys2Proof Sys2Proof.Machine

/-! ## Valuc operations of the C slot (02, 03) -/

/-- R88, R89, Tables 3.5 and 3.7: the scalar operations on two registers, each with its result and its flags. -/
def Obligations.ScalarTwoRegisters : Prop :=
  ∀ (s : State) (a : At) (p : Pred) (sd sa sb : BitVec 4), Ready s a → lawful p →
    let c := s.core a.cl a.core
    let x := Tbl.get 0 c.s sa.toNat
    let y := Tbl.get 0 c.s sb.toNat
    let n := y.toNat % 32
    let sum := x.toInt + y.toInt
    let dif := x.toInt - y.toInt
    let out (v : Int) : Bool := decide (v < -2 ^ 31) || decide (2 ^ 31 - 1 < v)
    let clipped (v : Int) : W32 := BitVec.ofInt 32 (max (-2 ^ 31) (min (2 ^ 31 - 1) v))
    let oldC := c.st.getLsbD 2
    let flags (v : W32) (cf vf sat : Bool) : W32 := flagWord c.st v.msb (v == 0) cf vf sat
    let logic (v : W32) : W32 := flags v oldC false false
    scalarDoes s a p (.add a p sd sa sb) sd (x + y) (flags (x + y) (decide (2 ^ 32 ≤ x.toNat + y.toNat)) (out sum) false) ∧
    scalarDoes s a p (.sub a p sd sa sb) sd (x - y) (flags (x - y) (decide (y.toNat ≤ x.toNat)) (out dif) false) ∧
    scalarDoes s a p (.adds a p sd sa sb) sd (clipped sum) (flags (clipped sum) oldC (out sum) (out sum)) (out sum) ∧
    scalarDoes s a p (.subs a p sd sa sb) sd (clipped dif) (flags (clipped dif) oldC (out dif) (out dif)) (out dif) ∧
    scalarDoes s a p (.andS a p sd sa sb) sd (x &&& y) (logic (x &&& y)) ∧
    scalarDoes s a p (.orS a p sd sa sb) sd (x ||| y) (logic (x ||| y)) ∧
    scalarDoes s a p (.xorS a p sd sa sb) sd (x ^^^ y) (logic (x ^^^ y)) ∧
    scalarDoes s a p (.shl a p sd sa sb) sd (x <<< n)
      (flags (x <<< n) (if n = 0 then oldC else x.getLsbD (32 - n)) false false) ∧
    scalarDoes s a p (.shr a p sd sa sb) sd (BitVec.ofNat 32 (x.toNat / 2 ^ n))
      (flags (BitVec.ofNat 32 (x.toNat / 2 ^ n)) (if n = 0 then oldC else x.getLsbD (n - 1)) false false) ∧
    scalarDoes s a p (.sar a p sd sa sb) sd (BitVec.ofInt 32 (x.toInt / 2 ^ n))
      (flags (BitVec.ofInt 32 (x.toInt / 2 ^ n)) (if n = 0 then oldC else x.getLsbD (n - 1)) false false) ∧
    scalarDoes s a p (.minS a p sd sa sb) sd (BitVec.ofInt 32 (min x.toInt y.toInt))
      (logic (BitVec.ofInt 32 (min x.toInt y.toInt))) ∧
    scalarDoes s a p (.maxS a p sd sa sb) sd (BitVec.ofInt 32 (max x.toInt y.toInt))
      (logic (BitVec.ofInt 32 (max x.toInt y.toInt))) ∧
    compareDoes s a p (.cmp a p sa sb) (flags (x - y) (decide (y.toNat ≤ x.toNat)) (out dif) false) ∧
    scalarDoes s a p (.mull a p sd sa sb) sd (BitVec.ofInt 32 (x.toInt * y.toInt))
      (logic (BitVec.ofInt 32 (x.toInt * y.toInt)))

/-- R89, R100, R101, Tables 3.5 and 3.7: the scalar operations on one register or an immediate. -/
def Obligations.ScalarOneRegister : Prop :=
  ∀ (s : State) (a : At) (p : Pred) (sd sa : BitVec 4) (imm : BitVec 14) (sh : BitVec 5) (half : BitVec 16),
    Ready s a → lawful p →
    let c := s.core a.cl a.core
    let x := Tbl.get 0 c.s sa.toNat
    let n := sh.toNat
    let sum := x.toInt + imm.toInt
    let dif := x.toInt - imm.toInt
    let y : W32 := BitVec.ofInt 32 imm.toInt
    let out (v : Int) : Bool := decide (v < -2 ^ 31) || decide (2 ^ 31 - 1 < v)
    let oldC := c.st.getLsbD 2
    let flags (v : W32) (cf vf : Bool) : W32 := flagWord c.st v.msb (v == 0) cf vf false
    let logic (v : W32) : W32 := flags v oldC false
    let alike := ((List.range 32).takeWhile fun i => x.getLsbD (31 - i) == x.msb).length
    let inRange : Bool := decide (0x40000000 ≤ x.toNat) && decide (x.toNat ≤ 0x7FFFFFFF)
    let i := x.toNat / 2 ^ 22 % 2 ^ 8
    let seed : W32 := if inRange then BitVec.ofNat 32 ((2 ^ 41 + 513 + 2 * i) / (2 * (513 + 2 * i))) else 0x7FFFFFFF
    scalarDoes s a p (.addi a p sd sa imm) sd (BitVec.ofInt 32 sum)
      (flags (BitVec.ofInt 32 sum) (decide (2 ^ 32 ≤ x.toNat + y.toNat)) (out sum)) ∧
    compareDoes s a p (.cmpi a p sa imm) (flags (BitVec.ofInt 32 dif) (decide (y.toNat ≤ x.toNat)) (out dif)) ∧
    scalarDoes s a p (.andi a p sd sa imm) sd (x &&& BitVec.ofNat 32 imm.toNat) (logic (x &&& BitVec.ofNat 32 imm.toNat)) ∧
    scalarDoes s a p (.shli a p sd sa sh) sd (x <<< n)
      (flags (x <<< n) (if n = 0 then oldC else x.getLsbD (32 - n)) false) ∧
    scalarDoes s a p (.shri a p sd sa sh) sd (BitVec.ofNat 32 (x.toNat / 2 ^ n))
      (flags (BitVec.ofNat 32 (x.toNat / 2 ^ n)) (if n = 0 then oldC else x.getLsbD (n - 1)) false) ∧
    scalarDoes s a p (.sari a p sd sa sh) sd (BitVec.ofInt 32 (x.toInt / 2 ^ n))
      (flags (BitVec.ofInt 32 (x.toInt / 2 ^ n)) (if n = 0 then oldC else x.getLsbD (n - 1)) false) ∧
    scalarDoes s a p (.movi a p sd half) sd (BitVec.ofInt 32 half.toInt) c.st ∧
    scalarDoes s a p (.movhi a p sd half) sd
      (BitVec.ofNat 32 (half.toNat * 2 ^ 16 + (Tbl.get 0 c.s sd.toNat).toNat % 2 ^ 16)) c.st ∧
    scalarDoes s a p (.neg a p sd sa) sd (-x) (flags (-x) (x == 0) (x == 0x80000000#32)) ∧
    scalarDoes s a p (.abs a p sd sa) sd (BitVec.ofInt 32 x.toInt.natAbs)
      (flags (BitVec.ofInt 32 x.toInt.natAbs) oldC (x == 0x80000000#32)) ∧
    scalarDoes s a p (.notS a p sd sa) sd (~~~x) (logic (~~~x)) ∧
    scalarDoes s a p (.nrm a p sd sa) sd (BitVec.ofNat 32 (alike - 1)) c.st ∧
    scalarDoes s a p (.rcps a p sd sa) sd seed (flagWord c.st (c.st.getLsbD 0) (c.st.getLsbD 1) oldC (!inRange) false)

/-- R99: one divide step, unsigned and on the divisor's magnitude; 32 of them from a remainder of 0 divide, also by 0; and
the signed divide made of them. -/
def Obligations.DivideStep : Prop :=
  let one (d : Nat) (x : Nat × Nat) : Nat × Nat :=
    let t := 2 * x.1 + x.2 / 2 ^ 31
    if d ≤ t then ((t - d) % 2 ^ 32, (2 * x.2 + 1) % 2 ^ 32) else (t % 2 ^ 32, 2 * x.2 % 2 ^ 32)
  (∀ (s : State) (a : At) (p : Pred) (sqr sq sv : BitVec 4), Ready s a → lawful p →
    let c := s.core a.cl a.core
    let r := Tbl.get 0 c.s sqr.toNat
    let q := Tbl.get 0 c.s sq.toNat
    let v := Tbl.get 0 c.s sv.toNat
    let does (i : Instr) (d : Nat) : Prop :=
      let x := one d (r.toNat, q.toNat)
      exec i s = .next (if enabled c p 0 then
        wentOn s a { c with s := Tbl.put 0 (Tbl.put 0 c.s sqr.toNat (BitVec.ofNat 32 x.1)) sq.toNat (BitVec.ofNat 32 x.2) }
        else wentOn s a c)
    does (.divsU a p sqr sq sv) v.toNat ∧ does (.divsS a p sqr sq sv) v.toInt.natAbs) ∧
  (∀ n d : Nat, n < 2 ^ 32 → d < 2 ^ 32 → (one d)^[32] (0, n) = if d = 0 then (n, 2 ^ 32 - 1) else (n % d, n / d)) ∧
  (∀ a d : W32, d ≠ 0 →
    let x := (one d.toInt.natAbs)^[32] (0, a.toInt.natAbs)
    a.toInt.tdiv d.toInt = (if a.msb = d.msb then (x.2 : Int) else -x.2) ∧
      a.toInt.tmod d.toInt = if a.msb = true then -(x.1 : Int) else x.1)

/-- R92, R98, Tables 3.2 and 3.7: comparisons into a predicate register and the logic of predicate registers, whose new bits are on
their way when the next bundle issues; and the comparison codes and branch conditions, code by code. -/
def Obligations.PredicatesAndConditions : Prop :=
  (∀ (s : State) (a : At) (p : Pred) (pd pa pb : BitVec 2) (cc sa sb : BitVec 4) (imm : BitVec 16), Ready s a → lawful p →
     let c := s.core a.cl a.core
     let x := Tbl.get 0 c.s sa.toNat
     let y := Tbl.get 0 c.s sb.toNat
     let u := Tbl.get 0 c.p pa.toNat
     let v := Tbl.get 0 c.p pb.toNat
     (cc.toNat < 8 → predicateDoes s a p (.cmpp a p pd cc sa sb) pd (if ccHolds cc.toNat x y then 0xFFFF else 0)) ∧
     predicateDoes s a p (.pand a p pd pa pb) pd (u &&& v) ∧ predicateDoes s a p (.por a p pd pa pb) pd (u ||| v) ∧
     predicateDoes s a p (.pxor a p pd pa pb) pd (u ^^^ v) ∧ predicateDoes s a p (.pnot a p pd pa) pd (~~~u) ∧
     predicateDoes s a p (.pseti a p pd imm) pd imm) ∧
  ((∀ x y : W32, (ccHolds 0 x y = true ↔ x = y) ∧ (ccHolds 1 x y = true ↔ x ≠ y) ∧ (ccHolds 2 x y = true ↔ x.toInt < y.toInt) ∧
     (ccHolds 3 x y = true ↔ x.toInt ≤ y.toInt) ∧ (ccHolds 4 x y = true ↔ y.toInt < x.toInt) ∧
     (ccHolds 5 x y = true ↔ y.toInt ≤ x.toInt) ∧ (ccHolds 6 x y = true ↔ x.toNat < y.toNat) ∧
     (ccHolds 7 x y = true ↔ y.toNat ≤ x.toNat)) ∧
   ∀ (st : W32) (n z c v sat : Bool),
     let f := flagWord st n z c v sat
     condHolds 0 f = true ∧ (condHolds 1 f = z) ∧ (condHolds 2 f = !z) ∧ (condHolds 3 f = true ↔ n ≠ v) ∧
     (condHolds 4 f = true ↔ n = v) ∧ (condHolds 5 f = true ↔ z = true ∨ n ≠ v) ∧
     (condHolds 6 f = true ↔ z = false ∧ n = v) ∧ (condHolds 7 f = c) ∧ (condHolds 8 f = !c) ∧
     (condHolds 9 f = true ↔ c = true ∧ z = false) ∧ (condHolds 10 f = true ↔ c = false ∨ z = true) ∧
     (condHolds 11 f = n) ∧ (condHolds 12 f = !n) ∧ (condHolds 13 f = v) ∧ (condHolds 14 f = !v))

/-- MOVR and the register codes (Tables 2.6, 3.4 and 3.7): each code names one register of its width, and what is written is
read back in the bits that the register has, zero- or sign-extended, with no other register changed. DST takes SRC; a
predicate register takes its bits with the distance of a predicate write, and a write of ST leaves IH, and while IH is set a
1 for IE is ignored. -/
def Obligations.MoveRegister : Prop :=
  (∀ (c : Core) (code : Nat) (v : W32), code < 0x3A → code ≠ 0x36 →
     (c.setBase code v).base code =
       (if code < 0x10 ∨ code = 0x39 then v
       else if code < 0x20 then BitVec.ofNat 32 (v.toNat % 2 ^ 18)
       else if code < 0x28 then BitVec.ofInt 32 (BitVec.ofNat 18 v.toNat).toInt
       else if code < 0x34 then BitVec.ofNat 32 (v.toNat % 2 ^ 16)
       else if code < 0x36 then BitVec.ofNat 32 (v.toNat % 2 ^ 17)
       else BitVec.ofNat 32 (v.toNat % 2 ^ 12)) ∧
     (∀ other, other < 0x3B → other ≠ code → (c.setBase code v).base other = c.base other) ∧
     (c.setBase code v).v = c.v ∧ (c.setBase code v).acc = c.acc ∧ (c.setBase code v).pc = c.pc ∧
     (c.setBase code v).loops = c.loops ∧ (c.setBase code v).flights = c.flights) ∧
  (∀ (s : State) (a : At) (p : Pred) (dst src : BitVec 6), Ready s a → lawful p → dst.toNat < 0x3A → src.toNat ≤ 0x3A →
     let c := s.core a.cl a.core
     let v := c.base src.toNat
     (enabled c p 0 = false → exec (.movr a p dst src) s = .next (wentOn s a c)) ∧
     (enabled c p 0 = true →
       (0x30 ≤ dst.toNat → dst.toNat < 0x34 → exec (.movr a p dst src) s = .next (wentOn s a { c with
         flights := (List.range 16).map fun (b : Nat) =>
           ⟨0, .pred, .p (16 * (dst.toNat - 0x30) + b), BitVec.ofNat 72 (b2n (v.getLsbD b))⟩ })) ∧
       (dst.toNat = 0x36 → exec (.movr a p dst src) s = .next (wentOn s a { c with
         st := (v &&& 0xFFFFFF3F#32) ||| (c.st &&& 0x80#32) |||
           (if v.getLsbD 6 && (!c.st.getLsbD 7 || c.st.getLsbD 6) then 0x40#32 else 0#32) })) ∧
       (dst.toNat < 0x30 ∨ (0x34 ≤ dst.toNat ∧ dst.toNat ≠ 0x36) →
         exec (.movr a p dst src) s = .next (wentOn s a (c.setBase dst.toNat v)))))

/-- R92, R93: a branch-class operation puts its turn behind three delay slots: to the target where the condition and the
enable bit hold, else past them (written as a target outside program memory); CALL saves its own address + 4. -/
def Obligations.BranchClass : Prop :=
  ∀ (s : State) (a : At) (p : Pred) (cond sa : BitVec 4) (target : BitVec 12), Ready s a → lawful p → cond ≠ 15 →
    let c := s.core a.cl a.core
    let on := enabled c p 0
    let turn (b : Bool) (t : Turn) : State :=
      wentOn s a { c with turns := [(if b then t else .jump 4096, 3)] }
    exec (.br a p cond target) s = .next (turn (on && condHolds cond.toNat c.st) (.jump target.toNat)) ∧
    exec (.bri a p cond sa) s =
      .next (turn (on && condHolds cond.toNat c.st) (.jump ((Tbl.get 0 c.s sa.toNat).toNat % 2 ^ 12))) ∧
    exec (.call a p target) s = .next (wentOn s a { c with
      turns := [(if on then .jump target.toNat else .jump 4096, 3)], ra := if on then c.pc + 4 else c.ra }) ∧
    exec (.ret a p) s = .next (turn on (.jump c.ra.toNat)) ∧ exec (.rte a p) s = .next (turn on .rte) ∧
    exec (.endTask a p) s = .next (turn on .endTask)

/-- R93, R67, R53: what the delay slots of a branch-class operation do: each issues, the last one takes the turn: a branch
goes to its target, END takes the core to IDLE with its registers kept, and RTE restores ST, lc0, lc1 and the repeat levels
and continues at epc. -/
def Obligations.DelaySlots : Prop :=
  ∀ (s : State) (a : At) (t : Turn) (n : Nat), Issuing s a →
    let c := s.core a.cl a.core
    c.turns = [(t, n + 1)] →
    (1 ≤ n → exec (.slotNop a) s = .next (wentOn s a { c with turns := [(t, n)] })) ∧
    (n = 0 →
      (∀ target, t = .jump target → target < 4096 → exec (.slotNop a) s =
        .next (s.setCore a.cl a.core { passed c with turns := [], pc := BitVec.ofNat 12 target })) ∧
      (t = .jump 4096 → exec (.slotNop a) s = .next (wentOn s a { c with turns := [] })) ∧
      (t = .rte → exec (.slotNop a) s = .next (s.setCore a.cl a.core { passed c with
        turns := [], st := c.est, lc0 := c.shLc0, lc1 := c.shLc1, loops := c.shLoops, pc := c.epc })) ∧
      (t = .endTask → ∃ u, exec (.slotNop a) s = .next u ∧ u.fget (HRT_CORE_STATUS_STATE a.cl a.core) = 1 ∧
        u.core a.cl a.core = { passed c with turns := [], task := none } ∧ u.mem = s.mem ∧
        ∀ off, off ≠ HRT_CORE_STATUS a.cl a.core → off ≠ HRT_CL_STATUS a.cl → off ≠ HRT_CORE_PC a.cl a.core →
          u.rd off = s.rd off))

/-- R57, R95, R72: REP and IREP open a repeat level over the bundles that follow, with the count in lc0; a count of 0, and a
disabled operation, skip the body, and a count above 65,536 raises REPRULE. The loop-back test after the last bundle of a
body: with lc above 1, lc goes down by one and the body starts again, otherwise lc becomes 0 and issue goes on after the
body; without a due test nothing changes. REP_LOOP_BACK makes the test at a core, and touches nothing else. -/
def Obligations.RepeatLevels : Prop :=
  (∀ (s : State) (a : At) (p : Pred) (len cnt : BitVec 10) (byReg : Bool), Ready s a → lawful p →
     (byReg = true → cnt.toNat < 16) →
     let c := s.core a.cl a.core
     let n := len.toNat + 1
     let count := if byReg then (Tbl.get 0 c.s cnt.toNat).toNat else cnt.toNat + 1
     let does (i : Instr) (irep : Bool) : Prop :=
       (enabled c p 0 = false ∨ count = 0 →
         exec i s = .next (s.setCore a.cl a.core { passed c with pc := BitVec.ofNat 12 (c.pc.toNat + 1 + n) })) ∧
       (enabled c p 0 = true → 65536 < count → faultedWith s a i 7 1) ∧
       (enabled c p 0 = true → 1 ≤ count → count ≤ 65536 →
         exec i s = .next (wentOn s a { c with
           loops := [⟨c.pc.toNat + 1, c.pc.toNat + n, irep, 0, true⟩], lc0 := BitVec.ofNat 17 count
           repBuf := [], repOwner := none }))
     does (.rep a p len byReg cnt) false ∧ does (.irep a p len byReg cnt) true) ∧
  (∀ (c : Core) (l : Loop),
     (c.loopDue = false → c.loopBack = c) ∧
     (c.loopDue = true → c.loops = [l] →
       (1 < c.lc0.toNat → c.loopBack = { c with
         loopDue := false, lc0 := c.lc0 - 1, pc := BitVec.ofNat 12 l.start
         loops := [{ l with first := false, issued := if l.irep then 0 else l.issued }] }) ∧
       (c.lc0.toNat ≤ 1 → c.loopBack = { c with loopDue := false, lc0 := 0, loops := [] })) ∧
     (∀ outer, c.loopDue = true → c.loops = [outer, l] →
       (1 < c.lc1.toNat → c.loopBack = { c with
         loopDue := false, lc1 := c.lc1 - 1, pc := BitVec.ofNat 12 l.start
         loops := [outer, { l with first := false, issued := if l.irep then 0 else l.issued }] }) ∧
       (c.lc1.toNat ≤ 1 → c.loopBack = { c with loopDue := false, lc1 := 0, loops := [outer] }))) ∧
  (∀ (s : State) (cl j : Nat), cl < 26 → j < 8 →
     let c := s.core cl j
     let tested (k : Core) : Prop := exec (.repLoopBack cl j) s = .next (s.setCore cl j k)
     let again (l : Loop) : Loop := { l with first := false, issued := if l.irep then 0 else l.issued }
     (c.loopDue = false → tested c) ∧
     (∀ l, c.loopDue = true → c.loops = [l] →
       (1 < c.lc0.toNat → tested { c with
         loopDue := false, lc0 := c.lc0 - 1, pc := BitVec.ofNat 12 l.start, loops := [again l] }) ∧
       (c.lc0.toNat ≤ 1 → tested { c with loopDue := false, lc0 := 0, loops := [] })) ∧
     (∀ outer l, c.loopDue = true → c.loops = [outer, l] →
       (1 < c.lc1.toNat → tested { c with
         loopDue := false, lc1 := c.lc1 - 1, pc := BitVec.ofNat 12 l.start, loops := [outer, again l] }) ∧
       (c.lc1.toNat ≤ 1 → tested { c with loopDue := false, lc1 := 0, loops := [outer] })))

/-- R63, R76, R94: WAITE goes on where a line of its mask is pending, with those lines cleared, else waits; XSIG raises XCORE on the core
that it names; a slot with no operation does nothing. -/
def Obligations.WaitAndSignal : Prop :=
  ∀ (s : State) (a : At) (p : Pred) (mask : BitVec 16) (who : BitVec 3), Ready s a → lawful p → mask ≠ 0 →
    let c := s.core a.cl a.core
    exec (.slotNop a) s = .next (wentOn s a c) ∧
    (enabled c p 0 = false → exec (.waite a p mask) s = .next (wentOn s a c) ∧ exec (.xsig a p who) s = .next (wentOn s a c)) ∧
    (enabled c p 0 = true →
      (c.events &&& mask ≠ 0 → exec (.waite a p mask) s = .next (wentOn s a { c with events := c.events &&& ~~~mask })) ∧
      (c.events &&& mask = 0 → ∃ t, exec (.waite a p mask) s = .next t ∧
        t.fget (HRT_CORE_STATUS_STATE a.cl a.core) = 3 ∧ t.mem = s.mem ∧
        t.core a.cl a.core = { passed c with waitMask := mask, waitPc := c.pc, waitSlot := false }) ∧
      ∃ t, exec (.xsig a p who) s = .next t ∧ t.mem = s.mem ∧
        let d := if who.toNat = a.core then passed c else s.core a.cl who.toNat
        let ev := d.events ||| 0x40#16
        (s.fget (HRT_CORE_STATUS_STATE a.cl who.toNat) ≠ 3 ∨ d.waitMask &&& ev = 0 →
          t.core a.cl who.toNat = { d with events := ev }) ∧
        (s.fget (HRT_CORE_STATUS_STATE a.cl who.toNat) = 3 → d.waitMask &&& ev ≠ 0 →
          t.core a.cl who.toNat = { d with events := ev &&& ~~~d.waitMask } ∧
          t.fget (HRT_CORE_STATUS_STATE a.cl who.toNat) = 2) ∧
        (who.toNat ≠ a.core → t.core a.cl a.core = passed c))

/-- R69, R80, R82, Tables 2.10, 2.14 and 3.12: TRAP raises exception 9, BRK exception 8 where BRK_HALT is 0, and halts the core
where it is 1, raising DEBUG on the other cores; a disabled operation does nothing. A bundle that breaks R82 raises ILLEGAL
with the slot marked: a WAITE with a zero mask, a branch with the reserved condition, a MOVR into ic, a reserved comparison
or permutation, a pointer-only operation with REG non-zero, a load with a reserved register code, and an unpredicated
operation with PN or PS non-zero. -/
def Obligations.TrapBreakAndIllegal : Prop :=
  (∀ (s : State) (a : At) (p : Pred), Ready s a → lawful p →
     let c := s.core a.cl a.core
     (enabled c p 0 = false → exec (.trap a p) s = .next (wentOn s a c) ∧ exec (.brk a p) s = .next (wentOn s a c)) ∧
     (enabled c p 0 = true → faultedWith s a (.trap a p) 9 1 ∧
       (s.on (HRT_CORE_CTRL_BRK_HALT a.cl a.core) = false → faultedWith s a (.brk a p) 8 1) ∧
       (s.on (HRT_CORE_CTRL_BRK_HALT a.cl a.core) = true → ∃ t, exec (.brk a p) s = .next t ∧
         t.fget (HRT_CORE_STATUS_STATE a.cl a.core) = 4 ∧ t.core a.cl a.core = { passed c with heldState := 2 } ∧
         t.mem = s.mem ∧
         ∀ j, j < 8 → j ≠ a.core → s.fget (HRT_CORE_STATUS_STATE a.cl j) ≠ 3 →
           t.core a.cl j = { s.core a.cl j with events := (s.core a.cl j).events ||| 2#16 }))) ∧
  (∀ (s : State) (a : At) (p q : Pred) (bus : Bus) (m : MemF) (r1 r2 r3 r4 : BitVec 4) (pd : BitVec 2) (src : BitVec 6)
     (target : BitVec 12), Ready s a → lawful p → ¬ lawful q →
     let slot : Nat := match bus with
       | .x => 2
       | .y => 4
     faultedWith s a (.waite a p 0) 1 1 ∧ faultedWith s a (.br a p 15 target) 1 1 ∧ faultedWith s a (.bri a p 15 r1) 1 1 ∧
     faultedWith s a (.movr a p 0x3A src) 1 1 ∧
     (8 ≤ r1.toNat → faultedWith s a (.cmpp a p pd r1 r2 r3) 1 1 ∧ faultedWith s a (.vcmp a p pd r1 r2 r3) 1 8 ∧
       faultedWith s a (.vperm a p r2 r3 r4 r1) 1 8) ∧
     (m.reg ≠ 0 → faultedWith s a (.addp a p bus m) 1 slot) ∧ (0x34 ≤ m.reg.toNat → faultedWith s a (.ldW a p bus m) 1 slot) ∧
     (m.reg.toNat % 2 = 1 → faultedWith s a (.stD a p bus m) 1 slot) ∧
     faultedWith s a (.add a q r1 r2 r3) 1 1 ∧ faultedWith s a (.vmov a q r1 r2) 1 8)

/-! ## Valuc operations of the X and Y slots -/

/-- R90, R91, Table 3.6: the pointer after a post-modification: plain addition modulo 2^18 without a buffer, at most one
correction by the length with one, and reverse-carry addition over the bits below the length. -/
def Obligations.PointerSteps : Prop :=
  (∀ (ptr l : Nat) (d : Int), ptr < 2 ^ 18 → 0 < l → l < 2 ^ 16 →
    ∃ size, l ≤ 2 ^ size ∧ (∀ k, l ≤ 2 ^ k → size ≤ k) ∧
      let base : Nat := ptr - ptr % 2 ^ size
      let o : Int := (ptr % 2 ^ size : Nat) + d
      (stepPtr ptr l d : Int) =
        ((base : Int) + (if (l : Int) ≤ o then o - l else if o < 0 then o + l else o)) % 2 ^ 18) ∧
  (∀ (ptr : Nat) (d : Int), ptr < 2 ^ 18 → (stepPtr ptr 0 d : Int) = ((ptr : Int) + d) % 2 ^ 18) ∧
  (∀ (ptr l : Nat) (d : Int), l < 2 → stepReversed ptr l d = ptr) ∧
  (∀ (ptr l : Nat) (d : Int), 2 ≤ l →
    let b := Nat.log2 l
    stepReversed ptr l d / 2 ^ b = ptr / 2 ^ b ∧
    revBits b (stepReversed ptr l d % 2 ^ b) = (revBits b (ptr % 2 ^ b) + revBits b (d % 2 ^ b).toNat) % 2 ^ b)

/-- R48, R81, R96, Tables 3.3 and 3.8: what a load reads, at the address of Table 3.6, goes on its way to its register or to
the enabled elements of a vector register; the pointer steps, also where nothing is enabled. -/
def Obligations.Loads : Prop :=
  ∀ (s : State) (a : At) (p : Pred) (bus : Bus) (m : MemF), Ready s a → lawful p → memOk m = true →
    let c := s.core a.cl a.core
    let adr := (c.address bus m).1
    let c' := stepped c bus m
    let r := m.reg.toNat
    let one : Bool := enabled c p 0
    let any := reachedBy c p ≠ []
    let vec (f : Nat → W32) : State := wentOn s a { c' with
      flights := (reachedBy c p).map fun e => ⟨0, .vload, .v (16 * r + e), (f e).setWidth 72⟩ }
    (r ≤ 0x33 → (one = true → loadable adr 1) → exec (.ldW a p bus m) s =
      .next (wentOn s a { c' with flights := if one then arriving r (busWordAt s a bus adr) else [] })) ∧
    (r ≤ 0x0E → r % 2 = 0 → (one = true → loadable adr 2) → exec (.ldD a p bus m) s =
      .next (wentOn s a { c' with
        flights := if one then arriving r (busWordAt s a bus adr) ++ arriving (r + 1) (busWordAt s a bus (adr + 1)) else [] })) ∧
    (r < 16 →
      ((any → loadable adr 16) → exec (.ldV a p bus m) s = .next (vec fun e => busWordAt s a bus (adr + e))) ∧
      ((any → loadable adr 1) → exec (.ldbW a p bus m) s = .next (vec fun _ => busWordAt s a bus adr)) ∧
      ((any → loadable adr 2) → exec (.ldbD a p bus m) s = .next (vec fun e => busWordAt s a bus (adr + e % 2))))

/-- R48, R81, R86, R90, R96, Tables 3.3 and 3.8: a store writes exactly its enabled words at the address of Table 3.6, and the
pointer steps, also where nothing is enabled; ADDP steps the pointer alone. STR.v extracts each enabled element of an
accumulator with its shift, rounded half up and, with SAT, clipped, and its store is on its way. -/
def Obligations.Stores : Prop :=
  (∀ (s : State) (a : At) (p : Pred) (bus : Bus) (m : MemF), Ready s a → lawful p → memOk m = true →
     s.on MTX_ECC_INJ_ARM = false →
     let c := s.core a.cl a.core
     let adr := (c.address bus m).1
     let c' := stepped c bus m
     let r := m.reg.toNat
     let one : Bool := enabled c p 0
     (r ≤ 0x33 → (one = true → storable adr 1) → exec (.stW a p bus m) s =
       .next (wentOn (storing s (if one then [(byteAt a bus adr, c.base r)] else [])) a c')) ∧
     (r ≤ 0x0E → r % 2 = 0 → (one = true → storable adr 2) → exec (.stD a p bus m) s =
       .next (wentOn (storing s (if one then
         [(byteAt a bus adr, c.base r), (byteAt a bus (adr + 1), c.base (r + 1))] else [])) a c')) ∧
     (r < 16 → (reachedBy c p ≠ [] → storable adr 16) → exec (.stV a p bus m) s =
       .next (wentOn (storing s ((reachedBy c p).map fun e => (byteAt a bus (adr + e), Tbl.get 0 c.v (16 * r + e)))) a c')) ∧
     (m.reg = 0 → m.am ≠ 2 → exec (.addp a p bus m) s = .next (wentOn s a c'))) ∧
  (∀ (s : State) (a : At) (p : Pred) (bus : Bus) (acc : BitVec 2) (sh : BitVec 5) (sat : Bool) (ptr kr : BitVec 3),
     Ready s a → lawful p →
     let c := s.core a.cl a.core
     let m : MemF := ⟨0, ptr, 0, BitVec.ofNat 11 (256 * kr.toNat)⟩
     let adr := (c.address bus m).1
     let d := (31 - sh.toInt).toNat
     let x (e : Nat) : Int := (accInt c acc e + 2 ^ (d - 1)) / 2 ^ d
     let out (e : Nat) : Bool := sat && (decide (x e < -2 ^ 31) || decide (2 ^ 31 - 1 < x e))
     let v (e : Nat) : W32 := BitVec.ofInt 32 (if sat then max (-2 ^ 31) (min (2 ^ 31 - 1) (x e)) else x e)
     (reachedBy c p ≠ [] → storable adr 16) →
     exec (.strV a p bus acc sh sat ptr kr) s = .next (wentOn s a { stepped c bus m with
       flights := ((reachedBy c p).map fun e => ⟨0, .strv, .mem (byteAt a bus (adr + e)), (v e).setWidth 72⟩) ++
         (if (reachedBy c p).any out then [⟨0, .ext, .sat, 0⟩] else []) } ((reachedBy c p).any out)))

/-- R48, R69, R96: an enabled access that is not aligned to its size raises ALIGN, and an aligned one to an address where
nothing is, or a store to the tick descriptor, raises BUS; HRT_CORE_EXC marks the slot. -/
def Obligations.AccessExceptions : Prop :=
  ∀ (s : State) (a : At) (p : Pred) (bus : Bus) (m : MemF), Ready s a → lawful p → memOk m = true →
    let c := s.core a.cl a.core
    let adr := (c.address bus m).1
    let r := m.reg.toNat
    let slot : Nat := match bus with
      | .x => 2
      | .y => 4
    (r < 16 → reachedBy c p ≠ [] →
      (adr % 16 ≠ 0 → faultedWith s a (.ldV a p bus m) 2 slot ∧ faultedWith s a (.stV a p bus m) 2 slot) ∧
      (adr % 16 = 0 → 0xC000 ≤ adr →
        (adr < 0x1FFF0 → faultedWith s a (.ldV a p bus m) 3 slot) ∧
        (adr < 0x20000 → faultedWith s a (.stV a p bus m) 3 slot))) ∧
    (r ≤ 0x33 → enabled c p 0 = true → 0xC000 ≤ adr →
      (adr < 0x1FFF0 → faultedWith s a (.ldW a p bus m) 3 slot) ∧
      (adr < 0x20000 → faultedWith s a (.stW a p bus m) 3 slot)) ∧
    (r ≤ 0x0E → r % 2 = 0 → enabled c p 0 = true → adr % 2 = 1 →
      faultedWith s a (.ldD a p bus m) 2 slot ∧ faultedWith s a (.stD a p bus m) 2 slot)

/-! ## Valuc operations of the V slot -/

/-- R51, R85, R87, R97: the multiply class, in which an accumulator element becomes, or goes up or down by, the exact product,
real, complex or with the conjugate, modulo 2^72 with the overflow marked; and ACCLD, ACCZ, ACCADD and BFLY, which fills the
top and the bottom accumulator of its pair and never overflows. -/
def Obligations.Accumulators : Prop :=
  (∀ (s : State) (a : At) (p : Pred) (acc : BitVec 2) (va vb : BitVec 4), Ready s a → lawful p →
     let c := s.core a.cl a.core
     let x := vInt c va
     let y := vInt c vb
     let old := accInt c acc
     let does := accumulatorDoes s a p
     let r := acc.toNat
     does (.mul a p acc va vb) r (fun e => x e * y e) ∧ does (.mac a p acc va vb) r (fun e => old e + x e * y e) ∧
     does (.msu a p acc va vb) r (fun e => old e - x e * y e) ∧ does (.cmul a p acc va vb) r (complexProduct x y) ∧
     does (.cmac a p acc va vb) r (fun e => old e + complexProduct x y e) ∧
     does (.cmsu a p acc va vb) r (fun e => old e - complexProduct x y e) ∧
     does (.cmulj a p acc va vb) r (conjProduct x y) ∧ does (.cmacj a p acc va vb) r (fun e => old e + conjProduct x y e) ∧
     does (.cmsuj a p acc va vb) r (fun e => old e - conjProduct x y e)) ∧
  (∀ (s : State) (a : At) (p : Pred) (acc from' : BitVec 2) (va vb vw : BitVec 4) (sh : BitVec 5) (pair : Bool),
     Ready s a → lawful p →
     let c := s.core a.cl a.core
     let t := complexProduct (vInt c vw) (vInt c vb)
     let top := if pair then 2 else 0
     let out (b : Nat) (f : Nat → Int) : List Flight :=
       (reachedBy c p).map fun e => ⟨0, .mac, .acc (16 * b + e), BitVec.ofInt 72 (f e)⟩
     accumulatorDoes s a p (.accld a p acc va sh) acc.toNat (fun e => vInt c va e * 2 ^ (31 - sh.toInt).toNat) ∧
     accumulatorDoes s a p (.accz a p acc) acc.toNat (fun _ => 0) ∧
     accumulatorDoes s a p (.accadd a p acc from') acc.toNat (fun e => accInt c acc e + accInt c from' e) ∧
     exec (.bfly a p pair va vb vw) s = .next (wentOn s a { c with
       flights := out top (fun e => vInt c va e * 2 ^ 31 + t e) ++ out (top + 1) (fun e => vInt c va e * 2 ^ 31 - t e) }))

/-- R88, Table 3.9: vector arithmetic, clipped with S = 1 and modulo 2^32 otherwise. -/
def Obligations.VectorArithmetic : Prop :=
  ∀ (s : State) (a : At) (p : Pred) (vd va vb : BitVec 4) (sat : Bool) (imm : BitVec 5), Ready s a → lawful p →
    let c := s.core a.cl a.core
    let x := vInt c va
    let y := vInt c vb
    let n := imm.toNat
    let does (i : Instr) (clipped : Bool) (f : Nat → Int) : Prop := vectorDoes s a p i .valu vd clipped f
    does (.vadd a p vd va vb sat) sat (fun e => x e + y e) ∧ does (.vsub a p vd va vb sat) sat (fun e => x e - y e) ∧
    does (.vneg a p vd va sat) sat (fun e => -x e) ∧ does (.vabs a p vd va sat) sat (fun e => (x e).natAbs) ∧
    does (.vmin a p vd va vb) false (fun e => min (x e) (y e)) ∧ does (.vmax a p vd va vb) false (fun e => max (x e) (y e)) ∧
    does (.vshl a p vd va sat imm) sat (fun e => x e * 2 ^ n) ∧
    does (.vsar a p vd va sat imm) false (fun e =>
      if sat = true ∧ n ≠ 0 then (x e + 2 ^ (n - 1)) / 2 ^ n else x e / 2 ^ n) ∧
    does (.vshr a p vd va imm) false (fun e => ((Tbl.get 0 c.v (16 * va.toNat + e)).toNat / 2 ^ n : Nat))

/-- Tables 3.9 and 3.10: the bitwise, moving, selecting, permuting and comparing operations of the V slot. -/
def Obligations.VectorMoves : Prop :=
  ∀ (s : State) (a : At) (p : Pred) (vd va vb el cc : BitVec 4) (ps pd : BitVec 2), Ready s a → lawful p →
    let c := s.core a.cl a.core
    let w (r : BitVec 4) (e : Nat) : W32 := Tbl.get 0 c.v (16 * r.toNat + e)
    let does (i : Instr) (f : Nat → W32) : Prop := vectorDoes s a p i .valu vd false fun e => (f e).toInt
    let perm (pat : BitVec 4) (f : Nat → W32) : Prop := does (.vperm a p vd va vb pat) f
    does (.vand a p vd va vb) (fun e => w va e &&& w vb e) ∧ does (.vor a p vd va vb) (fun e => w va e ||| w vb e) ∧
    does (.vxor a p vd va vb) (fun e => w va e ^^^ w vb e) ∧ does (.vmov a p vd va) (w va) ∧
    does (.vsel a p vd va vb ps) (fun e => if (Tbl.get 0 c.p ps.toNat).getLsbD e then w va e else w vb e) ∧
    does (.vbrd a p vd va) (fun _ => Tbl.get 0 c.s va.toNat) ∧
    perm 0 (fun e => if e % 2 = 0 then w va (e + 1) else w va (e - 1)) ∧
    perm 1 (fun e => if e % 2 = 0 then w va (e / 2) else w vb (e / 2)) ∧
    perm 2 (fun e => if e % 2 = 0 then w va (8 + e / 2) else w vb (8 + e / 2)) ∧
    perm 3 (fun e => if e < 8 then w va (2 * e) else w vb (2 * (e - 8))) ∧
    perm 4 (fun e => if e < 8 then w va (2 * e + 1) else w vb (2 * (e - 8) + 1)) ∧
    perm 5 (fun e => w va ((e + 1) % 16)) ∧
    perm 6 (fun e => if e / 2 % 2 = 0 then w va (e / 4 * 2 + e % 2) else w vb (e / 4 * 2 + e % 2)) ∧
    perm 7 (fun e => if e / 2 % 2 = 0 then w va (8 + e / 4 * 2 + e % 2) else w vb (8 + e / 4 * 2 + e % 2)) ∧
    exec (.vget a p vd va el) s = .next (wentOn s a { c with
      flights := if enabled c p 0 then [⟨0, .vget, .reg vd.toNat, (w va el.toNat).setWidth 72⟩] else [] }) ∧
    (cc.toNat < 8 → exec (.vcmp a p pd cc va vb) s = .next (wentOn s a { c with
      flights := (reachedBy c p).map fun e =>
        ⟨0, .vcmp, .p (16 * pd.toNat + e), BitVec.ofNat 72 (b2n (ccHolds cc.toNat (w va e) (w vb e)))⟩ }))

/-- R55, R86, R87, R98, Tables 2.8 and 3.11: extraction rounds half up and clips where SAT is set, and ACCLD followed by an
extraction with the same shift from -9 to 15 gives the word back; a result on its way is seen by a consumer that many bundles
later, and not before. -/
def Obligations.ExtractionAndDistances : Prop :=
  ((∀ (s : State) (a : At) (p : Pred) (vd : BitVec 4) (acc : BitVec 2) (sh : BitVec 5) (sat : Bool), Ready s a → lawful p →
     let d := (31 - sh.toInt).toNat
     vectorDoes s a p (.ext a p vd acc sh sat) .ext vd sat
       fun e => (accInt (s.core a.cl a.core) acc e + 2 ^ (d - 1)) / 2 ^ d) ∧
   ∀ (w : W32) (sh : BitVec 5) (sat : Bool), -9 ≤ sh.toInt →
     extractWord (BitVec.ofInt 72 (w.toInt * 2 ^ (31 - sh.toInt).toNat)) sh.toInt sat = w) ∧
  (∀ (c : Core) (f : Flight) (r : Reader), c.flights = [f] →
     (c.inFlight r f.dst = if distance f.cls r ≤ f.age then some f.val else none) ∧
     distance .pred .pd = 2 ∧ distance .load .c = 4 ∧ distance .load .v = 2 ∧ distance .vload .v = 2 ∧
     distance .valu .v = 1 ∧ distance .valu .c = 4 ∧ distance .mac .mac = 1 ∧ distance .mac .accx = 2 ∧
     distance .ext .v = 2 ∧ distance .ext .c = 5 ∧ distance .vget .c = 4 ∧ distance .vcmp .br = 3 ∧ distance .vcmp .pd = 5)

/-! ## Host commands (01, 04, 05, 06, 07, 08, 09, 12, 13) -/

/-- R25 to R29, R334, R339 to R341, R343: when a command takes effect and what it completes with, as NOP shows it. At the instant of a tick
start it is scheduled at once; it completes at its sample, and is held until then. At any other instant it waits unscheduled. The doorbell
block is fetched by DOORBELL_FETCH and by NUDGE alike, and the commands that the ring holds are taken in. -/
def Obligations.CommandTiming : Prop :=
  (∀ (s : State) (h : Hdr), Serving s →
    let x := h.execAt.toNat
    let u := noHeld s
    let waits (k : Held) : State := { s.fset SCH_STATUS_PEND_CMDS 1 with sch := { s.sch with held := [k] } }
    exec (.hostNop h) s = .next (
      if h.execAt = asap then answered u h 0 0 (some s.n)
      else if s.nValid = false then answered u h 4 0 none
      else if s.n + 2 ^ 31 < x then answered u h 2 0 none
      else if x < s.n then
        (if h.late = true then answered u h 1 0 (some s.n) else answered u h 1 0 none 0xFF).count (word SCH_LATE_CNT) 1
      else if x = s.n then answered u h 0 0 (some x)
      else if x < s.n + s.tlen then waits { hdr := h, op := .nop, nx := x, sched := true, planned := some {} }
      else waits { hdr := h, op := .nop, nx := x, sched := true })) ∧
  (∀ (s : State) (h : Hdr), s.sch.held.length < 4096 → h.execAt = asap ∨ s.nValid = true →
    s.running = false ∨ powerState s ≠ 0 ∨ s.tmb.c ≠ s.sch.ck ∨ s.sch.ended = true ∨ s.sch.outDone = true →
    exec (.hostNop h) s = .next { s.fset SCH_STATUS_PEND_CMDS (s.sch.held.length + 1) with
      sch := { s.sch with held := s.sch.held ++ [{ hdr := h, op := .nop, nx := h.execAt.toNat }] } }) ∧
  (∀ (s : State) (h : Hdr), 4096 ≤ s.sch.held.length → exec (.hostNop h) s = .next s) ∧
  (∀ (s : State) (off : Nat) (v : W32), off < 2 ^ 16 →
    let fetch (t : State) : Prop := exec .doorbellFetch s = .next t ∧ exec (.nudge off v) s = .next t
    let db (i : Nat) : W32 := Memory.rd32 s.hostMem (s.get64 HIF_DB_ADDR + i)
    let fetched : Prop := hifRun s = true ∧ s.on TWN_CFG_EN = false ∧ s.hostBad (s.get64 HIF_DB_ADDR) 64 = false ∧
      ringCount (db 0) s.hif.repHead ≤ ringSize s rCmd
    (hifRun s = false → fetch s) ∧
    (fetched → db 0 = s.hif.cmdHead →
      ∃ t, fetch t ∧ t.hif = { s.hif with
          cmdTail := db 0, cplHead := db 4, evtHead := db 8, mtrHead := db 12, logHead := db 16, tailOk := true, dmaFails := 0
          stallRun := 0 } ∧
        t.on HIF_STATUS_STALL = false ∧ regsBut s t [HIF_STATUS_STALL, HIF_STATUS_STALL_WHY] ∧
        t = { s with regs := t.regs, hif := t.hif }) ∧
    (fetched → db 0 = s.hif.cmdHead + 1 → 1 ≤ ringSize s rCmd →
      intakeStop { s with hif := { s.hif with tailOk := true, cplHead := db 4 } } none = 0 →
      let i := s.hif.cmdHead
      let e := ringBase s rCmd + 64 * (i.toNat % ringSize s rCmd)
      s.hostBad e 64 = false → (∀ j < 64, Memory.rd s.hostMem (e + j) = if 8 ≤ j ∧ j < 16 then 0xFF else 0) →
      ∃ t, fetch t ∧ t.hif.cmdHead = i + 1 ∧ t.hif.cpls = s.hif.cpls ∧ t.sch.held = s.sch.held ++
        [{ hdr := { idx := i, tag := 0, execAt := asap, late := false, irq := false }, op := .nop, nx := asap.toNat }]))

/-- R343: a code that no table defines, a count out of its range, or an EXEC_AT in a command applied when taken in makes
the command UNKNOWN; nothing else changes. -/
def Obligations.UnknownCommands : Prop :=
  ∀ (s : State) (h : Hdr) (a b c : Byte) (x y : BitVec 16) (v w : W32) (q : W64), Serving s →
    let unknown (i : Instr) : Prop := exec i s = .next (answered (noHeld s) h 8 0 none)
    (3 < a.toNat → unknown (.setTick h a)) ∧
    (y = 0 ∨ 8192 < y.toNat → unknown (.slotCfg h x y q)) ∧
    (1 < b.toNat → unknown (.swapProgram h a b)) ∧
    unknown (.paramSwap h a 0) ∧
    (3 < a.toNat ∨ 1 < b.toNat → unknown (.mixWrite h a b v w q)) ∧
    (1 < a.toNat ∨ 1 < b.toNat ∨ 1 < c.toNat ∨ 2 ^ 20 < w.toNat → unknown (.mixDamp h a v x b c w)) ∧
    (1 < c.toNat → unknown (.portMute h a b c)) ∧
    (1 < a.toNat → unknown (.decFreeze h x a) ∧ unknown (.streamWrite h a x q) ∧ unknown (.streamStart h a x) ∧
      unknown (.streamStop h a x)) ∧
    (1 < a.toNat ∨ 1 < b.toNat → unknown (.streamStats h a b x y q)) ∧
    (h.execAt ≠ asap → unknown (.loadImage h a q w) ∧ unknown (.discardImage h a) ∧ unknown (.paramWrite h a b v w q) ∧
      unknown (.mixWrite h a b v w q) ∧ unknown (.flueClear h a) ∧ unknown (.streamWrite h a x q) ∧
      unknown (.streamStats h a b x y q))

/-- R34, R36: SET_TICK executed as soon as possible. -/
def Obligations.TickLength : Prop :=
  ∀ (s : State) (h : Hdr) (code : Byte), Serving s → h.execAt = asap → code.toNat ≤ 3 →
    let c := code.toNat
    let t := 4 * 2 ^ c
    let big := max s.tlen t
    let seam := big * ((s.n + big - 1) / big)
    let bars (cl : Nat) : Prop := cl < 26 ∧ 2 ≤ s.imgState cl ∧ s.imgState cl ≤ 5 ∧
      ∃ im, (s.cluster cl).image = some im ∧ im.tMask.getLsbD c = false
    let frame (u : State) : Prop := regsBut s u ([SCH_STATUS_PEND_CMDS, SCH_STATUS_TICK_CHG_PEND, SCH_STATUS_TICK_ACT,
      SCH_TICK_CFG_TICK_LEN] ++ pairWords SCH_SEAM_N ++ pairWords SCH_K)
    ((∃ cl, bars cl) → exec (.setTick h code) s = .next (answered (noHeld s) h 5 0 none)) ∧
    ((¬ ∃ cl, bars cl) → seam = s.n →
      ∃ u, exec (.setTick h code) s = .next u ∧ u.tlen = t ∧ u.fget SCH_TICK_CFG_TICK_LEN = c ∧ u.k = s.n / t ∧
        u.get64 SCH_SEAM_N = s.n ∧ u.fget SCH_STATUS_TICK_CHG_PEND = 0 ∧ u.fget SCH_STATUS_PEND_CMDS = 0 ∧ frame u ∧
        u.wbuf = s.wbuf ∧ u.sch.oldT = some s.tlen ∧
        u = { answered s h 0 0 (some s.n) with
          regs := u.regs, sch := { s.sch with oldT := u.sch.oldT, bufOff := u.sch.bufOff } }) ∧
    ((¬ ∃ cl, bars cl) → seam ≠ s.n →
      ∃ u, exec (.setTick h code) s = .next u ∧ u.tlen = s.tlen ∧ u.k = s.k ∧ u.get64 SCH_SEAM_N = seam % 2 ^ 64 ∧
        u.fget SCH_STATUS_TICK_CHG_PEND = 1 ∧ u.fget SCH_STATUS_PEND_CMDS = 1 ∧ frame u ∧
        u = { s with regs := u.regs, sch := { s.sch with held := [{ hdr := h, op := .setTick code, nx := seam, sched := true }] } })

/-- R30, R33, R343, R462: SLOT_CFG executed as soon as possible. -/
def Obligations.SlotRouting : Prop :=
  ∀ (s : State) (h : Hdr) (first count : BitVec 16) (src : W64), Serving s → h.execAt = asap →
    1 ≤ count.toNat → count.toNat ≤ 8192 →
    let i := Instr.slotCfg h first count src
    let slots := first.toNat + count.toNat
    let w (j : Nat) : W32 := Memory.rd32 s.hostMem (src.toNat + 4 * j)
    let old (j : Nat) : W32 := s.rd (SCH_SLOT_CFG (first.toNat + j))
    (8192 < slots → exec i s = .next (answered (noHeld s) h 5 0 none)) ∧
    (slots ≤ 8192 → s.hostBad src.toNat (4 * count.toNat) = true →
      exec i s = .next (answered (hostFail (noHeld s)) h 9 0 none)) ∧
    (slots ≤ 8192 → s.hostBad src.toNat (4 * count.toNat) = false →
      ∃ t, exec i s = .next t ∧
        (∀ j < count.toNat, t.rd (SCH_SLOT_CFG (first.toNat + j)) = (old j &&& 0xF000FFF0#32) ||| (w j &&& 0x0FFF000F#32)) ∧
        (∀ j, first.toNat ≤ j → j < slots → (w (j - first.toNat)).toNat % 4 ≠ (s.rd (SCH_SLOT_CFG j)).toNat % 4 →
          t.slotLive j = false) ∧
        (∀ j < 8192, j < first.toNat ∨ slots ≤ j → t.rd (SCH_SLOT_CFG j) = s.rd (SCH_SLOT_CFG j)) ∧ t.mem = s.mem ∧
        (s.on MIX_PATCH_CFG_EN = false →
          (∀ off, off < SCH_SLOT_CFG first.toNat ∨ SCH_SLOT_CFG slots ≤ off → off ≠ SCH_STATUS → t.rd off = s.rd off) ∧
          t = { answered s h 0 0 (some s.n) with regs := t.regs, sch := { s.sch with domNew := t.sch.domNew } }))

/-- R105, R116, R119: images come into a cluster, and leave it. -/
def Obligations.ImagesComeAndGo : Prop :=
  ∀ (s : State) (h : Hdr) (hearth : Byte) (addr : W64) (len : W32), Serving s → h.execAt = asap →
    let x := hearth.toNat
    let a := addr.toNat
    let load := Instr.loadImage h hearth addr len
    let no (i : Instr) (st : Nat) (ap : Option Nat) : Prop := exec i s = .next (answered (noHeld s) h st 0 ap)
    let empty (t : State) (c : Nat) : Prop :=
      t.fget (HRT_IMG_STATE_T_MASK c) = 0 ∧ t.rd (HRT_IMG_ID c) = 0 ∧ (t.cluster c).image = none ∧
      ∀ b, clusterBase c ≤ b → b < clusterBase (c + 1) → Memory.rd t.mem b = 0
    let back (t : State) (c : Nat) : Prop := t.role c = if s.role c = roleHearth then roleHearth else roleEmber
    (23 < x → exec load s = .next (answered (noHeld s) h 6 0 none) ∧ no (.unloadProgram h hearth) 6 none ∧
      no (.discardImage h hearth) 6 none) ∧
    (x ≤ 23 → placeFor s x = none → no load 5 none) ∧
    (x ≤ 23 → s.stager x = none → no (.discardImage h hearth) 0 none) ∧
    (x ≤ 23 → s.carrier x = none → no (.unloadProgram h hearth) 0 none) ∧
    (∀ c, x ≤ 23 → placeFor s x = some c → s.hostBad a len.toNat = true →
      exec load s = .next (answered (noHeld (hostFail s)) h 9 0 none)) ∧
    (∀ c, x ≤ 23 → placeFor s x = some c → s.hostBad a len.toNat = false → rejectReason s a len.toNat x ≠ 0 →
      ∃ t, exec load s = .next t ∧ t.imgState c = 6 ∧ t.fget (HRT_IMG_STATE_REJECT c) = rejectReason s a len.toNat x ∧
        empty t c ∧ back t c ∧ t.hif.cpls = s.hif.cpls ++ [⟨h, 6, rejectReason s a len.toNat x, false, 0, 0⟩]) ∧
    (∀ c, x ≤ 23 → placeFor s x = some c → s.hostBad a len.toNat = false → rejectReason s a len.toNat x = 0 →
      ∃ t, exec load s = .next t ∧ t.imgState c = 2 ∧ t.fget (HRT_IMG_STATE_LH c) = x ∧
        t.fget (HRT_IMG_STATE_T_MASK c) = (readImage s a).tMask.toNat ∧ t.rd (HRT_IMG_ID c) = (readImage s a).id ∧
        (t.cluster c).image = some (readImage s a) ∧
        t.role c = (if s.role c = roleHearth then roleHearth else roleStaging) ∧
        (∀ b, b < clusterBase 0 ∨ clusterBase 26 ≤ b → Memory.rd t.mem b = Memory.rd s.mem b) ∧
        t.hif.cpls = s.hif.cpls ++ [⟨h, 0, 0, true, 0, BitVec.ofNat 32 s.n⟩]) ∧
    (∀ c, x ≤ 23 → s.stager x = some c →
      ∃ t, exec (.discardImage h hearth) s = .next t ∧ t.imgState c = 0 ∧ empty t c ∧ back t c ∧ t.sch.held = [] ∧
        t.hif.cpls = s.hif.cpls ++ [⟨h, 0, 0, true, 0, BitVec.ofNat 32 s.n⟩]) ∧
    (∀ c, x ≤ 23 → s.carrier x = some c → s.runs c = true →
      ∃ t, exec (.unloadProgram h hearth) s = .next t ∧ t.imgState c = 0 ∧ empty t c ∧ t.role c = roleHearth ∧
        (∀ e < 26, s.role e = roleEmber → s.lhOf e = x → t.lhOf e = 0x1F ∧ (t.cluster e).image = none) ∧
        (∀ slot < 8192, s.fget (SCH_SLOT_CFG_PRODUCER slot) = 0xE00 + x → t.slotLive slot = false) ∧
        (∀ b, b < clusterBase c ∨ clusterBase (c + 1) ≤ b → Memory.rd t.mem b = Memory.rd s.mem b) ∧
        t.hif.cpls = s.hif.cpls ++ [⟨h, 0, 0, true, 0, BitVec.ofNat 32 s.n⟩])

/-- R113 to R115, R117, R118: a staged program takes over at a tick boundary; parameters are written to the bank that does
not act, and banks swap. -/
def Obligations.ProgramsSwap : Prop :=
  ∀ (s : State) (h : Hdr) (hearth mode block : Byte) (mask : BitVec 16) (ofs count : W32) (src : W64), Serving s →
    h.execAt = asap →
    let x := hearth.toNat
    let swap := Instr.swapProgram h hearth mode
    let write := Instr.paramWrite h hearth block ofs count src
    let pswap := Instr.paramSwap h hearth mask
    let no (i : Instr) (st : Nat) : Prop := exec i s = .next (answered (noHeld s) h st 0 none)
    let okAt (t : State) : Prop := t.hif.cpls = s.hif.cpls ++ [⟨h, 0, 0, true, 0, BitVec.ofNat 32 s.n⟩]
    (23 < x → (mode.toNat ≤ 1 → no swap 6) ∧ no write 6 ∧ (mask ≠ 0 → no pswap 6)) ∧
    (x ≤ 23 → mode.toNat ≤ 1 → s.stager x = none → no swap 7) ∧
    (∀ c, x ≤ 23 → s.stager x = some c → mode = 0 → s.runner x = none → no swap 5) ∧
    (∀ c r im, x ≤ 23 → s.stager x = some c → mode = 0 → s.runner x = some r → c ≠ r → (s.cluster c).image = some im →
      s.n = s.k * s.tlen → s.on MTX_ECC_INJ_ARM = false →
      (∀ y ∈ im.carries, y.core < 8 ∧ y.bus < 3 ∧ y.start + y.words ≤ if y.bus = 2 then 0x20000 else 0xC000) →
      let at' (u : Nat) (y : Carry) : Nat := if y.bus = 0 then xByte u y.core y.start
        else if y.bus = 1 then xByte u y.core y.start + 0x30000 else sharedByte u (0x20000 + y.start)
      ∃ t, exec swap s = .next t ∧ t.imgState c = 3 ∧ t.fget SCH_STATUS_PEND_CMDS = 1 ∧
        (∀ y ∈ im.carries, ∀ b < 4 * y.words, Memory.rd t.mem (at' c y + b) = Memory.rd s.mem (at' r y + b)) ∧
        (∀ b, b < clusterBase c ∨ clusterBase (c + 1) ≤ b → Memory.rd t.mem b = Memory.rd s.mem b) ∧
        regsBut s t [SCH_STATUS_PEND_CMDS, HRT_IMG_STATE_STATE c] ∧ t = { s with
          regs := t.regs, mem := t.mem, mtx := t.mtx
          sch := { s.sch with
            held := [{ hdr := h, op := .swapProgram hearth mode, nx := s.n + 4 * s.tlen, sched := true }] } }) ∧
    (∀ c im, c < 26 → x ≤ 23 → s.stager x = some c → mode = 1 → (s.cluster c).image = some im →
      ∃ t, exec swap s = .next t ∧ okAt t ∧ t.imgState c = 5 ∧ t.role c = roleHearth ∧ t.lhOf c = x ∧
        (t.cluster c).fresh = true ∧ (t.cluster c).initFlag = true ∧
        (∃ jm, (t.cluster c).image = some jm ∧ jm.id = im.id ∧ jm.tasks = im.tasks ∧ jm.params.all (!·.activeB) = true) ∧
        (∀ o, s.role c ≠ roleHearth → s.runner x = some o → o ≠ c →
          t.role o = roleEmber ∧ t.lhOf o = 0x1F ∧ t.fget (EMB_MAP_EID o) = s.fget (EMB_MAP_EID c) ∧ t.imgState o = 0 ∧
          o ∈ t.pwr.zeroing ∧ t.on (HRT_CL_STATUS_MEM_INIT o) = true ∧ ∀ j < 8, t.coreState o j = 0)) ∧
    (x ≤ 23 → s.runner x = none → no write 5 ∧ (mask ≠ 0 → no pswap 5)) ∧
    (∀ c im p, x ≤ 23 → s.runner x = some c → (s.cluster c).image = some im → paramOf im block.toNat = some p →
      0x20000 ≤ min p.bankA p.bankB → max p.bankA p.bankB + p.words ≤ 0x40000 →
      (p.words < ofs.toNat + count.toNat → no write 5) ∧
      (ofs.toNat + count.toNat ≤ p.words → s.hostBad src.toNat (4 * count.toNat) = false → s.on MTX_ECC_INJ_ARM = false →
        ∃ t, exec write s = .next t ∧ okAt t ∧
          (∀ b < 4 * count.toNat, Memory.rd t.mem (sharedByte c ((if p.activeB = true then p.bankA else p.bankB) + ofs.toNat) + b) =
            Memory.rd s.hostMem (src.toNat + b)) ∧
          (∀ b, b < clusterBase 0 ∨ clusterBase 26 ≤ b → Memory.rd t.mem b = Memory.rd s.mem b) ∧
          regsBut s t [SCH_STATUS_PEND_CMDS])) ∧
    (∀ c im, x ≤ 23 → mask ≠ 0 → s.runner x = some c → (s.cluster c).image = some im →
      (∃ b < 16, mask.getLsbD b = true ∧ ∀ q ∈ im.params, q.block ≠ b) → no pswap 5) ∧
    (∀ c im, x ≤ 23 → mask ≠ 0 → s.runner x = some c → (s.cluster c).image = some im →
      (∀ b < 16, mask.getLsbD b = true → ∃ q ∈ im.params, q.block = b) →
      ∃ t jm, exec pswap s = .next t ∧ okAt t ∧ (t.cluster c).image = some jm ∧ (t.cluster c).pswap = true ∧
        jm.params = im.params.map (fun p => { p with activeB := p.activeB != mask.getLsbD p.block }))

/-- R142 to R147, Tables 5.4 to 5.9: the shadow bank is written, a swap is scheduled two ticks on, a gain is set. -/
def Obligations.MixCommands : Prop :=
  ∀ (s : State) (h : Hdr) (region flags target inv shape : Byte) (first count index len : W32) (gain : BitVec 16) (src : W64),
    Serving s → h.execAt = asap → region.toNat ≤ 3 → flags.toNat ≤ 1 → target.toNat ≤ 1 → inv.toNat ≤ 1 → shape.toNat ≤ 1 →
    len.toNat ≤ 2 ^ 20 →
    let b : Nat := if s.on MIX_STATUS_BANK = true then 1 else 0
    let entry : Nat := if region = 1 then 16 else if region = 2 then 20 else 4
    let entries : Nat := if region = 0 then 262144 else if region = 1 then 4096 else if region = 2 then 16384 else 2048
    let base : Nat := if region = 0 then 0x2C00000000 + 0x100000 * (1 - b) else if region = 1 then 0x2C00200000 + 0x10000 * (1 - b)
      else if region = 2 then 0x2C00220000 + 0x50000 * (1 - b) else 0x2C002C0000 + 0x2000 * (1 - b)
    let write := Instr.mixWrite h region flags first count src
    let no (i : Instr) (st : Nat) : Prop := exec i s = .next (answered (noHeld s) h st 0 none)
    let pend := s.on MIX_STATUS_SWAP_PEND
    (pend = true → no write 5 ∧ no (.mixSwap h) 5) ∧
    (entries < first.toNat + count.toNat → no write 5) ∧
    (pend = false → first.toNat + count.toNat ≤ entries → s.hostBad src.toNat (count.toNat * entry) = true →
      exec write s = .next (answered (noHeld (hostFail s)) h 9 0 none)) ∧
    (pend = false → first.toNat + count.toNat ≤ entries → s.hostBad src.toNat (count.toNat * entry) = false →
      exec write s = .next (answered (noHeld (storeBytes s (base + first.toNat * entry)
        (Memory.rdN s.hostMem src.toNat (count.toNat * entry)))) h 0 0 (some s.n))) ∧
    (pend = false → ∃ t, exec (.mixSwap h) s = .next t ∧ t.fget MIX_STATUS_SWAP_PEND = 1 ∧ t.fget MIX_STATUS_VALIDATING = 1 ∧
      t.fget SCH_STATUS_PEND_CMDS = 1 ∧ regsBut s t [MIX_STATUS_SWAP_PEND, MIX_STATUS_VALIDATING, SCH_STATUS_PEND_CMDS] ∧
      t = { s with
        regs := t.regs, mix := { s.mix with verdict := none }
        sch := { s.sch with held := [{ hdr := h, op := .mixSwap, nx := s.n + 2 * s.tlen, sched := true }] } }) ∧
    ((if target = 0 then 262144 else 4096) ≤ index.toNat → 
      exec (.mixDamp h target index gain inv shape len) s = .next (answered (noHeld s) h 6 0 none)) ∧
    (index.toNat < (if target = 0 then 262144 else 4096) →
      let x := 0x2C00000000 + 0x100000 * b + 4 * index.toNat
      let y := 0x2C00200000 + 0x10000 * b + 16 * index.toNat
      let wx : W32 := BitVec.ofNat 32 (putBits (putBits (tblWord s x) 13 1 inv.toNat) 16 16 gain.toNat)
      let u := noHeld s
      let u := if target = 0 then store32 u x wx else
        store32 (store32 u y (BitVec.ofNat 32 (putBits (tblWord u y) 16 16 gain.toNat))) (y + 4)
          (BitVec.ofNat 32 (putBits (tblWord (store32 u y (BitVec.ofNat 32 (putBits (tblWord u y) 16 16 gain.toNat))) (y + 4))
            18 1 inv.toNat))
      let key := if target = 0 then index.toNat else 262144 + index.toNat
      let u := { u with mix := { u.mix with gainAt := u.mix.gainAt ++ [(key, s.n, len.toNat, shape == 1)] } }
      let g : Int := if target = 0 then signedGain gain.toNat (inv == 1) else busTarget u index.toNat
      let moves : Bool := (target != 0 || (Tbl.find s.mix.homes index.toNat).isSome) &&
        ((s.damper key).target != g || (s.damper key).ramp.isSome)
      exec (.mixDamp h target index gain inv shape len) s = .next (answered
        (if moves then startRamp u key g len.toNat (shape == 1) s.n else u) h 0 0 (some s.n)))

/-- R156, R171 to R174, R179, R192, Table 6.1: the use that a mode makes of a port's balls, and the commands of ports and chains,
executed as soon as possible. -/
def Obligations.PortCommands : Prop :=
  (∀ (s : State) (p b : Nat),
    let use := ballUse s p b
    let way (b : Bool) : BallUse := if b = true then .output else .input
    (s.mode p = 0 ∨ 4 < s.mode p ∨ 6 < b → use = .unused) ∧
    (s.mode p = mTdm → (b < 2 → use = way (s.on (PRT_CLK_CFG_MASTER p))) ∧
      (2 ≤ b → b < 6 → use = way ((s.fget (PRT_TDM_CFG_LANE_DIR p)).testBit (b - 2))) ∧
      (b = 6 → use = if s.fget (PRT_CLK_CFG_MCLK_DIV p) = 0 then .unused else .output)) ∧
    (s.mode p = mAes → (b = 0 → use = .input) ∧ (b = 1 → use = .output) ∧ (2 ≤ b → use = .unused)) ∧
    (s.mode p = mBit → (b = 0 → use = way (s.on (PRT_CLK_CFG_MASTER p))) ∧ (b = 1 ∨ b = 6 → use = .unused) ∧
      (2 ≤ b → b < 6 → use = .input)) ∧
    (s.mode p = mFlue → (b < 4 → use = .output) ∧ (4 ≤ b → b < 7 → use = .input))) ∧
  ∀ (s : State) (h : Hdr) (port ch mute freeze : Byte) (chain : BitVec 16), Serving s → h.execAt = asap →
    mute.toNat ≤ 1 → freeze.toNat ≤ 1 →
    let p := port.toNat
    let u := noHeld s
    let start := Instr.portStart h port
    let stop := Instr.portStop h port
    let dec := Instr.decFreeze h chain freeze
    let pm := Instr.portMute h port ch mute
    let no (i : Instr) (st : Nat) : Prop := exec i s = .next (answered u h st 0 none)
    let okAt (t : State) : Prop := t.hif.cpls = s.hif.cpls ++ [⟨h, 0, 0, true, 0, BitVec.ofNat 32 s.n⟩] ∧ t.sch.held = []
    (47 < p → no start 6 ∧ no stop 6 ∧ no pm 6) ∧ (127 < ch.toNat → no pm 6) ∧ (191 < chain.toNat → no dec 6) ∧
    (p ≤ 47 → s.pst p ≠ stOff → no start 5) ∧
    (p ≤ 47 → s.pst p = stOff → portReject s p ≠ 0 →
      exec start s = .next (answered (u.fset (PRT_STATUS_REJECT p) (portReject s p)) h 6 (portReject s p) none)) ∧
    (p ≤ 47 → s.pst p = stOff → portReject s p = 0 → s.drives p = true →
      ∃ t, exec start s = .next t ∧ t.pst p = stArmed ∧ t.fget SCH_STATUS_PEND_CMDS = 1 ∧ t.hif = s.hif ∧ t.mem = s.mem ∧
        regsBut s t [PRT_STATUS_STATE p, PRT_STATUS_REJECT p, SCH_STATUS_PEND_CMDS] ∧
        t.sch.held = [{ hdr := h, op := .portStart port, nx := s.n + s.tlen + leadLen s p, sched := true }]) ∧
    (p ≤ 47 → s.pst p = stOff → portReject s p = 0 → s.drives p = false →
      ∃ t, exec start s = .next t ∧ okAt t ∧ (t.port p).startN = some s.n ∧ (t.port p).stopN = none ∧ t.mem = s.mem ∧
        t.pst p = (if s.monitors p = false ∨ (s.on (PRT_STATUS_CLK_OK p) = true ∧
          rateLimits s p (s.rd (PRT_RATE p)).toNat = true) then stRun else stLost) ∧
        (∀ q, q ≠ p → t.port q = s.port q)) ∧
    (p ≤ 47 → s.mode p = mFlue → exec stop s = .next (answered u h 0 0 none)) ∧
    (p ≤ 47 → s.mode p ≠ mFlue → s.pst p = stOff →
      ∃ t, exec stop s = .next t ∧ t = { answered u h 0 0 none with asrc := t.asrc } ∧ (asrcChans s p = [] → t.asrc = s.asrc)) ∧
    (p ≤ 47 → s.mode p ≠ mFlue → s.pst p = stArmed ∨ s.pst p = stLeadin →
      ∃ t, exec stop s = .next t ∧ okAt t ∧ t.pst p = stOff ∧ (t.port p).startN = none ∧ t.mem = s.mem ∧
        ∀ q, q ≠ p → t.port q = s.port q) ∧
    (p ≤ 47 → s.mode p ≠ mFlue → stRun ≤ s.pst p →
      ∃ t, exec stop s = .next t ∧ okAt t ∧ t.port p = { s.port p with stopN := some s.n } ∧
        (∀ q, q ≠ p → t.port q = s.port q) ∧ regsBut s t [SCH_STATUS_PEND_CMDS] ∧
        t = { answered s h 0 0 (some s.n) with regs := t.regs, ports := t.ports, asrc := t.asrc }) ∧
    (p ≤ 47 → ch.toNat ≤ 127 → muteTarget s p ch.toNat = none → no pm 5) ∧
    (∀ a, p ≤ 47 → ch.toNat ≤ 127 → muteTarget s p ch.toNat = some a →
      exec pm s = .next (answered ((noHeld s).setAsrc a { s.asrcCh a with
        muted := mute == 1
        upAt := (s.asrcCh a).upAt ++ if mute = 1 then [] else [firstIndex s.n (s.fget (ASR_CH_CFG_DOM a))]
        rampAt := (s.asrcCh a).rampAt ++ if mute = 1 then [(max (firstIndex s.n (s.fget (ASR_CH_CFG_DOM a)) - muteLen s a)
          (firstIndex s.n (s.fget (ASR_CH_CFG_DOM a))), firstIndex s.n (s.fget (ASR_CH_CFG_DOM a)), aMuted)] else [] })
        h 0 0 (some s.n))) ∧
    (chain.toNat ≤ 191 → chain.toNat < 96 ∧ s.mode (chain.toNat / 2) = mFlue → no dec 5) ∧
    (chain.toNat ≤ 191 → ¬ (chain.toNat < 96 ∧ s.mode (chain.toNat / 2) = mFlue) →
      let l := (s.chain chain.toNat).frz
      exec dec s = .next (answered (u.setChain chain.toNat { s.chain chain.toNat with
        frz := l.takeWhile (fun f => decide (f.1 ≤ s.n)) ++ [(s.n, freeze == 1)] ++ l.dropWhile (fun f => decide (f.1 ≤ s.n)) })
        h 0 0 (some s.n)))

/-- R212, R215, R216: the commands of a flue channel, executed as soon as possible. -/
def Obligations.FlueCommands : Prop :=
  ∀ (s : State) (h : Hdr) (flue : Byte), Serving s → h.execAt = asap →
    let p := flue.toNat
    let u := noHeld s
    let on := Instr.flueEnable h flue
    let off := Instr.flueDisable h flue
    let clr := Instr.flueClear h flue
    let no (i : Instr) (st : Nat) : Prop := exec i s = .next (answered u h st 0 none)
    let okAt (t : State) : Prop := t.hif.cpls = s.hif.cpls ++ [⟨h, 0, 0, true, 0, BitVec.ofNat 32 s.n⟩] ∧ t.sch.held = []
    let rests (t : State) : Prop := t.fst p = fOff ∧ (t.flue p).onN = none ∧ (t.flue p).offN = none ∧ (t.flue p).refs = [] ∧
      (∀ q, q ≠ p → t.flue q = s.flue q) ∧ t.mem = s.mem
    (47 < p → no on 6 ∧ no off 6 ∧ no clr 6) ∧
    (p ≤ 47 → s.fst p ≠ fOff ∨ s.fget FLT_STATUS_STATE ≠ 0 → no on 5) ∧
    (p ≤ 47 → s.fst p = fOff → s.fget FLT_STATUS_STATE = 0 → flueReject s p ≠ 0 →
      exec on s = .next (answered (u.fset (FL_STATUS_REJECT p) (flueReject s p)) h 6 (flueReject s p) none)) ∧
    (∀ m, p ≤ 47 → s.fst p = fOff → s.fget FLT_STATUS_STATE = 0 → flueReject s p = 0 → (s.flue p).offN = some m → m ≤ s.n →
      ∃ t, exec on s = .next t ∧ t.hif.cpls = s.hif.cpls ++ [⟨h, 3, 0, false, 0, 0⟩] ∧ t.fst p = fArmed ∧
        (t.flue p).onN = (s.flue p).onN ∧ (t.flue p).offN = some m) ∧
    (p ≤ 47 → s.fst p = fOff → s.fget FLT_STATUS_STATE = 0 → flueReject s p = 0 → (s.flue p).offN = none →
      ∃ t, exec on s = .next t ∧ okAt t ∧ t.fst p = fArmed ∧ (t.flue p).onN = some s.n ∧
        (∀ q, q ≠ p → t.flue q = s.flue q) ∧ regsBut s t [FL_STATUS_STATE p, SCH_STATUS_PEND_CMDS] ∧
        t = { answered s h 0 0 (some s.n) with regs := t.regs, flues := t.flues }) ∧
    (p ≤ 47 → s.fst p = fLatched → no off 5) ∧
    (p ≤ 47 → s.fst p = fOff ∨ s.fst p = fRampDown ∨ s.fst p = fStopping → exec off s = .next (answered u h 0 0 none)) ∧
    (p ≤ 47 → s.fst p = fRun ∨ s.fst p = fRampUp ∨ s.fst p = fArmed ∨ s.fst p = fWait →
      exec off s = .next (answered (u.setFlue p { s.flue p with offN := some (match (s.flue p).offN with
        | some m => min s.n m
        | none => s.n) }) h 0 0 (some s.n))) ∧
    (p ≤ 47 → s.fst p ≠ fLatched → exec clr s = .next (answered u h 0 0 none)) ∧
    (p ≤ 47 → s.fst p = fLatched →
      ∃ t, exec clr s = .next t ∧ okAt t ∧ rests t ∧ t.fget (FL_STATUS_RETRIES p) = 0 ∧
        regsBut s t [FL_STATUS_STATE p, FL_STATUS_RETRIES p, SCH_STATUS_PEND_CMDS])

/-- R251, R256, R257, R329: the commands of streams, and TWIN_SWAP, executed as soon as possible. -/
def Obligations.StreamCommands : Prop :=
  ∀ (s : State) (h : Hdr) (dir flags : Byte) (stream first count : BitVec 16) (q : W64), Serving s → h.execAt = asap →
    dir.toNat ≤ 1 → flags.toNat ≤ 1 →
    let i := stream.toNat
    let tx : Bool := dir == 1
    let u := noHeld s
    let write := Instr.streamWrite h dir stream q
    let start := Instr.streamStart h dir stream
    let stop := Instr.streamStop h dir stream
    let stats := Instr.streamStats h dir flags first count q
    let no (c : Instr) (st : Nat) : Prop := exec c s = .next (answered u h st 0 none)
    let size : Nat := if tx = true then 256 else 96
    let place : Nat := 0x2800000000 + (if tx = true then 0x18000 + 256 * i else 96 * i)
    let d := if tx = true then txDesc s i else rxDesc s i
    let okAt (t : State) : Prop := t.hif.cpls = s.hif.cpls ++ [⟨h, 0, 0, true, 0, BitVec.ofNat 32 s.n⟩] ∧ t.sch.held = []
    (1023 < i → no write 6 ∧ no start 6 ∧ no stop 6) ∧ (1024 < first.toNat + count.toNat → no stats 6) ∧
    (i ≤ 1023 → (s.stream tx i).state ≠ 0 → no write 5 ∧ no start 5) ∧
    (i ≤ 1023 → (s.stream tx i).state = 0 → s.hostBad q.toNat size = true →
      exec write s = .next (answered (noHeld (hostFail s)) h 9 0 none)) ∧
    (i ≤ 1023 → (s.stream tx i).state = 0 → s.hostBad q.toNat size = false →
      exec write s = .next (answered (noHeld (storeBytes s place (Memory.rdN s.hostMem q.toNat size))) h 0 0 (some s.n))) ∧
    (i ≤ 1023 → (s.stream tx i).state = 0 → streamReject s tx i ≠ 0 →
      exec start s = .next (answered (setStream u tx i { s.stream tx i with reason := streamReject s tx i }) h 6
        (streamReject s tx i) none)) ∧
    (i ≤ 1023 → (s.stream tx i).state = 0 → streamReject s tx i = 0 →
      ∃ t, exec start s = .next t ∧ okAt t ∧ t.mem = s.mem ∧
        t.stream tx i = { s.stream tx i with
          state := 2, startN := some s.n, stopN := none, seq := 0, jb := [], tx := [], chans := [], dropA := false
          dropB := false, peer := none
          nextI := (firstIndex s.n d.dom + max 1 d.p - 1) / max 1 d.p * max 1 d.p } ∧
        (∀ j, j ≠ i → t.stream tx j = s.stream tx j) ∧ (∀ j, t.stream (!tx) j = s.stream (!tx) j) ∧
        (∀ off, off ≠ NET_POOL → off ≠ NET_CH_LOAD → off ≠ SCH_STATUS → t.rd off = s.rd off)) ∧
    (i ≤ 1023 → (s.stream tx i).state = 0 → exec stop s = .next (answered u h 0 0 none)) ∧
    (i ≤ 1023 → (s.stream tx i).state = 1 →
      ∃ t, exec stop s = .next t ∧ okAt t ∧ t.mem = s.mem ∧ (t.stream tx i).state = 0 ∧ (t.stream tx i).startN = none ∧
        (t.stream tx i).jb = [] ∧ (∀ j, j ≠ i → t.stream tx j = s.stream tx j) ∧ (∀ j, t.stream (!tx) j = s.stream (!tx) j)) ∧
    (i ≤ 1023 → 2 ≤ (s.stream tx i).state →
      let cut := { s.stream tx i with stopN := some (match (s.stream tx i).stopN with
        | some m => min s.n m
        | none => s.n) }
      (tx = true → exec stop s = .next (answered (setStream u tx i cut) h 0 0 (some s.n))) ∧
      (tx = false →
        let d' := if d.fmt = 4 then { d with linkOfs := max 2 (s.fget NET_CV_CFG_LAT) * s.tlen } else d
        ∃ t, exec stop s = .next t ∧ okAt t ∧ t.stream false i = cut ∧ (∀ j, j ≠ i → t.stream false j = s.stream false j) ∧
          t.txs = s.txs ∧
          (∀ b, b < slotAddr s.rbuf d.slot0 0 ∨ slotAddr s.rbuf (d.slot0 + d.ch) 0 ≤ b → Memory.rd t.mem b = Memory.rd s.mem b) ∧
          (∀ c < d.ch, s.fget (SCH_SLOT_CFG_PRODUCER (d.slot0 + c)) = 0x200 + i → ∀ e ∈ (presentedIn s d' s.k).zipIdx,
            (s.n : Int) ≤ presented d' e.1 → Memory.rd32 t.mem (slotAddr s.rbuf (d.slot0 + c) e.2) = 0))) ∧
    (first.toNat + count.toNat ≤ 1024 → s.hostBad q.toNat (32 * count.toNat) = true →
      exec stats s = .next (answered (noHeld (hostFail s)) h 9 0 none)) ∧
    (first.toNat + count.toNat ≤ 1024 → s.hostBad q.toNat (32 * count.toNat) = false →
      ∃ t, exec stats s = .next t ∧ okAt t ∧ t.mem = s.mem ∧ regsBut s t [SCH_STATUS_PEND_CMDS] ∧
        t.hostMem = Memory.wrN s.hostMem q.toNat ((List.range count.toNat).flatMap fun j =>
          statsRecord (s.stream tx (first.toNat + j)) tx) ∧
        (∀ j, t.stream tx j = if flags = 1 ∧ first.toNat ≤ j ∧ j < first.toNat + count.toNat then
          { s.stream tx j with pktsA := 0, pktsB := 0, dup := 0, late := 0, early := 0, missing := 0, margin := 0xFFFF, clip := 0 }
          else s.stream tx j)) ∧
    (s.on TWN_CFG_EN = false ∨ s.pair ≠ pInStep → no (.twinSwap h) 5) ∧
    (s.on TWN_CFG_EN = true → s.pair = pInStep → s.lead = true → s.twin.handover = none →
      let at' := 3072 * ((4096 * s.n + 3071) / 3072)
      let held : Held := { hdr := h, op := .twinSwap, nx := s.n, sched := true }
      ∃ t, exec (.twinSwap h) s = .next t ∧ t.hif = s.hif ∧ regsBut s t [SCH_STATUS_PEND_CMDS] ∧
        t = { s with
          regs := t.regs
          twin := { s.twin with
            swapCmd := some held, handover := some ⟨at', 1, false, 3⟩, sent := twinFrame s 4 (leBytes 8 at') :: s.twin.sent
            seqs := Tbl.put 0 s.twin.seqs 4 (Tbl.get 0 s.twin.seqs 4 + 1) } })

/-! ## Cores, clusters and tasks (02, 04, 18) -/

/-- R62 to R66, R70, R73, R441, Table 2.11: events, halts and single steps of a core that has no result on its way and no
active repeat level. -/
def Obligations.CoreEvents : Prop :=
  ∀ (s : State) (cl j : Nat), cl < 26 → j < 8 → (s.core cl j).flights = [] → (s.core cl j).loops = [] →
    (s.core cl j).loopDue = false →
    let c := s.core cl j
    let st := s.coreState cl j
    let lines := if c.st.getLsbD 6 = true ∧ c.st.getLsbD 7 = false then c.events &&& c.st.extractLsb' 16 16 else 0
    let taken (e : Nat) (b : BitVec 12) : Core := { c with
      epc := b, est := c.st, st := (c.st &&& ~~~0x40#32) ||| 0x80#32, shLoops := [], shLc0 := c.lc0, shLc1 := c.lc1
      pc := BitVec.ofNat 12 (4 * e), events := c.events &&& ~~~(1#16 <<< e) }
    let first (l : BitVec 16) (e : Nat) : Prop := e < 16 ∧ l.getLsbD e = true ∧ ∀ d < e, l.getLsbD d = false
    let becomes (i : Instr) (st' : Nat) (k : Core) : Prop := ∃ u, exec i s = .next u ∧ u.coreState cl j = st' ∧
      u.core cl j = k ∧ u.mem = s.mem ∧ (∀ a b, 8 * a + b ≠ 8 * cl + j → u.core a b = s.core a b) ∧
      regsBut s u [HRT_CORE_STATUS_STATE cl j, ⟨HRT_CL_STATUS cl, 8 + j, 1⟩, ⟨HRT_CL_STATUS cl, 16 + j, 1⟩,
        HRT_CORE_PC_PC cl j, HRT_CORE_PC_PC_VALID cl j] ∧
      u = { s with regs := u.regs, cores := u.cores }
    (∀ e, c.haltReq = false → st = 2 → c.turns = [] → first lines e → becomes (.eventTaken cl j) 2 (taken e c.pc)) ∧
    (∀ e, c.haltReq = false → st = 3 → c.waitSlot = false → first (lines &&& ~~~c.waitMask) e →
      becomes (.eventTaken cl j) 2 (taken e c.waitPc)) ∧
    (c.haltReq = true ∨ lines = 0 ∨ (st = 2 ∧ c.turns ≠ []) ∨ (st = 3 ∧ c.waitSlot = true) ∨ (st ≠ 2 ∧ st ≠ 3) →
      exec (.eventTaken cl j) s = .next (s.setCore cl j c) ∧ exec (.repLoopBack cl j) s = .next (s.setCore cl j c)) ∧
    (cl ∈ s.pwr.clusters → exec (.halt cl j) s = .next s) ∧
    (cl ∉ s.pwr.clusters → haltAllowed s cl = false → exec (.halt cl j) s =
      .next (raise (s.fset (HRT_CORE_STATUS_HALT_REFUSED cl j) 1) (16 * 60 + 1) (256 * j))) ∧
    (cl ∉ s.pwr.clusters → haltAllowed s cl = true →
      ∃ u, exec (.halt cl j) s = .next u ∧ (u.core cl j).haltReq = true ∧
        (s.role cl = roleHearth → u.fget TWN_STATUS_PAIR = 5 ∧ u.fget TWN_STATUS_WHY = 3 ∧
          (st ≠ 3 → u.core cl j = { c with haltReq := true, events := c.events ||| 2#16 }) ∧ u.mem = s.mem) ∧
        (s.role cl = roleStaging → u.imgState cl = 0) ∧
        (s.role cl ≠ roleHearth → u.role cl = roleEmber ∧ u.lhOf cl = 0x1F ∧ (u.cluster cl).image = none)) ∧
    (c.haltReq = true → (st = 2 ∧ c.turns = []) ∨ st = 1 ∨ (st = 3 ∧ c.waitSlot = false) →
      becomes (.haltAccepted cl j) 4 { c with haltReq := false, heldState := st }) ∧
    (c.haltReq = false ∨ st = 0 ∨ 4 ≤ st ∨ (st = 2 ∧ c.turns ≠ []) ∨ (st = 3 ∧ c.waitSlot = true) →
      exec (.haltAccepted cl j) s = .next s) ∧
    (st = 4 → ¬ (c.heldState = 3 ∧ c.events &&& c.waitMask ≠ 0) → c.heldState < 8 → becomes (.resume cl j) c.heldState c) ∧
    (st = 4 → c.heldState = 3 → c.events &&& c.waitMask ≠ 0 →
      becomes (.resume cl j) 2 { c with events := c.events &&& ~~~c.waitMask }) ∧
    (st = 5 → s.on (HRT_CORE_CTRL_HALT_ON_EXC cl j) = true → becomes (.resume cl j) 1 { c with task := none }) ∧
    (st ≠ 4 → ¬ (st = 5 ∧ s.on (HRT_CORE_CTRL_HALT_ON_EXC cl j) = true) → exec (.resume cl j) s = .next s) ∧
    (st ≠ 4 ∨ c.heldState ≠ 2 ∨ s.fget CLK_PWR_STATUS_STATE = 1 → exec (.step cl j) s = .next s) ∧
    (st = 4 → c.heldState = 2 → s.fget CLK_PWR_STATUS_STATE ≠ 1 → c.turns = [] → s.mtx.ue = [] → s.mtx.ce = [] →
      (∀ b < 16, Memory.rd s.mem (progByte cl j c.pc.toNat + b) = 0) → becomes (.step cl j) 4 (passed c))

/-- R44, R70, R102, R106, R107, Table 2.9: a cluster's memories are zeroed; tasks start, are stopped or missed, and overrun
their budgets. -/
def Obligations.TasksAndZeroing : Prop :=
  ∀ (s : State) (cl j i : Nat), cl < 26 → j < 8 → i < 16 →
    let c := s.core cl j
    let st := s.coreState cl j
    let begins := Instr.tstart cl j i
    let spent := Instr.budget cl j i
    let up (u : State) (f : Fd) : Prop := u.fget f = min (s.fget f + 1) (2 ^ f.w - 1)
    let others (u : State) : Prop := ∀ a b, 8 * a + b ≠ 8 * cl + j → u.core a b = s.core a b
    let stateFields : List Fd := [HRT_CORE_STATUS_STATE cl j, ⟨HRT_CL_STATUS cl, 8 + j, 1⟩, ⟨HRT_CL_STATUS cl, 16 + j, 1⟩,
      HRT_CORE_PC_PC cl j, HRT_CORE_PC_PC_VALID cl j]
    (cl ∉ s.pwr.zeroing → exec (.memInit cl) s = .next s) ∧
    (cl ∈ s.pwr.zeroing → ∃ u, exec (.memInit cl) s = .next u ∧ cl ∉ u.pwr.zeroing ∧ u.fget (HRT_CL_STATUS_MEM_INIT cl) = 0 ∧
      u.imgState cl = 0 ∧ u.core cl j = {} ∧ u.coreState cl j = (if st = 4 ∨ st = 5 then st else 1) ∧
      (∀ b, Memory.rd u.mem b = if clusterBase cl ≤ b ∧ b < clusterBase (cl + 1) then 0 else Memory.rd s.mem b) ∧
      (∀ off, off < HRT_CL_STATUS cl ∨ HRT_CL_STATUS (cl + 1) ≤ off → u.rd off = s.rd off) ∧
      u = { s with
        regs := u.regs, mem := u.mem, mtx := u.mtx, cores := u.cores, clusters := u.clusters
        pwr := { s.pwr with zeroing := s.pwr.zeroing.filter (· ≠ cl) } }) ∧
    (taskOf s cl j i = none → exec begins s = .next s ∧ exec spent s = .next s) ∧
    (∀ t, taskOf s cl j i = some t →
      (st = 1 → ∃ u, exec begins s = .next u ∧ u.coreState cl j = 2 ∧ others u ∧ regsBut s u stateFields ∧ u.mem = s.mem ∧
        u.core cl j =
          if c.ranThisTick = true then { c with
            events := c.events ||| 8#16, pc := BitVec.ofNat 12 t.start, task := some t.index, turns := [], loops := []
            loopDue := false }
          else { ({} : Core) with
            events := c.events ||| 8#16, haltReq := c.haltReq, pc := BitVec.ofNat 12 t.start, task := some t.index
            ranThisTick := true, issueNow := c.issueNow, stallNow := c.stallNow }) ∧
      (st = 2 ∨ st = 3 → ∃ u, exec begins s = .next u ∧ u.coreState cl j = 2 ∧ (u.core cl j).pc = BitVec.ofNat 12 t.start ∧
        (u.core cl j).task = some t.index ∧ (u.core cl j).loops = [] ∧ (u.core cl j).turns = [] ∧
        (u.core cl j).flights = [] ∧ up u (HRT_TASK_STAT_STOPPED cl j)) ∧
      (st = 4 ∨ st = 5 → ∃ u, exec begins s = .next u ∧ u.core cl j = { c with events := c.events ||| 8#16 } ∧ others u ∧
        up u (HRT_TASK_STAT_MISSED cl j) ∧ regsBut s u [HRT_TASK_STAT_MISSED cl j] ∧ u = { s with regs := u.regs, cores := u.cores }) ∧
      (¬ (c.task = some i ∧ c.ranThisTick = true) → exec spent s = .next s) ∧
      (c.task = some i → c.ranThisTick = true → st ≠ 3 → ∃ u, exec spent s = .next u ∧
        u.core cl j = { c with events := c.events ||| 16#16 } ∧ others u ∧ up u (HRT_TASK_STAT_OVERRUN cl j) ∧
        regsBut s u [HRT_TASK_STAT_OVERRUN cl j] ∧ u = { s with regs := u.regs, cores := u.cores }) ∧
      (c.task = some i → c.ranThisTick = true → st = 3 → ∃ u, exec spent s = .next u ∧ up u (HRT_TASK_STAT_OVERRUN cl j) ∧
        (u.core cl j).events = (if c.waitMask &&& (c.events ||| 16#16) ≠ 0 then (c.events ||| 16#16) &&& ~~~c.waitMask
          else c.events ||| 16#16)))

/-! ## Registers (00, 15) -/

/-- R1 to R5, R356, R375, R408, Table 0.3: accesses of BAR0: of a block that is down, of an offset without a register, of
the wrong size, of fields of each access code, of a locked register and of a register pair. -/
def Obligations.RegisterAccesses : Prop :=
  ∀ (s : State) (ag : Agent) (off size : Nat) (v w : W32),
    let up (o : Nat) : Prop := blockDown s o = false
    let write (o : Nat) (x : W32) (t u : State) : Prop := exec (.registerWrite ag o x) t = .next u
    let read (o : Nat) (t u : State) : Prop := exec (.loRead ag o) t = .next u ∧ exec (.rcRead ag o) t = .next u
    let noted (sub o : Nat) : State := raise s 2 (plain sub 0 0 o)
    (off < 2 ^ 24 → off % 4 = 0 → blockDown s off = true → write off v s s ∧ read off s { s with readData := 0 }) ∧
    (off < 2 ^ 24 → off % 4 = 0 → up off → regAt off = none →
      write off v s (noted 1 off) ∧ read off s { noted 1 off with readData := 0 }) ∧
    (∀ m d, 224 ≤ m → m < 256 → d < 16 → up (MBX_MSG m d) → ag = .host →
      write (MBX_MSG m d) v s (noted 3 (MBX_MSG m d)) ∧ read (MBX_MSG m d) s { noted 1 (MBX_MSG m d) with readData := 0 }) ∧
    (off < 2 ^ 24 → size ≠ 4 ∨ off % 4 ≠ 0 → exec (.badAccess ag off size true) s = .next (noted 2 off) ∧
      exec (.badAccess ag off size false) s = .next { noted 2 off with readData := 0 }) ∧
    (up GLB_SCRATCH → write GLB_SCRATCH v s (s.wr GLB_SCRATCH v) ∧
      read GLB_SCRATCH s { s with readData := s.rd GLB_SCRATCH }) ∧
    (∀ p < 48, up (PRT_LEADIN p) →
      write (PRT_LEADIN p) v s (if s.pst p = stOff then
        s.wr (PRT_LEADIN p) ((s.rd (PRT_LEADIN p) &&& 0xFFFF0000#32) ||| (v &&& 0xFFFF#32)) else noted 3 (PRT_LEADIN p))) ∧
    (∀ cl j, cl < 26 → j < 8 → up (HRT_CORE_STATUS cl j) →
      let old := s.rd (HRT_CORE_STATUS cl j)
      write (HRT_CORE_STATUS cl j) v s (s.wr (HRT_CORE_STATUS cl j) (old &&& ~~~(v &&& 0xF0#32))) ∧
      read (HRT_CORE_STATUS cl j) s { s.wr (HRT_CORE_STATUS cl j) (old &&& 0xFFFF#32) with readData := old &&& 0xFFFF00FF#32 }) ∧
    (∀ c < 192, up (DEC_CNT c) → write (DEC_CNT c) v s (s.wr (DEC_CNT c) (s.rd (DEC_CNT c))) ∧
      read (DEC_CNT c) s { s.wr (DEC_CNT c) 0 with readData := s.rd (DEC_CNT c) }) ∧
    (up MIX_SKIP_CNT → read MIX_SKIP_CNT s
      { s.wr MIX_SKIP_CNT 0 with readData := s.rd MIX_SKIP_CNT, mix := { s.mix with skipRead := true } }) ∧
    (up MGT_HOSTIMG → ∃ t u, write MGT_HOSTIMG v s t ∧ t = { s with hold := t.hold } ∧ write (MGT_HOSTIMG + 4) w t u ∧
      u = { (s.wr MGT_HOSTIMG v).wr (MGT_HOSTIMG + 4) w with hold := u.hold }) ∧
    (up TMB_CNT → ∃ t, read TMB_CNT s t ∧ t.readData = BitVec.ofNat 32 s.tmb.c ∧ t = { s with readData := t.readData, latch := t.latch } ∧
      ∀ u, u.latch = t.latch → blockDown u (TMB_CNT + 4) = false →
        read (TMB_CNT + 4) u { u with readData := BitVec.ofNat 32 (s.tmb.c / 2 ^ 32) }) ∧
    (up MIX_RAMP_USE → exec .peakClr s = .next (s.fset MIX_RAMP_USE_PEAK (s.fget MIX_RAMP_USE_CUR))) ∧
    (blockDown s MIX_RAMP_USE = true → exec .peakClr s = .next s)

/-! ## Starting, ticks and the host rings (01, 13) -/

/-- R13, R14, R38, R39, R347, R352, R408, Tables 1.8 and 1.10: n becomes valid, the engine starts, and the rings are enabled and
disabled; a meter frame that is due goes to its ring, or is dropped where the ring is full. -/
def Obligations.Starting : Prop :=
  ∀ (s : State) (c : Nat) (v : W32), c < 2 ^ 64 →
    let a := advance s c
    let refused : State := raise s 2 (plain 3 0 0 SCH_CTRL)
    let waits : Prop := (s.loop = lFree ∨ s.loop = lAcq) ∧ s.nValid = false
    let sets : Prop := (∀ r < 5, ringBase s r % 4096 = 0 ∧ ∃ i, 4 ≤ i ∧ i ≤ 16 ∧ ringSize s r = 2 ^ i) ∧
      s.get64 HIF_DB_ADDR % 64 = 0 ∧ s.get64 HIF_SB_ADDR % 64 = 0
    let place := ringBase s rMtr + meterSize s * (s.hif.mtrTail.toNat % max 1 (ringSize s rMtr))
    (s.pwr.engineRst = true → exec .freeStart s = .next s ∧ exec .run s = .next s) ∧
    (s.pwr.engineRst = false → waits → exec .freeStart s = .next { s with sch := { s.sch with freePend := true } }) ∧
    (s.pwr.engineRst = false → ¬ waits → exec .freeStart s = .next refused) ∧
    (s.pwr.engineRst = false → exec .run s = .next (if s.running = true then refused else s.fset SCH_CTRL_RUN 1)) ∧
    (a.pwr.engineRst = true ∨ a.nValid = true ∨ (a.sch.freePend = false ∧ a.loop ≠ lLocked ∧ a.loop ≠ lHold) →
      exec (.nValidRise c) s = .next a) ∧
    (a.pwr.engineRst = false → a.nValid = false → a.sch.freePend = true ∨ a.loop = lLocked ∨ a.loop = lHold →
      ∃ t, exec (.nValidRise c) s = .next t ∧ t.nValid = true ∧ t.n = t.ref.mediaIndex % 2 ^ 64 ∧
        t.k = t.ref.mediaIndex / t.tlen % 2 ^ 64 ∧ t.tlen = a.tlen ∧ t.sch = { a.sch with freePend := false, ck := a.tmb.c } ∧
        t.fget TMB_MEDIA_STATUS_ANCHOR = t.ref.anchor % 4 ∧ t.mem = a.mem ∧
        (a.sch.freePend = true → t.ref.anchor = 2 ∧ t.beta = 0 ∧ t.ref.mediaSet = true ∧ t.ref.mediaC = a.tmb.c) ∧
        (a.sch.freePend = false → t.ref.mediaIndex = a.ref.mediaIndex + edgesSince a)) ∧
    (a.on SCH_CTRL_RUN = false ∨ a.nValid = false ∨ a.pwr.engineRst = true ∨ a.running = true →
      exec (.engineStart c) s = .next a) ∧
    (a.on SCH_CTRL_RUN = true → a.nValid = true → a.pwr.engineRst = false → a.running = false →
      let n := a.tlen * (a.n / a.tlen + 1)
      ∃ e, exec (.engineStart c) s = .next (tickBody (mixBegin e) (n - a.tlen) a.tlen) ∧ e.running = true ∧ e.n = n % 2 ^ 64 ∧
        e.k = n / a.tlen % 2 ^ 64 ∧ e.sch.elapsed = a.sch.elapsed + 1 ∧ e.sch.ended = false ∧ e.hif.fetchArmed = true ∧
        e.ref.mediaIndex = a.ref.mediaIndex + (n - a.n) ∧
        (a.on TWN_CFG_EN = true → a.pair = 0 → a.fget TWN_STATUS_LANE_UP = 0 → e.lead = true) ∧
        regsBut a e ([SCH_STATUS_ENGINE_RUN, TWN_STATUS_ROLE] ++ pairWords SCH_N ++ pairWords SCH_K) ∧
        (¬ (a.on TWN_CFG_EN = true ∧ a.pair = 0 ∧ a.fget TWN_STATUS_LANE_UP = 0) →
          e.fget TWN_STATUS_ROLE = a.fget TWN_STATUS_ROLE)) ∧
    (s.pwr.hifRst = true → exec (.hifEnable v) s = .next s ∧ exec (.hifDisable v) s = .next s) ∧
    (s.pwr.hifRst = false → s.on HIF_CTRL_EN = false → sets →
      ∃ t, exec (.hifEnable v) s = .next t ∧ t.on HIF_CTRL_EN = true ∧ hifRun t = true ∧ t.on HIF_STATUS_CFG_ERR = false ∧
        t.hif.cmdHead = 0 ∧ t.hif.cplTail = 0 ∧ t.hif.evtTail = 0 ∧ t.hif.mtrTail = 0 ∧ t.hif.logTail = 0 ∧ t.hif.cpls = [] ∧
        t.hif.events = s.hif.events ∧ regsBut s t [word HIF_CTRL, HIF_STATUS_RUN, HIF_STATUS_CFG_ERR] ∧
        t = { s with regs := t.regs, hif := t.hif }) ∧
    (s.pwr.hifRst = false → s.on HIF_CTRL_EN = false → ¬ sets →
      ∃ t, exec (.hifEnable v) s = .next t ∧ t.on HIF_CTRL_EN = true ∧ t.on HIF_STATUS_CFG_ERR = true ∧
        t.fget HIF_STATUS_RUN = s.fget HIF_STATUS_RUN ∧ t.hif.cmdHead = s.hif.cmdHead ∧ t.hif.cpls = s.hif.cpls) ∧
    (s.pwr.hifRst = false → s.on HIF_CTRL_EN = true →
      ∃ t u, exec (.hifDisable v) s = .next t ∧ t.on HIF_CTRL_EN = false ∧ t.on HIF_STATUS_RUN = false ∧
        t.on HIF_STATUS_STALL = false ∧ t.fget HIF_STATUS_STALL_WHY = 0 ∧ t.hif = { s.hif with cpls := [], cplKept := 0, causes := s.hif.causes &&& 16#8 } ∧
        t = { s with regs := t.regs, hif := t.hif } ∧ exec (.hifEnable v) s = .next u ∧ u = { s with regs := u.regs } ∧
        regsBut s u [word HIF_CTRL]) ∧
    (meterDue s = false → exec .meterFrame s = .next s) ∧
    (meterDue s = true → ringSize s rMtr ≤ ringCount s.hif.mtrTail s.hif.mtrHead →
      ∃ t, exec .meterFrame s = .next t ∧ t.fget HIF_CNT0_MTR_DROP = min (s.fget HIF_CNT0_MTR_DROP + 1) (2 ^ HIF_CNT0_MTR_DROP.w - 1) ∧
        t.hif.mtrSeq = s.hif.mtrSeq + 1 ∧ t.hif.mtrTail = s.hif.mtrTail ∧ t.hif.meters = [] ∧ t.hostMem = s.hostMem) ∧
    (meterDue s = true → ringCount s.hif.mtrTail s.hif.mtrHead < ringSize s rMtr →
      s.hostBad place (meterBytes s (phaseBit s.hif.mtrTail (ringSize s rMtr))).length = false →
      ∃ t, exec .meterFrame s = .next t ∧ t.hif.mtrSeq = s.hif.mtrSeq + 1 ∧ t.hif.mtrTail = s.hif.mtrTail + 1 ∧
        t.hif.mtrTicks = 0 ∧ t.hif.causes.getLsbD 2 = true ∧
        t = { s with
          hostMem := Memory.wrN s.hostMem place (meterBytes s (phaseBit s.hif.mtrTail (ringSize s rMtr))), hif := t.hif })

/-- R17, R22, R39, R55, R70, R102, R106, R110, R271: a tick starts, its output phase runs, and it ends. At its start n and k go
on, the cores of a cluster show and begin their counts, and the work of the tick runs; in the output phase the tasks of the
hearths that run stop, and their words go to the slots; at its end the slots close, and a slot whose producer wrote every word is
LIVE. -/
def Obligations.Ticks : Prop :=
  (∀ (s : State) (c : Nat), c < 2 ^ 64 →
    let a := advance s c
    let b := advance (tickEnd s) c
    let shown (u : State) (n : Nat) : State := (u.set64 SCH_N n).set64 SCH_K (n / b.tlen)
    let next := b.tlen * (b.n / b.tlen + 1)
    let idle (u : State) (d : Nat) : State := { u with
      sch := { b.sch with ck := b.tmb.c }, ref := { b.ref with mediaIndex := b.ref.mediaIndex + d, mediaC := b.tmb.c } }
    let x := outputPhase (endPlanned a (a.n + a.tlen - 1))
    let y := meterTick (twinTickEnd (classSigs (mixTick mixDue x)))
    (b.running = true → exec (.tickStart c) s = .next (tickBody { shown b (b.n + b.tlen) with
      sch := { b.sch with elapsed := b.sch.elapsed + 1, ck := b.tmb.c, outDone := false, ended := false, blank := false }
      ref := { b.ref with mediaIndex := b.ref.mediaIndex + b.tlen, mediaC := b.tmb.c } } b.n b.tlen)) ∧
    (b.running = false → b.nValid = true →
      exec (.tickStart c) s = .next (refTick (slewTick (idle (shown b next) (next - b.n)) (fsM b)) none)) ∧
    (b.running = false → b.nValid = false →
      ∃ d, exec (.tickStart c) s = .next (refTick (slewTick (idle b d) (fsM b)) none)) ∧
    (a.running = false ∨ a.sch.ended = true → exec (.tickEnd c) s = .next a) ∧
    (a.running = true → a.sch.ended = false → powerState a ≠ 1 →
      ∃ t, exec (.tickEnd c) s = .next t ∧ t.sch.ended = true ∧ t.sch.written = y.sch.written ∧
        ∀ slot < 8192, (Tbl.get false t.sch.live (8192 * y.wbuf + slot) = true ↔ y.slotOn slot = true ∧
          ∀ i < domWords y.tlen (y.fget (SCH_SLOT_CFG_DOMAIN slot)), (Tbl.get 0 y.sch.written slot).getLsbD i = true)) ∧
    (a.running = true → a.sch.ended = false → powerState a = 1 → hifRun a = false → a.on TWN_CFG_EN = false →
      (∀ h ∈ a.sch.held, h.planned = none) →
      exec (.tickEnd c) s = .next { (if a.pwr.hifRst = true then a else sendCauses a) with sch := { a.sch with ended := true } }) ∧
    (s.running = false ∨ s.sch.outDone = true → exec .outputPhase s = .next s) ∧
    (s.running = true → s.sch.outDone = false →
      let z := ((List.range 24).filter fun h => (s.runner h).isSome).foldl outputHearth
        { s with twin := { s.twin with sigs := List.replicate 27 0 } }
      exec .outputPhase s = .next { z with sch := { z.sch with outDone := true } })) ∧
  (∀ (u : State) (cl j : Nat), cl < 26 → j < 8 →
    let c := u.core cl j
    let v := coresTickStart u cl
    let w := stopTask u cl j
    (cl ∉ u.pwr.clusters → v.rd (HRT_CORE_ISSUE cl j) = c.issueNow ∧ v.rd (HRT_CORE_STALL cl j) = c.stallNow ∧
      (v.core cl j).issueNow = 0 ∧ (v.core cl j).stallNow = 0 ∧ (v.core cl j).ranThisTick = false ∧
      (u.coreState cl j = 5 → u.on (HRT_CORE_CTRL_HALT_ON_EXC cl j) = false → v.coreState cl j = 1)) ∧
    (u.coreState cl j ≠ 2 → u.coreState cl j ≠ 3 → w = u) ∧
    (u.coreState cl j = 2 ∨ u.coreState cl j = 3 → c.flights = [] →
      w.coreState cl j = 1 ∧ w.core cl j = { c with task := none, turns := [], loops := [], loopDue := false } ∧ w.mem = u.mem ∧
      w.fget (HRT_TASK_STAT_STOPPED cl j) = min (u.fget (HRT_TASK_STAT_STOPPED cl j) + 1)
        (2 ^ (HRT_TASK_STAT_STOPPED cl j).w - 1))) ∧
  (∀ (u : State) (who slot : Nat) (vs : List W32), slot < 8192 → vs.length ≤ 64 → u.on MIX_PATCH_CFG_EN = false →
    let v := writeSlotAll u who slot vs
    let from' := slotAddr u.wbuf slot 0
    (u.fget (SCH_SLOT_CFG_PRODUCER slot) ≠ who → v.mem = u.mem) ∧
    (u.fget (SCH_SLOT_CFG_PRODUCER slot) = who →
      (∀ i < vs.length, Memory.rd32 v.mem (from' + 4 * i) = vs[i]?.getD 0) ∧
      (∀ b, b < from' ∨ from' + 4 * vs.length ≤ b → Memory.rd v.mem b = Memory.rd u.mem b) ∧
      ∀ i < 64, (Tbl.get 0 v.sch.written slot).getLsbD i =
        ((Tbl.get 0 u.sch.written slot).getLsbD i || decide (i < vs.length))))

/-! ## The mix engine, ports and chains (05, 06, 07) -/

/-- R129, R134, R144, R178, R193, R194: the mix engine has checked its shadow bank, and what is counted down ends: the ramp of
a damper, that of an ASRC channel, and the unsettled time of a chain. -/
def Obligations.CountedEnds : Prop :=
  ∀ (s : State) (bus : Bool) (x a c : Nat), x < (if bus = true then 4096 else 262144) → a < 512 → c < 192 →
    let v := validateBank s (!s.bank)
    let swaps (h : Held) : Bool := h.sched && h.op == .mixSwap
    let gone := s.sch.held.filter swaps
    let key := if bus = true then 262144 + x else x
    let left : Fd := DEC_CH_STATUS_REMAIN c
    (s.on MIX_STATUS_VALIDATING = false → exec .mixValidationDone s = .next s) ∧
    (s.on MIX_STATUS_VALIDATING = true → v = 0 →
      exec .mixValidationDone s = .next
        { s.fset MIX_STATUS_VALIDATING 0 with mix := { s.mix with verdict := some 0 } }) ∧
    (s.on MIX_STATUS_VALIDATING = true → v ≠ 0 →
      ∃ t, exec .mixValidationDone s = .next t ∧ t.on MIX_STATUS_VALIDATING = false ∧ t.on MIX_STATUS_SWAP_PEND = false ∧
        t.fget MIX_STATUS_REJECT = v % 16 ∧ t.mix = { s.mix with verdict := some v } ∧
        t.sch = { s.sch with held := s.sch.held.filter fun h => !swaps h } ∧
        regsBut s t [MIX_STATUS_VALIDATING, MIX_STATUS_SWAP_PEND, MIX_STATUS_REJECT, SCH_STATUS_PEND_CMDS, word SCH_LATE_CNT] ∧
        t = { s with regs := t.regs, mix := t.mix, sch := t.sch, hif := t.hif } ∧
        (s.pwr.hifRst = false → s.on HIF_CTRL_EN = true → t.hif = { s.hif with cpls := s.hif.cpls ++ gone.map fun h =>
          if h.late = true then ⟨h.hdr, 1, 0, false, 6, 0⟩ else ⟨h.hdr, 6, v, false, 0, 0⟩ })) ∧
    ((s.damper key).ramp = none → exec (.rampEnd bus x) s = .next s) ∧
    (∀ r, (s.damper key).ramp = some r →
      (r.step + 1 < r.len → exec (.rampEnd bus x) s = .next s) ∧
      (r.len ≤ r.step + 1 → ∃ t, exec (.rampEnd bus x) s = .next t ∧ t.damper key = ⟨r.g1, none⟩ ∧
        (∀ i, i ≠ key → t.damper i = s.damper i) ∧ t = { s with regs := t.regs, mix := t.mix } ∧
        t.fget MIX_RAMP_USE_CUR = s.fget MIX_RAMP_USE_CUR - (if 1 ≤ r.step then 1 else 0) ∧
        regsBut s t [MIX_RAMP_USE_CUR])) ∧
    ((s.asrcCh a).ramp = none → exec (.muteRampEnd a) s = .next s) ∧
    (∀ up k l, (s.asrcCh a).ramp = some (up, k, l) →
      (k + 1 < l → exec (.muteRampEnd a) s = .next s) ∧
      (l ≤ k + 1 → exec (.muteRampEnd a) s = .next ((s.setAsrc a { s.asrcCh a with ramp := none }).fset
        (ASR_CH_STATUS_STATE a) (if up = true then 3 else (s.asrcCh a).after)))) ∧
    (1 < s.fget left → exec (.unsettledEnd c) s = .next s) ∧
    (s.fget left ≤ 1 → exec (.unsettledEnd c) s = .next ((s.fset left 0).fset (DEC_CH_STATUS_UNSETTLED c) 0))

/-- R158 to R161, R164 to R167, R170, R182 to R184, R291: frames that a port receives, and what happens to its clock and to its
channel status. -/
def Obligations.ClockEvents : Prop :=
  ∀ (s : State) (p rate sub c phase : Nat) (b : Bool) (ws : List (Nat × W32)) (cs : List Byte), p < 48 → rate < 2 ^ 32 →
    sub < 2 → c < 2 ^ 64 → phase < 2 ^ 17 → cs.length = 24 → ws.all (fun e => decide (e.1 < 128)) = true →
    let q := s.port p
    let st := s.pst p
    let does (i : Instr) (t : State) : Prop := exec i s = .next t
    let port (l : List (Nat × Nat)) (d : TickRec) : TickRec := { d with portDec := d.portDec ++ l }
    let taken := Instr.portFrameReceive p ws
    let heard : State := if s.mode p = 2 then (ws.filter fun e => decide (e.1 < 2)).foldl (fun u e =>
      u.fset ⟨PRT_AES_STATUS p, 5 + e.1, 1⟩ (b2n (e.2.getLsbD 24))) s else s
    let full := (rxChans heard p).map fun e => match ws.find? fun w => w.1 == e.c with
      | some w => (e.c, w.2 <<< (32 - wordWidth heard p))
      | none => (e.c, Tbl.get 0 q.lastGood e.c)
    let latest := full.foldl (fun t e => Tbl.put 0 t e.1 e.2) q.lastGood
    let open' := full.filter fun e => !heard.on (naBit p e.1)
    let four := (q.fifo ++ [open']).drop (q.fifo.length - 3)
    let kept : Port := { q with miss := 0, early := 0, lastGood := latest }
    let plain' : Prop := s.monitors p = true ∧ s.mode p ≠ 3 ∧ heard.on (PRT_MODE_NA_EN p) = false
    let slips : Prop := st = 3 ∧ s.monitors p = true ∧ (q.fade.any fun f => f.1 == 0) = false
    let r := raise (s.count (PRT_CNT1_SLIP p) 1) (portSrc p 0) 0
    let rf := r.setPort p { r.port p with fade := some (0, 0), txFade := some (0, 0) }
    let slipped := (chainChans rf p).foldl (fun u e =>
      trigger (u.setChain e.idx { u.chain e.idx with fade := some (0, 0) }) e.idx (firF (chainCfg u e.idx))) rf
    let tracked : Prop := s.monitors p = true ∧ (st = 3 ∨ s.on (PRT_STATUS_CLK_OK p) = true)
    let g := (if st = 0 then s else s.count (PRT_CNT0_GLITCH p) 1).setPort p { q with miss := q.miss + 1 }
    let repeated := if g.mode p = 3 then
        pushBits ((chainChans g p).foldl (fun u e => trigger u e.idx (firF (chainCfg u e.idx))) g) p []
      else takeFrame g p []
    let l := if st = 0 then s else s.count (PRT_CNT0_LOST p) 1
    let lost := clockLoss l p
    let waiting := ((l.fset (PRT_STATUS_CLK_OK p) 0).wr (PRT_RATE p) 0).setPort p { q with miss := 0, fifo := [], delay := [] }
    let ok := ((s.wr (PRT_RATE p) (BitVec.ofNat 32 rate)).fset (PRT_STATUS_CLK_OK p) 1).setPort p { q with miss := 0 }
    let back := clockBack ok p
    let adv := advance s c
    let block := if adv.mode p = 2 ∧ adv.pst p ≠ 0 then csBlock adv p sub cs else adv
    let pro := (cs[0]?.getD 0).getLsbD 0
    let sound : Prop := pro = false ∨ crcc (cs.take 23) = (cs[23]?.getD 0).toNat
    (st = 1 → s.drives p = true → does (.leadinStart p) ((s.fset (PRT_STATUS_STATE p) 2).setPort p
      { q with driven := true, fifo := [], delay := [], lastGood := [], prev := [], csFrame := 0 })) ∧
    (¬ (st = 1 ∧ s.drives p = true) → does (.leadinStart p) s) ∧
    (st = 0 ∨ st = 2 → does taken s) ∧
    (st = 1 ∨ 3 < st → s.monitors p = false ∨ s.mode p = 3 → does taken heard) ∧
    (st = 1 ∨ st = 4 → plain' →
      does taken (heard.setPort p { q with lastGood := if st = 4 then q.lastGood else latest, fifo := four })) ∧
    (st = 3 → q.early = 0 → s.mode p = 3 → does taken (pushBits (heard.setPort p { q with miss := 0, early := 0 }) p ws)) ∧
    (st = 3 → q.early = 0 → s.mode p ≠ 3 → heard.on (PRT_MODE_NA_EN p) = false →
      does taken (heard.setPort p { kept with fifo := q.fifo ++ [open'] })) ∧
    (st = 3 → q.early = 0 → s.mode p ≠ 3 → heard.on (PRT_MODE_NA_EN p) = true →
      does taken (pushFrame (naDetect (heard.setPort p kept) p ws full) p full)) ∧
    (st = 3 → 0 < q.early → s.monitors p = false ∨ s.mode p = 3 →
      does taken (heard.setPort p { q with miss := 0, early := q.early - 1 })) ∧
    (st = 3 → 0 < q.early → plain' →
      does taken (heard.setPort p { q with miss := 0, early := q.early - 1, lastGood := latest, fifo := four })) ∧
    (¬ slips → does (.slip p b) s) ∧
    (slips → does (.slip p b) (decided s (port [(p, 0)]) slipped)) ∧
    (¬ tracked → does (.glitch p b) s) ∧
    (tracked → q.miss < 3 → st = 3 → does (.glitch p b) (decided g (port [(p, 1)]) repeated)) ∧
    (tracked → q.miss < 3 → st ≠ 3 → does (.glitch p b) g) ∧
    (tracked → 3 ≤ q.miss → exec (.glitch p b) s = exec (.clockLost p) s) ∧
    (s.monitors p = false ∨ (st = 4 ∧ s.on (PRT_STATUS_CLK_OK p) = false) → does (.clockLost p) s) ∧
    (s.monitors p = true → st ≠ 3 → st ≠ 4 →
      does (.clockLost p) (if st = 0 then waiting else raise waiting (portSrc p 0) 0)) ∧
    (s.monitors p = true → st = 3 ∨ (st = 4 ∧ s.on (PRT_STATUS_CLK_OK p) = true) →
      does (.clockLost p) (decided l (port [(p, 2)]) (raise lost (portSrc p 0) 0))) ∧
    ((∀ e ∈ chainChans s p, e.idx < 192) → lost.pst p = 4 ∧ lost.on (PRT_STATUS_CLK_OK p) = false ∧ lost.rd (PRT_RATE p) = 0) ∧
    ((lost.port p).fifo = [] ∧ (lost.port p).delay = [] ∧ (lost.port p).fade = (if st = 4 then q.fade else some (2, 0)) ∧
      (lost.port p).lastRate = if s.fget (word (PRT_RATE p)) = 0 then q.lastRate else s.fget (word (PRT_RATE p))) ∧
    (s.monitors p = false ∨ st = 3 → does (.clockRecovered p rate) s) ∧
    (s.monitors p = true → st = 4 → does (.clockRecovered p rate) (if rateLimits s p rate = true
      then decided ok (port [(p, 3)]) back else decided ok (port [(p, 4)]) (ok.fset (PRT_STATUS_RATE_ERR p) 1))) ∧
    (s.monitors p = true → st ≠ 3 → st ≠ 4 → does (.clockRecovered p rate)
      (if st ≠ 0 ∧ rateLimits s p rate = false then ok.fset (PRT_STATUS_RATE_ERR p) 1 else ok)) ∧
    (back.pst p = 3 ∧ (back.port p).fade = some (1, 0) ∧ (back.port p).fifo = centre ok p) ∧
    (s.mode p = 2 → st = 3 → does (.aesErr p sub) (s.count (PRT_CNT1_AES_ERR p) 1)) ∧
    (¬ (s.mode p = 2 ∧ st = 3) → does (.aesErr p sub) s) ∧
    does (.csBlock p sub cs c phase) (if sub = 0 ∧ block.mode p = 2 then
      [12, 13].foldl (fun u i => if u.fget (REF_CAND_AUX_PORT i) = p then noteEdge u i (darsRate u p) (tsOf c phase) else u)
        (block.setPort p { block.port p with blockTs := tsOf c phase }) else block) ∧
    (adv.mode p = 2 → adv.pst p ≠ 0 → ¬ sound → block = adv.count (PRT_CNT1_AES_ERR p) 1) ∧
    (adv.mode p = 2 → adv.pst p ≠ 0 → sound → (cs[0]?.getD 0).getLsbD 1 = false →
      (∀ i < 6, ∀ k < 4, (block.rd (PRT_CS_RX p sub i)).extractLsb' (8 * k) 8 = cs[4 * i + k]?.getD 0) ∧
      block.on (PRT_AES_STATUS_CS_OK p) = true ∧ (block.port p).nonaudio.getLsbD sub = false ∧
      (sub = 0 → block.fget (PRT_AES_STATUS_PRO p) = b2n pro ∧
        block.fget (PRT_AES_STATUS_GRADE p) = if pro = true then (cs[4]?.getD 0).toNat % 4 else 0))

/-- R176 to R181, R320, Table 6.5: a clock group locks or fails to, and its ratio follows the loop; its channels lose track or
give up; non-audio words mute a channel, and it is released. -/
def Obligations.LocksAndMutes : Prop :=
  ∀ (s : State) (p ch a : Nat) (pair : Bool) (ratio : W32), p < 48 → ch < 128 → a < 512 →
    let st := s.pst p
    let q := s.port p
    let does (i : Instr) (t : State) : Prop := exec i s = .next t
    let stateOf (e : Chan) : Nat := s.fget (ASR_CH_STATUS_STATE e.idx)
    let acquiring := (asrcChans s p).filter fun e => stateOf e == 1
    let follows : Prop := ∃ e ∈ asrcChans s p, 1 ≤ stateOf e ∧ stateOf e ≤ 5
    let opened (u : State) (e : Nat) (k : Asrc) (st' : Nat) : State := (u.setAsrc e k).fset (ASR_CH_STATUS_STATE e) st'
    let asrc (l : List (Nat × Nat)) (d : TickRec) : TickRec := { d with asrcDec := d.asrcDec ++ l }
    let na (c : Nat) (m : Bool) (d : TickRec) : TickRec := { d with naDec := d.naDec ++ [(p, c, m)] }
    let watched (c : Nat) : Bool := (naChans s p).contains c
    let muted (u : State) (c n : Nat) : State :=
      let v := (u.setPort p { u.port p with
        delay := (u.port p).delay.take ((u.port p).delay.length - n) ++
          ((u.port p).delay.drop ((u.port p).delay.length - n)).map (List.filter fun e => e.1 != c)
        rel := Tbl.put 0 (u.port p).rel c 0, fades := Tbl.clear (u.port p).fades c (c + 1) }).fset (naBit p c) 1
      if u.on (naBit p c) = true then v else raise v (portSrc p 2) (plain 0 c 0 0)
    let mutes (u : State) (l : List Nat) (n : Nat) : State := (l.filter watched).foldl (fun u c =>
      let v := u.setPort p { u.port p with rel := Tbl.put 0 (u.port p).rel c 0 }
      decided v (na c true) (muted v c n)) u
    let free : Prop := st = 3 ∧ 4096 ≤ Tbl.get 0 q.rel ch ∧ ¬ (ch < 2 ∧ q.nonaudio.getLsbD ch = true)
    let f := (s.fset (naBit p ch) 0).setPort p { q with rel := Tbl.put 0 q.rel ch 0 }
    let found := (rxChans f p).find? fun e => e.c == ch
    let ast (i : Nat) : Nat := f.fget (ASR_CH_STATUS_STATE i)
    let carries (i : Nat) : Prop := ast i = 2 ∨ ast i = 3 ∨ ast i = 4 ∨ ast i = 5
    (¬ follows → does (.asrcLock p ratio) (decided s (fun d => { d with ratios := d.ratios ++ [(p, ratio)] }) s)) ∧
    (follows → does (.asrcLock p ratio) (decided s (fun d => { d with ratios := d.ratios ++ [(p, ratio)] })
      (acquiring.foldl (fun u e => asrcOpen u e.idx) (s.wr (ASR_GRP_RATIO p) ratio)))) ∧
    (∀ u : State,
      ((u.asrcCh a).muted = true → asrcOpen u a = opened u a { u.asrcCh a with ramp := none, fade := none } 5) ∧
      ((u.asrcCh a).muted = false → muteLen u a = 0 →
        asrcOpen u a = opened u a { u.asrcCh a with ramp := none, fade := none } 3) ∧
      ((u.asrcCh a).muted = false → muteLen u a ≠ 0 →
        asrcOpen u a = opened u a { u.asrcCh a with ramp := some (true, 0, muteLen u a), fade := none } 2)) ∧
    (acquiring = [] → does (.acqFail p) s) ∧
    (acquiring ≠ [] → does (.acqFail p)
      (raise (acquiring.foldl (fun u e => u.fset (ASR_CH_STATUS_ACQ_FAIL e.idx) 1) s) (portSrc p 1) 0)) ∧
    does (.trackErr p) (((asrcChans s p).map (·.idx)).foldl (fun u i => decided u (asrc [(i, 4)])
      (if u.fget (ASR_CH_STATUS_STATE i) = 3 then rampDown (u.fset (ASR_CH_STATUS_TRACK_ERR i) 1) i 32 1 else u)) s) ∧
    (∀ u : State, (u.asrcCh a).ramp = none → rampDown u a 32 1 =
      opened u a { u.asrcCh a with ramp := some (false, 0, 32), after := 1, fade := none } 4) ∧
    does (.holdExpiry a) (decided s (asrc [(a, 7)])
      (if s.fget (ASR_CH_STATUS_STATE a) = 6 then s.fset (ASR_CH_STATUS_STATE a) 7 else s)) ∧
    (¬ (st = 3 ∧ watched ch = true) → ∀ b, does (.syncMatch p ch b) s) ∧
    (st = 3 → watched ch = true → does (.syncMatch p ch ⟨pair, false⟩)
      (mutes s (if pair = true then [ch, partner ch] else [ch]) (if pair = true then 0 else 1))) ∧
    (st = 3 → watched ch = true → s.mode p ≠ 2 → does (.syncMatch p ch ⟨pair, true⟩) s) ∧
    (st = 3 → watched ch = true → s.mode p = 2 → does (.syncMatch p ch ⟨pair, true⟩)
      (mutes (s.setPort p { q with nonaudio := putBits q.nonaudio.toNat ch 1 1 }) [ch] 2)) ∧
    (¬ free → does (.naRelease p ch) s) ∧
    (free → s.on (naBit p ch) = false → does (.naRelease p ch) (decided s (na ch false) s)) ∧
    (free → s.on (naBit p ch) = true → found = none → does (.naRelease p ch) (decided s (na ch false) f)) ∧
    (∀ e, free → s.on (naBit p ch) = true → found = some e →
      does (.naRelease p ch) (decided s (na ch false)
        (if e.path ≠ 1 then f.setPort p { f.port p with fades := Tbl.put 0 (f.port p).fades ch 1 }
        else if carries e.idx then asrcOpen f e.idx else f)))

/-! ## Flue channels (08) -/

/-- R198, R205 to R210, R212 to R214, R218 to R228, Table 8.6: loop samples, switching periods and their gate levels, and every
change of a flue's state that its own counts bring. -/
def Obligations.FlueEvents : Prop :=
  ∀ (s : State) (p g pos held : Nat) (b hi : Bool) (grs : W64) (io : List (W64 × W64)), p < 48 → g < 6 → pos < 8192 →
    io.length = 8 →
    let f := s.flue p
    let st := s.fget (FL_STATUS_STATE p)
    let does (i : Instr) (t : State) : Prop := exec i s = .next t
    let into (u : State) (n : Nat) (k : Flue) : State := (u.fset (FL_STATUS_STATE p) n).setFlue p k
    let drives : Prop := st = 2 ∨ st = 3 ∨ st = 4
    let own : Prop := ¬ (s.defers = true ∧ s.lead = false)
    let q := s.fget (FL_CFG_RAMP p) * fsw s p / 1000
    let fault (u : State) (cause : Nat) : State :=
      let v := raise u (flueSrc p 1) (plain cause 0 0 0)
      (into v 5 { v.flue p with periods := 0, afterStop := 7, d := 0, sec1 := {}, sec2 := {}, offN := none, stuck := false }).fset
        (FL_STATUS_CAUSE p) cause
    let rest (u : State) (n : Nat) : State :=
      into u n { u.flue p with periods := 0, onN := none, offN := none, hist := [], refs := [], d := 0, stuck := false }
    let hot : Prop := drives ∧ s.fget (FL_PROT_T1 p) ≤ ones f.window.toNat ∧ own
    let x := raise (((s.count (FL_EVT_CNT_SHUT p) 1).setFlue p { f with window := 0, tripped := none }).fset
      (FL_STATUS_TRIP_RATE p) 0) (flueSrc p 0) (plain 2 0 0 0)
    let y := x.fset (FL_STATUS_CAUSE p) 2
    let retries := x.fget (FL_STATUS_RETRIES p)
    let waits := min ((y.fget (FL_PROT_RETRY_M1 p) + 1) * 2 ^ retries) 32 * fsw y p / 10
    let broken : Prop := drives ∧ (f.stuck = true ∨ 4096 ≤ f.runE ∨ 4096 ≤ f.runF) ∧ own
    let dt := s.fget (FL_CFG_DT p)
    let blank (a e : Nat) : Prop := a + dt < e ∧ a + dt ≤ pos ∧ pos < a + dt + 8 * s.fget (FL_CFG_BLANK p)
    let trips : Prop := hi = s.on (FL_CFG_TRIP_POL p) ∧ s.fget (FL_CFG_TRIP_FILT p) < held ∧ drives ∧ f.tripped = none ∧
      f.blankTo ≤ pos ∧ ¬ blank f.edges.1 f.edges.2.1 ∧ ¬ blank f.edges.2.2.1 f.edges.2.2.2
    let cut (a e : Nat) : Nat × Nat := if pos ≤ a then (a, a) else (a, min e pos)
    let cutA := cut f.edges.1 f.edges.2.1
    let cutB := cut f.edges.2.2.1 f.edges.2.2.2
    let whole : Prop := s.on (FL_PROT_DC_EN p) = false ∨ f.dcN < 1536
    let disables : Prop := ∃ m, f.offN = some m ∧ 4096 * m ≤ f.q * per s p
    let above : Prop := s.fget (FL_LIMIT_DC_THR p) * 1536 * 2 ^ 15 < f.dcSum.natAbs
    let n := if ¬ above then 0 else if 0 < f.dcCount ∧ f.dcNeg = decide (f.dcSum < 0) then f.dcCount + 1 else 1
    let dc := (s.wr (FL_DC_MEAN p) (BitVec.ofInt 32 (max (-2 ^ 31) (min (2 ^ 31 - 1) (f.dcSum / 1536))))).setFlue p { f with
      dcSum := 0, dcN := 0, dcNeg := decide (f.dcSum < 0)
      dcCount := if s.defers = true ∧ s.lead = false then f.dcCount else n }
    let used := (List.range 8).filter fun i => s.fget (PRT_MODE_MODE (8 * g + i)) == 4
    let v0 : Int := s.fget (word (FLU_GRP_RAIL g))
    let sum : Int := min ((ones grs.toNat : Int) * 2 ^ 25) (2 ^ 31 - 1)
    let still : Prop := whole ∧ senseDue s p = false ∧ shutdownDue s p = false ∧ f.offN = none ∧ f.onN = none ∧
      rampUpDue s p = false ∧ rampDownDue s p = false ∧ stoppingDue s p = false ∧ retryDue s p = false ∧ successDue s p = false
    (st = 2 → q ≤ f.periods → does (.rampUpEnd p) (into s 3 { f with
      periods := 0, sec1 := {}, sec2 := {}, d := 0, j := 0, epsA := 0, epsB := 0, dcSum := 0, dcN := 0, dcCount := 0
      runPeriods := 0 })) ∧
    (¬ (st = 2 ∧ q ≤ f.periods) → does (.rampUpEnd p) s) ∧
    (st = 4 → q ≤ f.rampFrom + f.periods → does (.rampDownEnd p) ((into s 5 { f with
      periods := 0, afterStop := 0, d := 0, sec1 := {}, sec2 := {}, offN := none, stuck := false }).fset
      (FL_STATUS_CAUSE p) 1)) ∧
    (¬ (st = 4 ∧ q ≤ f.rampFrom + f.periods) → does (.rampDownEnd p) s) ∧
    (st = 5 → 2 ≤ f.periods → does (.stoppingEnd p) (rest s f.afterStop)) ∧
    (¬ (st = 5 ∧ 2 ≤ f.periods) → does (.stoppingEnd p) s) ∧
    (trips → does (.trip p ⟨pos, hi, held⟩) (((s.count (word (FL_TRIP_CNT p)) 1).setFlue p { f with
      tripped := some pos, window := f.window ||| 1, edges := (cutA.1, cutA.2, cutB.1, cutB.2) }).fset
        (FL_STATUS_TRIP_RATE p) (ones (f.window ||| 1).toNat))) ∧
    (¬ trips → does (.trip p ⟨pos, hi, held⟩) s) ∧
    (¬ hot → does (.tripRateShutdown p) s) ∧
    (hot → st = 4 → does (.tripRateShutdown p) (rest (x.fset (FL_STATUS_CAUSE p) 1) 0)) ∧
    (hot → st ≠ 4 → retries = y.fget (FL_PROT_N_RETRY p) →
      does (.tripRateShutdown p) (raise (rest y 7) (flueSrc p 1) (plain 2 0 0 0))) ∧
    (hot → st ≠ 4 → retries ≠ y.fget (FL_PROT_N_RETRY p) →
      does (.tripRateShutdown p) (into y 6 { y.flue p with periods := 0, waitLeft := waits, d := 0 })) ∧
    (st = 6 → f.waitLeft = 0 → own → does (.retry p) (into (s.fset (FL_STATUS_RETRIES p) (s.fget (FL_STATUS_RETRIES p) + 1)) 2
      { f with periods := 0, onN := none, sec1 := {}, sec2 := {}, d := 0, rampFrom := 0, stuck := false })) ∧
    (¬ (st = 6 ∧ f.waitLeft = 0 ∧ own) → does (.retry p) s) ∧
    (st = 3 → 2 * fsw s p ≤ f.runPeriods → own → does (.retrySuccess p) (s.fset (FL_STATUS_RETRIES p) 0)) ∧
    (¬ (st = 3 ∧ 2 * fsw s p ≤ f.runPeriods ∧ own) → does (.retrySuccess p) s) ∧
    (f.dcN < 1536 → does (.dcBlock p) s) ∧
    (1536 ≤ f.dcN → does (.dcBlock p) (if s.fget (FL_PROT_DC_TIME p) ≤ n ∧ st = 3 ∧ own then fault dc 3 else dc)) ∧
    (broken → does (.senseFault p b) (fault s 4)) ∧
    (¬ broken → does (.senseFault p b) s) ∧
    (used = [] → does (.loopSample g grs io) (s.setGroup g { s.group g with started := false })) ∧
    (used ≠ [] → ∃ u, does (.loopSample g grs io) (used.foldl (fun v i => flueSample v (8 * g + i) ((io[i]?).getD (0, 0)).1
        ((io[i]?).getD (0, 0)).2) u) ∧
      u.rd (FLU_GRP_RAIL g) = BitVec.ofInt 32 (if (s.group g).started = true then v0 + (sum - v0) / 64 else sum) ∧
      (u.group g).started = true ∧ regsBut s u [word (FLU_GRP_RAIL g), word (FLU_GRP_CEIL g)] ∧
      u = { s with regs := u.regs, groups := u.groups }) ∧
    (s.fget (PRT_MODE_MODE p) ≠ 4 → does (.switchingPeriod p) s) ∧
    (s.fget (PRT_MODE_MODE p) = 4 → does (.switchingPeriod p) (beginPeriod (boundary s p) p)) ∧
    (s.on (FL_PROT_DC_EN p) = true → 1536 ≤ f.dcN → s.fget (FL_PROT_DC_TIME p) ≤ n → st = 3 → own →
      boundary s p = fault dc 3) ∧
    (whole → broken → boundary s p = fault s 4) ∧
    (whole → ¬ broken → ¬ hot → disables → st = 6 → boundary s p = rest (s.fset (FL_STATUS_CAUSE p) 1) 0) ∧
    (whole → ¬ broken → ¬ hot → disables → st = 3 → 0 < q → boundary s p = into s 4 { f with
      periods := 0, rampFrom := 0, offN := none, d := 0, sec1 := {}, sec2 := {} }) ∧
    (still → boundary s p = s) ∧
    (drives ∨ st = 5 → f.edges.1 < f.edges.2.1 → f.edges.2.2.1 < f.edges.2.2.2 →
      let l := gateLevels s p pos
      let high (a e : Nat) : Prop := a + dt ≤ pos ∧ pos < e
      let low (z a e : Nat) : Prop := (z ≤ pos ∧ pos < a) ∨ e + dt ≤ pos
      (l.1 = false ↔ high f.edges.1 f.edges.2.1) ∧ (l.2.1 = false ↔ low f.lowFrom.1 f.edges.1 f.edges.2.1) ∧
        (l.2.2.1 = false ↔ high f.edges.2.2.1 f.edges.2.2.2) ∧
        (l.2.2.2 = false ↔ low f.lowFrom.2 f.edges.2.2.1 f.edges.2.2.2)) ∧
    (¬ drives → st ≠ 5 → gateLevels s p pos = (true, true, true, true)) ∧
    ((gateLevels s p pos).1 = true ∨ (gateLevels s p pos).2.1 = true) ∧
    ((gateLevels s p pos).2.2.1 = true ∨ (gateLevels s p pos).2.2.2 = true) ∧
    (∀ wa wb, (st = 3 → wa = ((2 ^ 31 + f.d) * (8 * per s p : Nat) + f.epsA).toNat / 2 ^ 32 ∧
        wb = ((2 ^ 31 - f.d) * (8 * per s p : Nat) + f.epsB).toNat / 2 ^ 32) →
      (st ≠ 3 → wa = wb ∧ wa = if st = 2 then 8 * per s p * f.periods / (2 * q)
        else if st = 4 then 8 * per s p * (q - (f.rampFrom + f.periods)) / (2 * q) else 0) →
      let k := (beginPeriod s p).flue p
      let edge (w : Nat) : Nat := (8 * per s p - w) / 2
      let lowAt (a e : Nat) : Nat := if a < e then e + dt - 8 * per s p else 0
      let blankAt (a e : Nat) : Nat := if a + dt < e then a + dt + 8 * s.fget (FL_CFG_BLANK p) - 8 * per s p else 0
      k.edges = (edge wa, edge wa + wa, edge wb, edge wb + wb) ∧ k.window = f.window <<< 1 ∧ k.tripped = none ∧
        k.periods = f.periods + 1 ∧ k.q = f.q + 1 ∧
        k.lowFrom = (lowAt f.edges.1 f.edges.2.1, lowAt f.edges.2.2.1 f.edges.2.2.2) ∧
        k.blankTo = max (blankAt f.edges.1 f.edges.2.1) (blankAt f.edges.2.2.1 f.edges.2.2.2))

/-! ## The timebase (10) -/

/-- R264 to R274, R282, R283, R408, R461, Tables 10.2 to 10.4: writes of a domain's control register, the update of a domain, the
snapshot, the pulses in and out, and the instants of the 100 µs grid, at which the collector, the doorbell fetch and the records
run while no engine does. -/
def Obligations.TimebaseEvents : Prop :=
  ∀ (s : State) (ag : Agent) (x : Nat) (v : W32) (c phase width : Nat), x < 3 → c < 2 ^ 64 → phase < 2 ^ 17 →
    let d := s.dom x
    let does (i : Instr) (t : State) : Prop := exec i s = .next t
    let up : Prop := blockDown s (TMB_DOM_CTRL x) = false
    let owns : Prop := ag = if x = 2 ∨ s.on (TMB_DOM_CTRL_OWNER x) = true then .host else .mgmt
    let turns (u : State) : Prop := ag = .host ∧ x ≠ 2 ∧ v.getLsbD 0 ≠ u.on (TMB_DOM_CTRL_OWNER x)
    let old : Option DomUpdate := if turns s ∨ v.getLsbD 5 = true then none else d.pend
    let field (b : Bool) (u : State) (f : Fd) : Prop := u.on f = b
    let r := max 2197923743925 (min 2200122767179 d.stRate.toNat)
    let next : DomUpdate :=
      { cu := if s.tmb.c < s.get64 (TMB_DOM_APPLY_AT x) then s.get64 (TMB_DOM_APPLY_AT x) else s.tmb.c + 1
        rate := if v.getLsbD 2 = true then some r else none
        adj := if v.getLsbD 3 = true then some (BitVec.ofNat 64 (s.get64 (TMB_DOM_ADJ x))).toInt else none
        set := if v.getLsbD 4 = true then some (s.get64 (TMB_DOM_SET_SEC x) * 1000000000 * 65536 +
          s.fget (TMB_DOM_SET_NS_NS x) * 65536 + s.fget (TMB_DOM_SET_FRAC_FRAC x)) else none }
    let written (t : State) (p : Option DomUpdate) : Prop :=
      (t.dom x).pend = p ∧ t.dom x = { d with pend := p } ∧ (∀ y, y ≠ x → t.dom y = s.dom y) ∧
        t.on (TMB_DOM_STATUS_PEND x) = p.isSome ∧ t.get64 (TMB_DOM_RATE x) = ((p.bind (·.rate)).getD d.rate) % 2 ^ 64 ∧
        t.fget ⟨TMB_DOM_CTRL x, 2, 3⟩ = (v.extractLsb' 2 3).toNat ∧ field (v.getLsbD 8) t (TMB_DOM_CTRL_VALID x) ∧
        (turns s → field (v.getLsbD 0) t (TMB_DOM_CTRL_OWNER x)) ∧
        regsBut s t ([⟨TMB_DOM_CTRL x, 0, 9⟩, ⟨TMB_DOM_STATUS x, 0, 4⟩] ++ pairWords (TMB_DOM_RATE x)) ∧
        t = { s with regs := t.regs, tmb := { s.tmb with doms := t.tmb.doms } }
    let u := raise (s.fset (TMB_DOM_STATUS_REFUSED x) 1) 2 (plain 3 0 0 (TMB_DOM_CTRL x))
    let turned := (u.fset (TMB_DOM_CTRL_OWNER x) (b2n (v.getLsbD 0))).setDom x { u.dom x with pend := none }
    let refused (t : State) : Prop := (¬ turns u → t = u) ∧ (turns u → t =
      (turned.fset (TMB_DOM_STATUS_PEND x) 0).set64 (TMB_DOM_RATE x) (u.dom x).rate)
    let a := advance s c
    let ts (n : Nat) : Nat := 2 ^ 17 * n
    let pps : Prop := (∀ l, a.tmb.ppsInLast = some l → l + 250000000 ≤ a.tmb.c) ∧ a.fget TMB_PPS_IN_CFG_FILT * 10 ≤ width
    let drives := a.on TMB_PPS_OUT_CFG_EN && a.drivesBalls
    let apart : Prop := ∀ l, a.tmb.ppsLast = some l → l + 250000000 ≤ a.tmb.c
    let ended : Prop := ∀ l, a.tmb.ppsLast = some l → l + a.fget TMB_PPS_OUT_CFG_WIDTH * 500000 ≤ a.tmb.c
    let sec := ppsSecond a
    let at' := if s.tmb.c % 50000 = 0 ∧ s.tmb.lastGrid ≠ s.tmb.c then s.tmb.c else (s.tmb.c / 50000 + 1) * 50000
    let g := { advance s at' with tmb := { (advance s at').tmb with lastGrid := (advance s at').tmb.c } }
    let free : Prop := ∀ h ∈ s.sch.held, h.planned = none
    (good s 5 = false → does .gridInstant s) ∧
    (good s 5 = true → g.tmb.c = at' ∧ at' % 50000 = 0 ∧ s.tmb.c ≤ at' ∧ at' ≤ s.tmb.c + 50000) ∧
    (good s 5 = false → a.tmb.c = s.tmb.c) ∧
    (good s 5 = true → a.tmb.c = max c s.tmb.c) ∧
    (good s 5 = true → g.running = true → does .gridInstant g) ∧
    (good s 5 = true → g.running = false →
      let z := fetchDoorbell (collectorPoint g)
      let t := 4 * 2 ^ z.fget SCH_TICK_CFG_TICK_LEN
      does .gridInstant (if z.nValid = true then hifWrites z (t * (z.nNow / t + 1)) (z.nNow / t + 1) else hifWrites z 0 0)) ∧
    (up ∨ does (.apply ag x v) s ∧ does (.cancel ag x v) s ∧ does (.owner ag x v) s) ∧
    (up → owns → ∃ t, does (.apply ag x v) t ∧ written t (some next) ∧
      (old.isSome = true → t.on (TMB_DOM_STATUS_REPLACED x) = true) ∧
      (v.getLsbD 2 = true → r ≠ d.stRate.toNat → t.on (TMB_DOM_STATUS_RATE_CLIP x) = true)) ∧
    (up → owns → v.getLsbD 1 = false → ∃ t, does (.cancel ag x v) t ∧ written t none) ∧
    (up → owns → v.getLsbD 1 = false → turns s ∨ v.getLsbD 5 = true → ∃ t, does (.owner ag x v) t ∧ written t none) ∧
    (up → owns → v.getLsbD 1 = false → v.getLsbD 5 = false → ¬ turns s → does (.owner ag x v)
      ((s.fset ⟨TMB_DOM_CTRL x, 2, 3⟩ (v.extractLsb' 2 3).toNat).fset (TMB_DOM_CTRL_VALID x) (b2n (v.getLsbD 8)))) ∧
    (up → ¬ owns → (∃ t, does (.apply ag x v) t ∧ refused t) ∧ (∃ t, does (.cancel ag x v) t ∧ refused t) ∧
      (v.extractLsb' 2 3 ≠ (s.rd (TMB_DOM_CTRL x)).extractLsb' 2 3 → ∃ t, does (.owner ag x v) t ∧ refused t)) ∧
    (d.pend = none → does (.domainUpdate x) s) ∧
    (∀ w, d.pend = some w → good s 5 = false → s.tmb.c < w.cu → (∀ y < 3, y ≠ x → (s.dom y).pend = none) → free →
      does (.domainUpdate x) s) ∧
    (∀ w, d.pend = some w → good s 5 = true → (∀ y < 3, y ≠ x → (s.dom y).pend = none) → free →
      let t0 : Int := match w.set with
        | some e => e
        | none => domTime s x (ts w.cu)
      let t1 := t0 + w.adj.getD 0
      ∃ t, does (.domainUpdate x) t ∧ t.tmb.c = max w.cu s.tmb.c ∧
        t.dom x = { d with base := (t1 % 2 ^ 112).toNat, anchor := w.cu, rate := w.rate.getD d.rate, pend := none } ∧
        (∀ y, y ≠ x → t.dom y = s.dom y) ∧ t.mem = s.mem ∧
        (s.ref.anchor ≠ x ∨ s.ref.mediaSet = false ∨ (w.set = none ∧ w.adj = none) →
          t.on (TMB_DOM_STATUS_PEND x) = false ∧ regsBut s t ([TMB_DOM_STATUS_PEND x] ++ pairWords (TMB_DOM_RATE x)) ∧
          t.beta = s.beta) ∧
        (s.ref.anchor = x → s.ref.mediaSet = true → w.set.isSome = true ∨ w.adj.isSome = true →
          (s.beta - (((t1 % 2 ^ 112).toNat : Int) - domTime s x (ts w.cu))).natAbs < 2 ^ 63 →
          t.beta = s.beta - (((t1 % 2 ^ 112).toNat : Int) - domTime s x (ts w.cu)))) ∧
    (blockDown s TMB_SNAP = true → does .go s) ∧
    (blockDown s TMB_SNAP = false → ∃ t, does .go t ∧ t.get64 TMB_SNAP_CNT = s.tmb.c % 2 ^ 64 ∧
      (∀ y w, y < 3 → w = tod (domTime s y (ts s.tmb.c)) →
        t.get64 (TMB_DOM_SNAP_SEC y) = w.1 % 2 ^ 64 ∧ t.rd (TMB_DOM_SNAP_NS y) = BitVec.ofNat 32 w.2.1 ∧
        t.rd (TMB_DOM_SNAP_FRAC y) = BitVec.ofNat 32 w.2.2) ∧
      (∀ w, w = tod (if s.fget TMB_MEDIA_STATUS_ANCHOR = 3 then 0 else mediaTime s (ts s.tmb.c)) →
        t.get64 TMB_MEDIA_SNAP_SEC = w.1 % 2 ^ 64 ∧ t.rd TMB_MEDIA_SNAP_NS = BitVec.ofNat 32 w.2.1 ∧
        t.rd TMB_MEDIA_SNAP_FRAC = BitVec.ofNat 32 w.2.2) ∧
      t = { s with regs := t.regs }) ∧
    (a.on TMB_PPS_IN_CFG_EN = false → does (.ppsIn c phase width) a) ∧
    (a.on TMB_PPS_IN_CFG_EN = true → ¬ pps → does (.ppsIn c phase width) (a.count TMB_PPS_IN_STATUS_IGN 1)) ∧
    (a.on TMB_PPS_IN_CFG_EN = true → pps → ∃ t, does (.ppsIn c phase width) t ∧ t.get64 TMB_PPS_IN_CNT = a.tmb.c % 2 ^ 64 ∧
      t.on TMB_PPS_IN_STATUS_NEW = true ∧ t.tmb = { a.tmb with ppsInLast := some a.tmb.c } ∧
      t.cand 14 = { a.cand 14 with e := edgeErr a 14 1 (ts c + phase) } ∧ (∀ i, i ≠ 14 → t.cand i = a.cand i) ∧
      regsBut a t ([TMB_PPS_IN_STATUS_NEW] ++ pairWords TMB_PPS_IN_CNT) ∧
      t = { a with regs := t.regs, tmb := t.tmb, ref := { a.ref with cands := t.ref.cands } }) ∧
    (∀ n, sec = some n → a.tmb.ppsSec < n → drives = true → apart →
      does (.ppsOut c) { a with tmb := { a.tmb with ppsOn := true, ppsLast := some a.tmb.c, ppsSec := n } }) ∧
    (¬ (∃ n, sec = some n ∧ a.tmb.ppsSec < n ∧ drives = true ∧ apart) → ∃ t, does (.ppsOut c) t ∧
      (t.tmb.ppsOn = true ↔ a.tmb.ppsOn = true ∧ ¬ ended ∧ drives = true) ∧ t.tmb.ppsLast = a.tmb.ppsLast ∧
      t = { a with tmb := { a.tmb with ppsOn := t.tmb.ppsOn, ppsSec := t.tmb.ppsSec } })

/-! ## Reference selection (11) -/

/-- R182, R286 to R289, R291, R296, R298 to R301, R303, R408, Table 11.2: what reference selection does between tick starts, what a
candidate's status reads, and the word clock outputs. -/
def Obligations.ReferenceEvents : Prop :=
  ∀ (s : State) (i w c phase : Nat) (v : W64) (fs : List (Nat × W32)), i < 15 → w < 4 → c < 2 ^ 64 → phase < 2 ^ 17 →
    fs.all (fun e => decide (e.1 < 15)) = true → (fs.map (·.1)).Nodup →
    let does (k : Instr) (t : State) : Prop := exec k s = .next t
    let st (j : Nat) : Nat := s.fget (REF_CAND_STATUS_STATE j)
    let a := advance s c
    let k := a.cand (8 + w)
    let ts := 2 ^ 17 * c + phase
    let edge (b : Bool) := Instr.wordClockEdge w b c phase
    let sel := s.fget REF_STATUS_SEL
    let loop := s.fget REF_STATUS_LOOP
    let restored : Prop := s.lead = true ∧ st i = 2 ∧
      (s.cand i).wtrAt + min 600 (s.fget REF_SW_CFG_WTR_S) * 500000000 ≤ s.tmb.c ∧ failReason s i = none
    let locks : Prop := s.lead = true ∧ loop = 1 ∧ ∃ t, s.ref.lockAt = some t ∧ t + 1000000000 ≤ s.tmb.c
    let disputes : Prop := s.lead = true ∧ i ≠ sel ∧ sel ≠ 15 ∧ st i = 3 ∧ candRank s i = candRank s sel ∧
      max 1 (s.fget REF_DISP_CFG_DISP_S) ≤ (s.cand i).dispS ∧
      ¬ (s.on (REF_CAND_STATUS_DISPUTED i) = true ∧ s.on (REF_CAND_STATUS_DISPUTED sel) = true)
    let far (j : Nat) : Nat := ((s.rd (REF_CAND_FREQ j)).toInt * 256 - holdEstimate s).natAbs
    let bad := if far i < far sel then sel else i
    let keeps : Prop := 0 < s.ref.yN ∧ s.ref.yBad = false ∧ loop = 2 ∧ s.on REF_CTRL_OPEN = false ∧
      s.on REF_STATUS_SWITCHING = false
    let hist := if keeps then (s.ref.ySum / s.ref.yN :: s.ref.hist).take 1023 else s.ref.hist
    let noted (q : Cand) (t : State) : Prop := t = a.setCand (8 + w) q
    (s.ref.acqEdge = false → does (.mediaIndexSet c) s) ∧
    (s.ref.acqEdge = true → ∃ t, does (.mediaIndexSet c) t ∧ t.beta = 0 ∧ t.on TMB_MEDIA_STATUS_SLEWING = false ∧
      regsBut a t ([TMB_MEDIA_STATUS_SLEWING] ++ pairWords TMB_MEDIA_BETA) ∧
      t = { a with
        regs := t.regs, tmb := { a.tmb with beta0 := 0, rebased := some a.tmb.c, ppsSec := t.tmb.ppsSec }
        ref := { a.ref with
          mediaIndex := (domTime a a.ref.anchor (2 ^ 17 * a.tmb.c) * fsM a / (1000000000 * 65536)).toNat, mediaC := a.tmb.c
          mediaSet := true, acqEdge := false } }) ∧
    (restored → does (.wtr i) ((s.fset (REF_CAND_STATUS_STATE i) 3).fset (REF_CAND_STATUS_REASON i) 0)) ∧
    (¬ restored → does (.wtr i) s) ∧
    (locks → s.defers = true → does .lock { s with ref := { s.ref with lockAt := none, lockPend := true } }) ∧
    (locks → s.defers = false → does .lock ({ s with ref := { s.ref with lockAt := none } }.fset REF_STATUS_LOOP 2)) ∧
    (¬ locks → does .lock s) ∧
    (¬ disputes → does (.dispute i) s) ∧
    (disputes → s.on REF_STATUS_HIST_OK = true → does (.dispute i)
      (raise (((s.fset (REF_CAND_STATUS_STATE bad) 4).fset (REF_CAND_STATUS_REASON bad) 5).setCand bad
        { s.cand bad with dispS := 0, agreeS := 0 }) (srcOf 55 6) (plain 0 i 0 0))) ∧
    (disputes → s.on REF_STATUS_HIST_OK = false → does (.dispute i)
      (raise ((s.fset (REF_CAND_STATUS_DISPUTED i) 1).fset (REF_CAND_STATUS_DISPUTED sel) 1) (srcOf 55 6) (plain 0 i 0 0))) ∧
    (∃ t, does (.historySecond fs) t ∧ t.ref.hist = hist ∧ t.ref.ySum = 0 ∧ t.ref.yN = 0 ∧ t.ref.yBad = false ∧
      t.fget REF_STATUS_HIST_S = hist.length % 1024 ∧ (t.on REF_STATUS_HIST_OK = true ↔ 60 ≤ hist.length) ∧
      (∀ e ∈ fs, t.rd (REF_CAND_FREQ e.1) = if failReason s e.1 = some 1 then 0 else e.2) ∧ t.mem = s.mem ∧ t.tmb = s.tmb) ∧
    (blockDown s REF_CTRL = true → does .histClr s ∧ does .suspClr s) ∧
    (blockDown s REF_CTRL = false → ∃ t, does .histClr t ∧ t.fget REF_STATUS_HIST_S = 0 ∧ t.on REF_STATUS_HIST_OK = false ∧
      t.get64 REF_HOLD_FFO = 0 ∧ regsBut s t ([REF_STATUS_HIST_S, REF_STATUS_HIST_OK] ++ pairWords REF_HOLD_FFO) ∧
      t = { s with regs := t.regs, ref := { s.ref with hist := [] } }) ∧
    (blockDown s REF_CTRL = false → ∃ t, does .suspClr t ∧
      (st i = 4 → t.fget (REF_CAND_STATUS_STATE i) = 2 ∧ t.fget (REF_CAND_STATUS_REASON i) = 0 ∧
        t.cand i = { s.cand i with wtrAt := s.tmb.c, dispS := 0, agreeS := 0 }) ∧
      (st i ≠ 4 → t.rd (REF_CAND_STATUS i) = s.rd (REF_CAND_STATUS i) ∧ t.cand i = s.cand i) ∧
      t = { s with regs := t.regs, ref := { s.ref with cands := t.ref.cands } }) ∧
    (blockDown s REF_DCO_FFO = true → does (.dcoFfoWrite v) s) ∧
    (blockDown s REF_DCO_FFO = false → s.on REF_CTRL_OPEN = false → does (.dcoFfoWrite v)
      (raise s 2 (plain 3 0 0 REF_DCO_FFO))) ∧
    (blockDown s REF_DCO_FFO = false → s.on REF_CTRL_OPEN = true → ∃ t, does (.dcoFfoWrite v) t ∧
      t.refY = max (-140737488355) (min 140737488355 v.toInt) ∧ regsBut s t (pairWords REF_DCO_FFO) ∧ t = { s with regs := t.regs }) ∧
    (∃ t, does (edge false) t ∧
      (k.missing = 4 → noted { k with inPlace := 0 } t) ∧
      (k.missing = 3 → noted { k with missing := 4, inPlace := 0, period := 0, lastTs := none } t) ∧
      (k.missing < 3 → noted { k with missing := k.missing + 1, lastTs := k.lastTs.map (· + k.period) } t)) ∧
    (k.lastTs = none → ∃ t, does (edge true) t ∧ noted { k with lastTs := some ts, inPlace := 0 } t) ∧
    (∀ l, k.lastTs = some l → k.period = 0 → ∃ t, does (edge true) t ∧
      noted { k with lastTs := some ts, period := ts - l, inPlace := 0 } t) ∧
    (∀ l, k.lastTs = some l → k.period ≠ 0 → 16 * (ts - l) ≤ 17 * k.period → 15 * k.period ≤ 16 * (ts - l) →
      ∃ t e, does (edge true) t ∧ (a.fget (REF_CAND_AUX_RATE (8 + w)) = 3 → e = k.e) ∧
        (a.fget (REF_CAND_AUX_RATE (8 + w)) ≠ 3 →
          e = edgeErr a (8 + w) (fsM a * 2 ^ a.fget (REF_CAND_AUX_RATE (8 + w)) / 2) ts) ∧
        (k.missing = 4 → k.inPlace + 1 < 16 → noted { k with
          lastTs := some ts, period := ts - l, inPlace := k.inPlace + 1, missing := 4, e := e } t) ∧
        (k.missing ≠ 4 ∨ 16 ≤ k.inPlace + 1 → noted { k with
          lastTs := some ts, period := ts - l, inPlace := 0, missing := 0, e := e } t)) ∧
    (∀ l, k.lastTs = some l → k.period ≠ 0 → ¬ (16 * (ts - l) ≤ 17 * k.period ∧ 15 * k.period ≤ 16 * (ts - l)) →
      k.missing = 4 → ∃ t, does (edge true) t ∧ noted { k with lastTs := some ts, period := 0, inPlace := 0 } t) ∧
    (∀ l, k.lastTs = some l → k.period ≠ 0 → ¬ (16 * (ts - l) ≤ 17 * k.period ∧ 15 * k.period ≤ 16 * (ts - l)) →
      k.missing < 4 → ∃ t, does (edge true) t ∧ noted (if k.missing = 3
        then { k with missing := 4, inPlace := 0, period := 0, lastTs := none } else { k with missing := k.missing + 1 }) t) ∧
    (blockDown s (REF_CAND_STATUS i) = false → (readWord s .host (REF_CAND_STATUS i)).2.toNat / 2 ^ 7 % 8 = candRank s i) ∧
    (blockDown s (REF_CAND_STATUS 15) = false → (readWord s .host (REF_CAND_STATUS 15)).2.toNat % 8 = 3) ∧
    (∀ j n, j < 2 →
      let en := s.on (if j = 0 then REF_WCKO_CFG_EN0 else REF_WCKO_CFG_EN1)
      let rate := s.fget (if j = 0 then REF_WCKO_CFG_RATE0 else REF_WCKO_CFG_RATE1)
      let pol := s.on (if j = 0 then REF_WCKO_CFG_POL0 else REF_WCKO_CFG_POL1)
      (en = false ∨ rate = 3 ∨ s.drivesBalls = false → wckoLevel s j n = none) ∧
      (en = true → rate < 3 → s.drivesBalls = true →
        (n % (8192 / 2 ^ rate) = 0 → wckoLevel s j n = some (!pol)) ∧
        (n % (8192 / 2 ^ rate) + 1 = 8192 / 2 ^ rate → wckoLevel s j n = some pol)))

/-! ## The network (09) -/

/-- R231 to R238, R261, R278, R408, Table 9.2: frames in and out, links, and low-power idle. -/
def Obligations.FramesAndLinks : Prop :=
  ∀ (s : State) (ag : Agent) (p c phase sub req : Nat) (bs : List Byte) (one ts : Bool) (v : W32) (line : LineErr), p < 6 →
    c < 2 ^ 64 → phase < 2 ^ 17 → sub < 2 ^ 16 →
    let does (k : Instr) (t : State) : Prop := exec k s = .next t
    let a := advance s c
    let len := bs.length + 4
    let e := ethOf bs
    let frame := Instr.frameReceived p bs line c phase sub
    let up : Prop := a.link p = true ∧ p ∉ a.pwr.nets
    let add (u : State) (i n : Nat) : State := if n = 0 then u else addStat u p true i n
    let l := (add (add (add a 29 line.pcs) 30 line.corrected) 31 line.uncorrectable).fset ⟨NET_STATUS p, 4, 1⟩ 0
    let lost := addStat l p true 32 1
    let room : Prop := up ∧ line.full = false
    let r := addStat l p true 1 len
    let longest := min 9216 (r.fget (NET_MTU_MAXLEN p))
    let g := frameStats r p true bs
    let good : Prop := room ∧ line.fcsOk = true ∧ 64 ≤ len ∧ len ≤ longest
    let other := if p = 4 then 5 else 4
    let pause : Prop := e.type = 0x8808 ∧ (be bs e.pl 2 = 0x0001 ∨ be bs e.pl 2 = 0x0101)
    let own : Prop := g.convoyPort p = true ∧ (e.sa = portMac g 4 ∨ e.sa = portMac g 5)
    let mine : Prop := good ∧ ¬ pause ∧ ¬ own ∧ addressed g p e = true
    let carried : Prop := good ∧ ¬ pause ∧ ¬ own ∧ addressed g p e = false ∧ g.convoyPort p = true ∧ len ≤ 1522
    let data : Prop := mine ∧ vlanOk g p e = true ∧ ptpOf e bs = none
    let cfg := if p < 4 then v.toNat % 64 else v.toNat % 128
    let w0 := (s.wr (NET_CFG p) (BitVec.ofNat 32 cfg)).wr (NET_STATUS p) 0
    let w1 := if s.link p = true then raise w0 (srcOf (48 + p) 0) 0 else w0
    let sleeps : Prop := s.link p = true ∧ s.on (NET_EEE_EN p) = true ∧ s.fget (NET_EEE_TW_SYS p) ≠ 0 ∧
      bit (s.fget (NET_STATUS_LPI p)) 1 = false
    let fec := s.fget (NET_CFG_FEC p)
    let sends := Instr.frameFromManagement p bs one ts req c phase
    (¬ up → does frame a) ∧
    (up → line.full = true → does frame
      (if ((lost.net p).bufDropAt.all fun t => decide (t + 500000000 ≤ lost.tmb.c)) = true
        then raise (lost.setNet p { lost.net p with bufDropAt := some lost.tmb.c }) (srcOf (48 + p) 2) 0 else lost)) ∧
    (room → line.fcsOk = false → does frame (addStat r p true (if len < 64 then 27 else if longest < len then 28 else 24) 1)) ∧
    (room → line.fcsOk = true → len < 64 → does frame (addStat r p true 25 1)) ∧
    (room → line.fcsOk = true → 64 ≤ len → longest < len → does frame (addStat r p true 26 1)) ∧
    (good → pause → does frame (addStat g p true 7 1)) ∧
    (good → ¬ pause → own → does frame g) ∧
    (good → ¬ pause → ¬ own → addressed g p e = false → ¬ (g.convoyPort p = true ∧ len ≤ 1522) →
      does frame (addStat g p true 14 1)) ∧
    (carried → ptpOf e bs = none → does frame (sendFrame g other 14 bs)) ∧
    (∀ o, carried → ptpOf e bs = some o → does frame (forwardPtp g p o c phase bs)) ∧
    (mine → vlanOk g p e = false → does frame (addStat g p true 14 1)) ∧
    (∀ o, mine → vlanOk g p e = true → ptpOf e bs = some o → does frame (takePtp g p o c phase bs)) ∧
    (∀ m, data → matchStream g p e bs = some m → does frame (takeStream g p m.1 m.2 e bs sub)) ∧
    (data → matchStream g p e bs = none → mgmtFrame e bs = false → does frame (addStat g p true 14 1)) ∧
    (data → matchStream g p e bs = none → mgmtFrame e bs = true → ∃ t, does frame t ∧
      (t.net p).toMgmt = (a.net p).toMgmt ++ [(c, bs)] ∧ t.mem = a.mem ∧ t.rx = a.rx ∧
      (∀ out, resolveAnswer a p e bs = some out → (t.net p).sent = out :: (a.net p).sent) ∧
      (resolveAnswer a p e bs = none → (t.net p).sent = (a.net p).sent)) ∧
    (∀ (u : State) (rx : Bool) (n m : Nat), n < 34 → m < 2 ^ 39 → let off := if rx = true then NET_STAT_RX p n else NET_STAT_TX p n
      u.get64 off + m < 2 ^ 39 → (addStat u p rx n m).get64 off = u.get64 off + m ∧
        regsBut u (addStat u p rx n m) (pairWords off) ∧ addStat u p rx n m = { u with regs := (addStat u p rx n m).regs }) ∧
    (netMode s p = 0 ∨ p ∈ s.pwr.nets → does (.linkChange p true) s) ∧
    (netMode s p ≠ 0 → p ∉ s.pwr.nets → does (.linkChange p true)
      ((((s.fset (NET_STATUS_LINK p) 1).fset (NET_STATUS_BLOCK_LOCK p) (if netMode s p ≤ 2 then 1 else 0)).fset
        (NET_STATUS_FEC_LOCK p) (if fec = 1 ∨ fec = 2 then 1 else 0)).fset (NET_STATUS_AN_DONE p)
          (if netMode s p = 4 ∨ (netMode s p = 3 ∧ s.on (NET_CFG_AN p) = true) then 1 else 0))) ∧
    (does (.linkChange p false) (if s.link p = true then raise (s.wr (NET_STATUS p) 0) (srcOf (48 + p) 0) 0 else s)) ∧
    (blockDown s (NET_CFG p) = true → does (.netCfgWrite ag p v) s) ∧
    (blockDown s (NET_CFG p) = false → does (.netCfgWrite ag p v)
      (if cfg % 8 ≠ 0 ∧ modeAllowed p (cfg % 8) = false then raise w1 2 (plain 3 0 0 (NET_CFG p)) else w1)) ∧
    (¬ sleeps → does (.lpiEntry ⟨p, false⟩) s) ∧
    (sleeps → does (.lpiEntry ⟨p, false⟩) (addStat (s.fset ⟨NET_STATUS p, 5, 1⟩ 1) p false 26 1)) ∧
    (does (.lpiEntry ⟨p, true⟩)
      (if s.link p = true ∧ s.on (NET_EEE_EN p) = true then s.fset ⟨NET_STATUS p, 4, 1⟩ 1 else s)) ∧
    (ptpOf e bs = none ∨ (one = false ∧ ts = false) → does sends (sendFrame a p 13 bs)) ∧
    (∀ o, ptpOf e bs = some o → let out := if one = true then oneStepInsert a bs o (egressTs a p c phase) req else bs
      let kind := be out o 1 % 16
      (8 ≤ kind → does sends (sendFrame (readTs a p kind (be out (o + 4) 1) (be out (o + 30) 2)) p 13 out)) ∧
      (kind < 8 → ts = false ∨ a.link p = false → does sends (sendFrame a p 13 out)) ∧
      (ts = true → a.link p = true → kind < 8 → (a.net p).tsq.length < 64 →
        does sends (sendFrame (a.setNet p { a.net p with tsq := (a.net p).tsq ++
          [⟨kind, be out (o + 4) 1, be out (o + 30) 2, (egressTs a p c phase).toNat⟩] }) p 13 out)) ∧
      (ts = true → a.link p = true → kind < 8 → 64 ≤ (a.net p).tsq.length →
        does sends (sendFrame (raise (a.count (NET_TS_QSTAT_QDROP p) 1) (srcOf (48 + p) 4) 0) p 13 out))) ∧
    (∀ kind event dom seq, (kind = 8 ∧ event = 0) ∨ (kind = 9 ∧ event = 1) ∨ (kind = 10 ∧ event = 3) →
      (∀ t before rest, (a.net p).tsq = before ++ t :: rest → t.mtype = event → t.domain = dom → t.seqId = seq →
        (∀ u ∈ before, ¬ (u.mtype = event ∧ u.domain = dom ∧ u.seqId = seq)) →
        readTs a p kind dom seq = a.setNet p { a.net p with tsq := rest }) ∧
      ((∀ u ∈ (a.net p).tsq, ¬ (u.mtype = event ∧ u.domain = dom ∧ u.seqId = seq)) → readTs a p kind dom seq = a)) ∧
    (∀ u : State, (u.link p = false → sendFrame u p 13 bs = addStat u p false 25 1) ∧
      (u.link p = true → ((sendFrame u p 13 bs).net p).sent = bs :: (u.net p).sent ∧
        (sendFrame u p 13 bs).mem = u.mem ∧ (sendFrame u p 13 bs).tmb = u.tmb))

/-- R242 to R249, R251, R258 to R261, R276 to R281, Table 9.10: packets of streams, and the caravans of a ring. -/
def Obligations.PacketsAndCaravans : Prop :=
  ∀ (s : State) (i c phase : Nat) (bs : List Byte) (ok b : Bool), i < 1024 → c < 2 ^ 64 → phase < 2 ^ 17 →
    let does (k : Instr) (t : State) : Prop := exec k s = .next t
    let a := advance s c
    let e := ethOf bs
    let ready (u : State) : Prop := let d := txDesc u i
      let x := u.txs i
      x.state = 2 ∧ d.fmt ≠ 4 ∧ 1 ≤ d.p ∧ packetComplete x d x.nextI = true ∧ beforeStop x d = true
    let begins (u : State) : Nat := 2048 * (4 * ((u.txs i).nextI + (txDesc u i).p) / 2 ^ (txDesc u i).dom)
    let late (u : State) : Prop := begins u + 4096 * u.tlen < fclkNow u
    let d := txDesc a i
    let x := a.txs i
    let due : Prop := ready a ∧ a.reached (begins a) = true
    let safe : Bool := decide (1 ≤ a.fget FLT_STATUS_STATE)
    let ws := packetWords x d x.nextI
    let wire := ws.map fun f => f.map fun w => (sendWord d.dw d.data (if safe || !w.live then 0 else w.word)).1
    let live := (List.range d.ch).map fun (j : Nat) => !safe && ws.all fun f => ((f[j]?).map (·.live)).getD false
    let dl := txDesc s i
    let y := s.txs i
    let drops : Prop := ready s ∧ late s ∧ ∃ q ∈ sendPaths s dl y, q.2 = b
    let z := addStat s (if b = true then dl.portB else dl.portA) false 24 1
    let gone : Bool := (pathPorts dl true).all fun q => if q.2 then y.dropB || b else y.dropA || !b
    let dropped := { y with dup := BitVec.ofNat 32 (min (y.dup.toNat + 1) (2 ^ 32 - 1)), dropA := y.dropA || !b, dropB := y.dropB || b }
    let rx := s.rxs i
    let upto := ((presentedIn s (rxDesc s i) (s.k + 1)).getLastD 0 + 1).toNat
    let phase' := if a.fget NET_CV_CFG_PHASE < a.tlen then a.fget NET_CV_CFG_PHASE else 0
    let now' : Prop := ringRuns a = true ∧ cvMaster a = true ∧ a.reached (4096 * (a.k * a.tlen + phase')) = true ∧
      a.convoy.sentK ≠ some a.k
    let once := { a with convoy := { a.convoy with sentK := some a.k } }
    let back := if a.k < cvRet a then none else returned once (a.k - cvRet a)
    let cs := if back.isNone = true then once.count NET_CV_CNT_LOST 1 else once
    let ring : Prop := a.link 5 = true ∧ 5 ∉ a.pwr.nets ∧ ringRuns a = true
    let q := (macChecks a 5 bs ok).1
    let held := addStat q 5 true 12 1
    let fits : Prop := ring ∧ (macChecks a 5 bs ok).2 = true ∧ cvFits held bs e.pl = true
    let hops := be bs (e.pl + 15) 1
    let kc := be bs (e.pl + 4) 8
    let hopped := held.fset NET_CV_STATUS_HOPS hops
    let slots := cvSlots bs e.pl (cvC held) held.tlen
    let noted := { hopped with convoy := { hopped.convoy with ring := ((kc, slots) :: hopped.convoy.ring).take 32, silent := 0 } }
    let kept := noted.fset NET_CV_STATUS_RING 1
    let tardy := noted.count NET_CV_CNT_LATE 1
    let came := Instr.caravanReceived bs ok c
    (¬ due → does (.packetDue i c phase) a) ∧
    (due → does (.packetDue i c phase) ((aheadOf a i ++ [i]).foldl leave a)) ∧
    (due → late a → aheadOf a i = [] → ∀ q, sendPaths a d x = [q] → does (.packetDue i c phase) (dropCopy a i q.2)) ∧
    (due → ¬ late a → aheadOf a i = [] → ∃ t, does (.packetDue i c phase) t ∧ (t.txs i).nextI = x.nextI + d.p ∧ (t.txs i).seq = x.seq + 1 ∧
      (t.txs i).dropA = false ∧ (t.txs i).dropB = false ∧ (∀ j, j ≠ i → t.txs j = a.txs j) ∧ t.mem = a.mem ∧ t.rx = a.rx ∧
      (∀ pt pb, sendPaths a d x = [(pt, pb)] → a.link pt = true →
        (t.net pt).sent = packetBytes d pb x.nextI x.seq wire live :: (a.net pt).sent)) ∧
    (¬ drops → does (.lateDrop i b) s) ∧
    (drops → does (.lateDrop i b) (z.setTxs i (if gone = true then { dropped with
      nextI := y.nextI + dl.p, seq := y.seq + 1, dropA := false, dropB := false } else dropped))) ∧
    (rx.state ≠ 2 → does (.takePoint i) s) ∧
    (rx.state = 2 → (rxDesc s i).fmt = 4 → does (.takePoint i) (caravanTake s i)) ∧
    (rx.state = 2 → (rxDesc s i).fmt ≠ 4 → ∃ t, does (.takePoint i) t ∧ t = Machine.takePoint s i ∧
      (∀ w ∈ (t.rxs i).jb, 256 * upto ≤ w.1) ∧ (∀ j, j ≠ i → t.rxs j = s.rxs j) ∧ t.tx = s.tx) ∧
    (¬ now' → does (.caravanSend c) a) ∧
    (now' → does (.caravanSend c) (sendFrame cs 4 12 (cvHeader cs ++ cvPayload cs cs.k 0
      (overwrite cs cs.k (back.getD (List.replicate (cvC cs) (false, List.replicate cs.tlen 0))))))) ∧
    (¬ ring → does came a) ∧
    (ring → (macChecks a 5 bs ok).2 = false → does came q) ∧
    (ring → (macChecks a 5 bs ok).2 = true → cvFits held bs e.pl = false → does came (addStat held 5 true 33 1)) ∧
    (fits → cvLate held kc = true → does came (if cvMaster tardy = true then tardy else
      sendFrame tardy 4 12 (bs.take e.pl ++ cvPayload tardy kc (hops + 1) slots))) ∧
    (fits → cvLate held kc = false → does came (if cvMaster kept = true then kept else
      sendFrame kept 4 12 (bs.take e.pl ++ cvPayload kept kc (hops + 1) (overwrite kept kc slots)))) ∧
    (∀ u : State, (runningRx u).filter (fun j => (rxDesc u j).fmt == 4) = [] → ∀ n,
      (cvLate u n = true ↔ 4096 * ((n + max 2 (u.fget NET_CV_CFG_LAT)) * u.tlen - 1) < fclkNow u)) ∧
    (¬ (s.on NET_CV_STATUS_RING = true ∧ 4 ≤ s.convoy.silent) → does .ringDown s) ∧
    (s.on NET_CV_STATUS_RING = true → 4 ≤ s.convoy.silent →
      does .ringDown (raise (s.fset NET_CV_STATUS_RING 0) (srcOf 54 1) 0))

/-! ## Embers and twins (12) -/

/-- R308 to R312, R314, R463, Tables 12.1 and 12.8: copies, slots, self-tests and what they decide. -/
def Obligations.EmberEvents : Prop :=
  ∀ (s : State) (cl : Nat) (hf : Bool) (fails : List Nat), cl < 26 → (∀ x ∈ fails, x < 26) →
    let does (i : Instr) (t : State) : Prop := exec i s = .next t
    let k := s.cluster cl
    let slot := s.fget EMB_STATUS_SLOT_TICK + 1
    let h := s.fget EMB_STATUS_SHADOW
    let ends : Prop := s.ember.slotOn = true ∧ s.on EMB_CFG_ROT_EN = true ∧ max 256 (s.fget EMB_CFG_ROT_TICKS) ≤ slot
    let tested : Prop := s.ember.slotOn = true ∧ s.fget EMB_STATUS_PHASE = 0 ∧ s.ember.bistDone = false ∧
      max 4 (s.fget EMB_CFG_BIST_TICKS) ≤ slot
    let ps := (participants s).filter fun c => s.role c == roleTest
    let bist (u : State) (c : Nat) : State := if fails.contains c then raise u (srcOf (c + 2) 13) 0
      else (u.count (EMB_HLTH_BIST_PASS c) 1).set64 (EMB_HLTH_LAST c) u.n
    let due := s.ember.tests.find? fun t => decide (64 ≤ t.ticks)
    let es (t : SelfTest) := t.embers.filter fun e => s.role e == roleTest
    let bad (t : SelfTest) := (es t).filter fun e => fails.contains e
    let good (t : SelfTest) := (es t).filter fun e => !fails.contains e
    let own (t : SelfTest) : Prop := s.carrier t.hearth = some t.unit
    let noted (t : SelfTest) : State :=
      let u := if own t then (if hf = true then raise s (srcOf (t.unit + 2) 13) 0
        else (s.count (EMB_HLTH_BIST_PASS t.unit) 1).set64 (EMB_HLTH_LAST t.unit) s.n) else s
      let v := (es t).foldl bist u
      { v with ember := { v.ember with tests := v.ember.tests.filter fun x => x != t } }
    let back (u : State) (l : List Nat) : State := l.foldl toEmber u
    (s.carrier (s.lhOf cl) = none ∨ k.joinAt = none ∨ k.copied = true → does (.backgroundCopyDone cl) s) ∧
    (∀ c, s.carrier (s.lhOf cl) = some c → k.joinAt ≠ none → k.copied = false →
      does (.backgroundCopyDone cl) ((copyCluster s c cl).setCluster cl { k with copied := true }) ∧
      (Memory.wf s.mem = true → s.mtx.ue = [] → ∀ b, Memory.rd (copyCluster s c cl).mem b =
        if clusterBase cl ≤ b ∧ b < clusterBase cl + 0x480000 then Memory.rd s.mem (b - clusterBase cl + clusterBase c)
        else Memory.rd s.mem b)) ∧
    (¬ ends → does .shadowSlotEnd s) ∧
    (ends → ∃ t, does .shadowSlotEnd t ∧ t.fget EMB_STATUS_SHADOW = 0x1F ∧ t.fget EMB_STATUS_SLOT_TICK = 0 ∧
      t.ember = { s.ember with slotOn := false, endSlot := false, bistDone := false } ∧ t.mem = s.mem ∧
      (s.role cl = roleEmber → s.lhOf cl = h → inTakeover s cl = false → t.lhOf cl = 0x1F ∧ (t.cluster cl).inStep = false ∧
        (t.cluster cl).joinAt = none ∧ (t.cluster cl).image = none) ∧
      (s.inStepWith h ≠ [] → k.clean = true → s.carrier h = some cl ∨ cl ∈ s.inStepWith h →
        t.fget (EMB_HLTH_VOTE_PASS cl) = min (s.fget (EMB_HLTH_VOTE_PASS cl) + 1) 0xFFFF)) ∧
    (¬ tested → does (.bistEnd fails) s) ∧
    (tested → ∃ u, does (.bistEnd fails) { u with ember := { u.ember with bistDone := true } } ∧ u = ps.foldl (fun v c =>
      if fails.contains c = true then convictEmber (bist v c) c whyBist else bist v c) s) ∧
    (due = none → does (.targetedSelfTest hf fails) s) ∧
    (∀ t, due = some t → bad t ≠ [] → ¬ (hf = true ∧ own t) → does (.targetedSelfTest hf fails)
      (back ((bad t).foldl (fun u e => convictEmber u e whyBist) (noted t)) (good t))) ∧
    (∀ t e l, due = some t → bad t = [] → good t = e :: l → hf = true → own t → does (.targetedSelfTest hf fails)
      (addTakeover (beginJoinAt (back (noted t) l) e t.hearth (s.sch.elapsed + 1))
        ⟨t.hearth, t.unit, e, whyBist, some (s.sch.elapsed + 5)⟩)) ∧
    (∀ t, due = some t → (bad t = [] ∧ (good t = [] ∨ ¬ (hf = true ∧ own t))) ∨ (bad t ≠ [] ∧ hf = true ∧ own t) →
      does (.targetedSelfTest hf fails)
        (raise ((back (noted t) (es t)).count EMB_CNT_UNDECIDED 1) (srcOf 57 1) 0)) ∧
    (∀ (u : State) (w : Nat), w < 8 →
      (u.role cl = roleRetired ∨ u.role cl = roleHearth → convictEmber u cl w = u) ∧
      (u.role cl ≠ roleRetired → u.role cl ≠ roleHearth → (convictEmber u cl w).role cl = roleRetired ∧
        (convictEmber u cl w).lhOf cl = 0x1F ∧ (convictEmber u cl w).fget (EMB_MAP_WHY cl) = w ∧
        cl ∈ (convictEmber u cl w).pwr.clusters ∧
        (convictEmber u cl w).fget EMB_CNT_CONVICT = min (u.fget EMB_CNT_CONVICT + 1) 0xFF))

/-- R315, R316, R318, R319, R326, R328, R408, Tables 12.4, 12.6 and 12.9: a pair forms, settles, is left and is lost. -/
def Obligations.PairForms : Prop :=
  ∀ (s : State) (run up : Bool) (j : W64) (lane c : Nat) (items : List JoinItem), lane < 2 → c < 2 ^ 64 →
    let does (i : Instr) (t : State) : Prop := exec i s = .next t
    let p := s.fget TWN_STATUS_PAIR
    let paired (u : State) (n : Nat) : State :=
      ((u.fset TWN_STATUS_PAIR n).fset TWN_STATUS_WHY 0).fset TWN_STATUS_PRESENT (if n = 3 then 1 else 0)
    let left (u : State) (why : Nat) : State :=
      { ((u.fset TWN_STATUS_PAIR 5).fset TWN_STATUS_WHY why).fset TWN_STATUS_PRESENT 0 with
        twin := { u.twin with handover := none, driving := false } }
    let sends (u : State) (type : Nat) (bs : List Byte) : State :=
      { u with twin := { u.twin with
        sent := twinFrame u type bs :: u.twin.sent, seqs := Tbl.put 0 u.twin.seqs type (Tbl.get 0 u.twin.seqs type + 1) } }
    let ready : Prop := s.pwr.twinRst = false ∧ (∀ y, y = 3 ∨ y = 4 → y ∉ s.pwr.lowSupply) ∧
      ∀ b, b = 4 ∨ b = 13 → b ∉ s.pwr.lostClk
    let l := if s.fget TWN_STATUS_LANE_UP = 0 then s.fset TWN_STATUS_LANE_UP 3 else s
    let forms : Prop := ready ∧ l.on TWN_CFG_EN = true ∧ (l.pair = 0 ∨ (l.pair = 5 ∧ l.lead = true))
    let joins : Prop := p = 1 ∧ ∃ w, s.twin.joinTick = some w ∧ w.toNat ≤ s.k
    let fails : Prop := p = 2 ∧ 65536 ≤ s.twin.inPair
    let was := s.fget TWN_STATUS_LANE_UP
    let now := putBits was lane 1 (if up = true then 1 else 0)
    let a := advance s c
    let f := ((List.range 16).map (· + 224)).foldl flushBox (a.fset TWN_STATUS_LANE_UP 0)
    let q := f.fget TWN_STATUS_PAIR
    let h := nextH f (fclkNow f)
    let r := raise f (srcOf 56 3) 0
    let w := { r with twin := { r.twin with awaiting := false, peer := none, leadOut := false } }
    let lost : Prop := f.on TWN_CFG_EN = true ∧ q ≠ 0
    let fenced := abortSwap w
    let leads := paired ((((abortSwap w).fset TWN_STATUS_ROLE 0).count TWN_CNT0_HANDOVERS 1).set64 TWN_HO_FCLK h) 0
    (¬ ready → does (.twinLinkUp run) s) ∧
    (ready → ¬ forms → does (.twinLinkUp run) l) ∧
    (forms → l.running = true → run = true → l.fget TWN_STATUS_STRAP = 1 → does (.twinLinkUp run)
      (sends { paired l 1 with
        twin := { l.twin with handover := some ⟨nextH l (fclkNow l), 1, false, 4⟩ } } 4 (leBytes 8 (nextH l (fclkNow l))))) ∧
    (forms → l.running = true → run = false ∨ l.fget TWN_STATUS_STRAP = 0 →
      does (.twinLinkUp run) (paired (l.fset TWN_STATUS_ROLE 0) 1)) ∧
    (forms → l.running = false → run = true → does (.twinLinkUp run) (paired (l.fset TWN_STATUS_ROLE 1) 1)) ∧
    (forms → l.running = false → run = false →
      does (.twinLinkUp run) (paired (l.fset TWN_STATUS_ROLE (l.fget TWN_STATUS_STRAP)) 1)) ∧
    (p = 1 → s.k + 2 ≤ j.toNat → does (.joinCopyDone j) { s with twin := { s.twin with joinTick := some j } }) ∧
    (¬ (p = 1 ∧ s.k + 2 ≤ j.toNat) → does (.joinCopyDone j) s) ∧
    (¬ joins → does .joinTick s) ∧
    (joins → does .joinTick { paired s 2 with twin := { s.twin with
      joinTick := none, agree := 0, inPair := 0, awaiting := false, peer := none, record := none, decisions := none
      settleFor := max (s.fget TWN_CFG_SETTLE) (longestLine s + 4) } }) ∧
    (p = 2 → 64 ≤ s.twin.agree → does .settled (paired s 3)) ∧
    (¬ (p = 2 ∧ 64 ≤ s.twin.agree) → does .settled s) ∧
    (¬ fails → does .joinFail s) ∧
    (fails → s.lead = false ∨ s.on TWN_CFG_AUTO_RST = false → does .joinFail (left s 4)) ∧
    (fails → s.lead = true → s.on TWN_CFG_AUTO_RST = true → does .joinFail (sends (left s 4) 8 [])) ∧
    (p = 4 → 4096 ≤ s.twin.agree → does .disputeCleared { paired s 3 with twin := { s.twin with disputed := 0 } }) ∧
    (¬ (p = 4 ∧ 4096 ≤ s.twin.agree) → does .disputeCleared s) ∧
    (s.lead = true ∨ p ≠ 1 → does (.join items) s) ∧
    (s.lead = false → p = 1 → does (.join items) (items.foldl joinItem s)) ∧
    (∀ (u : State) (off : Nat) (v : W32), off % 4 = 0 → off / 0x10000 ≠ 5 → off / 0x10000 ≠ 6 → off / 0x10000 ≠ 0xE →
      let m := BitVec.ofNat 32 (rwMask off)
      let t := u.wr off ((u.rd off &&& ~~~m) ||| (v &&& m))
      (¬ (0x100000 ≤ off ∧ off < 0x130000 ∧ off % 0x1000 = 0) → off ≠ SCH_TICK_CFG → off ≠ HIF_CTRL → parityWord off = false →
        joinItem u (.reg off v) = t) ∧
      (off = SCH_TICK_CFG → joinItem u (.reg off v) = t.fset SCH_STATUS_TICK_ACT (t.fget SCH_TICK_CFG_TICK_LEN)) ∧
      (off = HIF_CTRL → joinItem u (.reg off v) = t.fset HIF_STATUS_RUN (t.fget HIF_CTRL_EN)) ∧
      (parityWord off = true → joinItem u (.reg off v) =
        let l := u.flt.badParity.filter (· ≠ off)
        let w := { t with flt := { t.flt with badParity := l } }
        if l = [] then w.fset FLT_STATUS_PARITY_ERR 0 else w) ∧
      ∀ q < 48, off = PRT_MODE q → joinItem u (.reg off v) =
        if t.mode q = 4 ∧ u.mode q ≠ 4 then startSense t q
        else if t.mode q ≠ 4 ∧ u.mode q = 4 then groupRest (stopSense t q) (q / 8) else t) ∧
    (blockDown s TWN_CTRL = true → does .detach s ∧ does .rejoin s ∧ does .clrDispute s) ∧
    (blockDown s TWN_CTRL = false →
      does .detach (if s.lead = false then left s 5 else s) ∧
      does .rejoin (if s.on TWN_CFG_EN = true ∧ p = 5 then paired s 1 else s) ∧
      does .clrDispute (if s.lead = true ∧ p = 4 then { paired s 3 with twin := { s.twin with disputed := 0 } } else s)) ∧
    (¬ lost → does (.peerLost c) f) ∧
    (lost → q = 3 → w.lead = true → does (.peerLost c)
      { fenced with twin := { fenced.twin with handover := none, fenceAt := some (h + 3072) } }) ∧
    (lost → q = 3 → w.lead = false → does (.peerLost c)
      { leads with twin := { leads.twin with
          driving := false, handover := none,
          leadFrom := a.tmb.c + ((h - 1 - fclkNow leads) * 500000000 + 4096 * fsM leads - 1) / (4096 * fsM leads) } }) ∧
    (lost → q ≠ 3 → w.lead = true → does (.peerLost c)
      (pendingFault { paired w 0 with twin := { w.twin with handover := none } })) ∧
    (lost → q ≠ 3 → w.lead = false → does (.peerLost c) (left w (if q = 5 then w.fget TWN_STATUS_WHY else 0))) ∧
    (up = false ∨ ready → does (.twinLaneChange lane up) (if was = 3 ∧ now ≠ 3
      then raise (s.fset TWN_STATUS_LANE_UP now) (srcOf 56 0) 0 else s.fset TWN_STATUS_LANE_UP now)) ∧
    (up = true → ¬ ready → does (.twinLaneChange lane up) (s.fset TWN_STATUS_LANE_UP was))

/-- R320 to R326, R328, R329, R330, R351, Table 12.5: records, their comparison, and handovers. -/
def Obligations.PairRuns : Prop :=
  ∀ (s : State) (rec : TickRec) (i : Nat) (l : List Nat) (hc : W64), i < 1024 →
    let does (k : Instr) (t : State) : Prop := exec k s = .next t
    let p := s.fget TWN_STATUS_PAIR
    let joined : Prop := s.on TWN_CFG_EN = true ∧ 2 ≤ p ∧ p ≤ 4
    let paired (u : State) (n : Nat) : State :=
      ((u.fset TWN_STATUS_PAIR n).fset TWN_STATUS_WHY 0).fset TWN_STATUS_PRESENT (if n = 3 then 1 else 0)
    let c := checkDriving s rec
    let v := if c.lead = false ∧ rec.fromLead = true then
      discardRecords { c with twin := { c.twin with decisions := some rec } } rec else c
    let compares (own : TickRec) : Prop := v.twin.record = some own ∧ v.twin.awaiting = true ∧ own.k = rec.k
    let late := raise (s.count TWN_CNT1_LATE_REC 1) (srcOf 56 4) 0
    let waits := { late with twin := { late.twin with awaiting := false } }
    let ho := s.twin.handover
    let u := { s with twin := { s.twin with handover := none } }
    let acts : Prop := s.on TWN_CFG_EN = true ∧ p ≠ 0 ∧ p ≠ 5
    let sends (u : State) (type : Nat) (bs : List Byte) : State :=
      { u with twin := { u.twin with
        sent := twinFrame u type bs :: u.twin.sent, seqs := Tbl.put 0 u.twin.seqs type (Tbl.get 0 u.twin.seqs type + 1) } }
    let acked : State := sends s 5 (leBytes 8 hc.toNat)
    let freed (x : State) (h : Nat) : State :=
      ((x.count TWN_CNT0_HANDOVERS 1).fset TWN_STATUS_ROLE 1).set64 TWN_HO_FCLK h
    let gone := { s with twin := { s.twin with fenceAt := none } }
    (¬ joined → does (.tickRecord rec) s ∧ does .tickRecordLate s) ∧
    (joined → (¬ ∃ own, compares own) → does (.tickRecord rec) { v with twin := { v.twin with peer := some rec } }) ∧
    (∀ own, joined → compares own → does (.tickRecord rec) (twinCompare v own rec)) ∧
    (∀ (x : State) (own : TickRec), let m := mismatch own.sigs rec.sigs
      let still : Prop := x.pair = 2 ∧ x.twin.inPair < x.twin.settleFor
      let t := { x.twin with
        awaiting := false, peer := none, peerDone := rec.doneIdx, agree := if m ≠ 0 ∨ still then 0 else x.twin.agree + 1 }
      let y : State := { x with twin := t }
      let n := (y.count TWN_CNT0_MISMATCH 1).fset TWN_MISMATCH_MAP_CLASSES (x.fget TWN_MISMATCH_MAP_CLASSES ||| m.toNat)
      let lead := if x.lead = true then own else rec
      let shadow := if x.lead = true then rec else own
      (m = 0 → x.pair ≠ 4 ∨ x.twin.disputed = 0 → twinCompare x own rec = y) ∧
      (m ≠ 0 → x.pair = 2 → twinCompare x own rec = n) ∧
      (m ≠ 0 → x.pair = 3 → twinCompare x own rec =
        twinVerdict (raise n (srcOf 56 1) 0) m (lead.evidence &&& m != 0) (shadow.evidence &&& m != 0))) ∧
    (∀ (x : State) (m : BitVec 27),
      twinVerdict x m true false = (if x.lead = true then handOut x 0 else { x with twin := { x.twin with leadOut := true } }) ∧
      twinVerdict x m false true = (if x.lead = true then peerOut x 1 else detachPair x 1) ∧
      twinVerdict x m true true =
        { raise (paired x 4) (srcOf 56 2) 0 with
          twin := { (raise (paired x 4) (srcOf 56 2) 0).twin with disputed := 0, agree := 0 } } ∧
      (twinVerdict x m false false).pair = 4 ∧ (twinVerdict x m false false).twin = { x.twin with disputed := m, agree := 0 }) ∧
    (joined → s.twin.awaiting = false → does .tickRecordLate s) ∧
    (joined → s.twin.awaiting = true → does .tickRecordLate
      (if waits.twin.driving = true ∧ waits.twin.drivingH ≤ 4096 * waits.n then becomeLead waits true else waits)) ∧
    ((s.rxs i).state = 2 → joined → does (.arrive i l) (s.setRxs i { s.rxs i with peer := some l })) ∧
    (¬ ((s.rxs i).state = 2 ∧ joined) → does (.arrive i l) s) ∧
    (¬ acts → does (.handover hc) s) ∧
    (acts → s.lead = true → does (.handover hc) acked) ∧
    (acts → s.lead = false → does (.handover hc)
      { acked with twin := { acked.twin with driving := true, drivingH := hc.toNat } }) ∧
    (ho = none → does (.ack hc) s) ∧
    (∀ r, ho = some r → does (.ack hc)
      (if r.h = hc.toNat ∧ fclkNow s ≤ r.h - (4096 * fsM s + 999999) / 1000000
        then { s with twin := { s.twin with handover := some { r with acked := true } } } else s)) ∧
    (ho = none → s.twin.fenceAt = none → does .handoverInstant s) ∧
    (∀ f, ho = none → s.twin.fenceAt = some f → does .handoverInstant (pendingFault (detachPair (freed gone (f - 3072)) 2))) ∧
    (∀ r, ho = some r → r.acked = true ∨ (3 ≤ r.sends ∧ r.why < 3) →
      let t := freed u r.h
      does .handoverInstant (if r.why < 3 then pendingFault (detachPair t 1)
        else if r.why = 3 then endSwap t r.h else paired t 1)) ∧
    (∀ r, ho = some r → r.acked = false → r.sends < 3 →
      let h := nextH u (max r.h (fclkNow u))
      does .handoverInstant (sends { u with twin := { s.twin with handover := some { r with h := h, sends := r.sends + 1 } } }
        4 (leBytes 8 h))) ∧
    (∀ r, ho = some r → r.acked = false → 3 ≤ r.sends → r.why = 3 → does .handoverInstant (raise (abortSwap u) (srcOf 56 4) 0)) ∧
    (∀ r, ho = some r → r.acked = false → 3 ≤ r.sends → 3 < r.why → does .handoverInstant u) ∧
    (s.on TWN_CFG_EN = false ∨ s.fget TWN_STATUS_LANE_UP = 0 → does .wreset s) ∧
    (s.on TWN_CFG_EN = true → s.fget TWN_STATUS_LANE_UP ≠ 0 → does .wreset (assertReset (s.fset RST_CAUSE_W_TWIN 1) .w)) ∧
    (∀ x : State, isAsserted x .c = true → assertReset x .w = x) ∧
    (∀ x : State, isAsserted x .c = false → isAsserted (assertReset x .w) .w = true ∧ isAsserted (assertReset x .w) .m = true)

/-! ## Mailboxes (14) -/

/-- R355 to R361, R408, Table 14.1: messages sent, taken, timed out, flushed, and from the twin peer. -/
def Obligations.Mailboxes : Prop :=
  ∀ (s : State) (who m len outcome : Nat) (ws : List W32) (code : Byte) (epoch seq : BitVec 16), who < 1024 → m < 256 →
    ws.length ≤ 16 → outcome < 8 →
    let does (i : Instr) (t : State) : Prop := exec i s = .next t
    let full : Prop := s.on (MBX_STATUS_FULL m) = true
    let b := s.mbox m
    let send := Instr.send who m ws len code
    let frame := Instr.mbxFrame m ws epoch seq code outcome
    let fields : List Fd := [word (MBX_HDR0 m), word (MBX_HDR1 m), word (MBX_STATUS m)] ++ (List.range 16).map fun w => word (MBX_MSG m w)
    let expires (sid : Nat) : Nat := s.tmb.c + 500 * clampN 1 1000000
      (s.fget (MBX_TMO_TMO_US (if 0x100 ≤ sid ∧ sid < 0x1D0 then sid - 0x100 + 16 else m)))
    let holds (t : State) (sid : Nat) (e q : BitVec 16) (n : Nat) : Prop :=
      t.on (MBX_STATUS_FULL m) = true ∧ t.fget (MBX_HDR0_SID m) = sid ∧ t.fget (MBX_HDR0_EPOCH m) = e.toNat ∧
      t.fget (MBX_HDR1_SEQ m) = q.toNat ∧ t.fget (MBX_HDR1_LEN m) = n ∧ t.fget (MBX_HDR1_CODE m) = code.toNat ∧
      (∀ w < 16, t.rd (MBX_MSG m w) = ws[w]?.getD 0) ∧ t.mbox m = { sender := sid, owed := true, timer := true, due := expires sid } ∧
      (∀ o, o ≠ m → t.mbox o = s.mbox o) ∧ regsBut s t fields ∧ t = { s with regs := t.regs, mail := t.mail, hif := t.hif } ∧
      t.hif = { s.hif with causes := if 8 ≤ m ∧ m < 16 then s.hif.causes ||| (1#8 <<< cMbx) else s.hif.causes }
    let emptied (t : State) (o : Nat) : Prop :=
      t.on (MBX_STATUS_FULL m) = false ∧ t.on (MBX_STATUS_PENDING m) = false ∧ (∀ w < 16, t.rd (MBX_MSG m w) = 0) ∧
      t.mbox m = {} ∧ (∀ x, x ≠ m → t.mbox x = s.mbox x) ∧ regsBut s t fields ∧ t.mem = s.mem ∧
      (b.owed = false → t.hif = s.hif ∧ t.clusters = s.clusters ∧ t.mail.peerOut = s.mail.peerOut) ∧
      (b.owed = true → b.sender = 0 → t.on ⟨MBX_STATUS m, o, 1⟩ = true ∧ t.hif.causes.getLsbD cMbx = true) ∧
      (b.owed = true → b.sender = 0x200 → t.mail.peerOut = s.mail.peerOut ++ [(m, o)]) ∧
      (b.owed = true → 0x100 ≤ b.sender → b.sender < 0x1D0 →
        Tbl.get 0 (t.cluster ((b.sender - 0x100) / 8)).mailOut ((b.sender - 0x100) % 8) = o)
    (blockDown s (MBX_CTRL m) = true → does send s) ∧
    (blockDown s (MBX_CTRL m) = false → full ∨ mayMail m who = false ∨ len = 0 ∨ 16 < len → does send (tellSender s who m 5)) ∧
    (blockDown s (MBX_CTRL m) = false → ¬ full → mayMail m who = true → 1 ≤ len → len ≤ 16 → ∃ t, does send t ∧
      holds t who (Tbl.get 0 s.mail.epochs who) (Tbl.get 0 s.mail.seqs who) len ∧
      (who = 0 → t.on (MBX_STATUS_PENDING m) = true) ∧
      Tbl.get 0 t.mail.seqs who = Tbl.get 0 s.mail.seqs who + 1 ∧ t.mail.epochs = s.mail.epochs) ∧
    (blockDown s (MBX_MSG m 0) = true ∨ ¬ full ∨ isReader m who = false → does (.taken who m) s) ∧
    (blockDown s (MBX_MSG m 0) = false → full → isReader m who = true →
      (16 ≤ m → ∃ t, does (.taken who m) t ∧ emptied t 2) ∧
      (8 ≤ m → m < 16 → ∃ t, does (.taken who m) (pumpReplies t m) ∧ emptied t 2) ∧
      (m < 8 → does (.taken who m) (answer s m))) ∧
    (full → b.timer = true → b.due ≤ s.tmb.c → ∃ t, does (.timeout m) t ∧ emptied t 3) ∧
    (¬ (full ∧ b.timer = true ∧ b.due ≤ s.tmb.c) → does (.timeout m) s) ∧
    (receiverDown s m = true → full → ∃ t, does (.flushed m) t ∧ emptied t 4) ∧
    (¬ (receiverDown s m = true ∧ full) → does (.flushed m) s) ∧
    (s.fget TWN_STATUS_LANE_UP = 0 ∨ outcome ≠ 0 → does frame s) ∧
    (s.fget TWN_STATUS_LANE_UP ≠ 0 → outcome = 0 → 224 ≤ m → m < 240 → ¬ full → ws ≠ [] → ∃ t, does frame t ∧
      holds t 0x200 epoch seq ws.length ∧ Tbl.get 0 t.mail.epochs 0x200 = epoch) ∧
    (s.fget TWN_STATUS_LANE_UP ≠ 0 → outcome = 0 → ¬ (224 ≤ m ∧ m < 240 ∧ ¬ full ∧ ws ≠ []) → does frame
      { s with mail := { s.mail with
        epochs := Tbl.put 0 s.mail.epochs 0x200 epoch, peerOut := s.mail.peerOut ++ [(m, 5)] } })

/-! ## Management requests and the matrix (14, 15) -/

/-- R359, R364, R427, R433 to R436, Tables 14.3 and 14.4: the requests of the host to management, with their replies. -/
def Obligations.ManagementRequests : Prop :=
  ∀ (s : State) (i : Nat), i < 8 →
    let does (k : Instr) (t : State) : Prop := exec k s = .next t
    let full : Prop := s.on (MBX_STATUS_FULL i) = true
    let code := s.fget (MBX_HDR1_CODE i)
    let bs := (List.range 16).flatMap fun w => leBytes 4 (s.rd (MBX_MSG i w)).toNat
    let arg (o n : Nat) : Nat := leNat ((bs.drop o).take n)
    let rows : List (Nat × Instr) := [(0x01, .sensorRead i), (0x02, .logRead i), (0x03, .logLevel i), (0x10, .updateStage i),
      (0x11, .updateActivate i), (0x20, .bootStatus i), (0x28, .health i), (0x30, .ptpCfg i)]
    let pilot : Prop := s.fget MGT_BOOT_STATUS_STAGE = 5
    let e := emptyBox s i 2
    let asked (c : Nat) : Prop := code = c ∧ full ∧ serviceUp s = true ∧ (pilot → pilotAnswers c = true) ∧ arg 2 2 = 0
    let tells (k : Instr) (u : State) (status : Nat) (l : List Byte) : Prop := does k (reply u i code (arg 0 2) status l)
    let cls := arg 4 1
    let n := arg 6 1
    let sensors : Prop := cls ≤ 2 ∧ 1 ≤ n ∧ n ≤ 14 ∧ arg 5 1 + n ≤ if cls = 0 then 16 else if cls = 1 then 24 else 8
    let log := (if cls = 0 then e.mgmt.aoLog else e.mgmt.flashLog).filter fun r =>
      decide ((r.seq - BitVec.ofNat 32 (arg 8 4)).toNat < arg 12 4)
    let other := !e.on MGT_BOOT_STATUS_ACTIVE
    let erased := logNote (setSlot e other {}) 2 subjUpdate
    let image := readSlotImage erased (Memory.rdN erased.hostMem (arg 8 8) (arg 16 4))
    let b := arg 4 1 == 1
    let ready : Prop := arg 4 1 ≤ 1 ∧ (slotOf e b).staged = true ∧ slotOk e b = true
    let active := logNote (writeRecord (setSlot e b { slotOf e b with staged := false }) b true) 2 subjUpdate
    let cleared := if active.fget MGT_BOOT_STATUS_STAGE = 5 then active.fset MGT_BOOT_STATUS_FAILS 0 else active
    let first := arg 4 1
    let m := min 12 (26 - first)
    let ptp : Prop := arg 4 1 ≤ 1 ∧ arg 5 1 ≤ 4 ∧ arg 7 1 ≤ 63 ∧ arg 8 1 ≤ 3
    let drop := s.mgmt.replies.find? fun r => r.1 == 8 + i && decide (r.2.2.2 ≤ s.tmb.c)
    (∀ r ∈ rows, (code ≠ r.1 ∨ ¬ full ∨ serviceUp s = false → does r.2 s) ∧
      (code = r.1 → full → serviceUp s = true → pilot → pilotAnswers code = false → tells r.2 e 4 []) ∧
      (code = r.1 → full → serviceUp s = true → (pilot → pilotAnswers code = true) → arg 2 2 ≠ 0 → tells r.2 e 2 [])) ∧
    (asked 0x01 → ¬ sensors → tells (.sensorRead i) e 2 []) ∧
    (asked 0x01 → sensors → cls = 0 → tells (.sensorRead i) e 0 (leBytes 4 n ++ (List.range n).flatMap fun j =>
      leBytes 4 ((Tbl.get 0 e.mgmt.therm (arg 5 1 + j)).signExtend 32).toNat)) ∧
    (asked 0x01 → sensors → cls ≠ 0 → tells (.sensorRead i) (drawWords n e).1 0
      (leBytes 4 n ++ (drawWords n e).2.flatMap fun v => leBytes 4 v.toNat)) ∧
    (asked 0x02 → 1 < cls → tells (.logRead i) e 2 []) ∧
    (asked 0x02 → cls ≤ 1 → e.hostBad (arg 16 8) (64 * log.length) = true →
      tells (.logRead i) (e.count HIF_CNT1_DMA_FAIL 1) 5 []) ∧
    (asked 0x02 → cls ≤ 1 → e.hostBad (arg 16 8) (64 * log.length) = false → tells (.logRead i)
      { e with hostMem := Memory.wrN e.hostMem (arg 16 8) (log.flatMap fun r => logBytes r 0) } 0
      (leBytes 4 log.length ++ leBytes 4 ((log.getLast?.map fun r => r.seq.toNat).getD 0))) ∧
    (asked 0x03 → 7 < arg 4 1 → tells (.logLevel i) e 2 []) ∧
    (asked 0x03 → arg 4 1 ≤ 7 → tells (.logLevel i) { e with mgmt := { e.mgmt with ringLevel := arg 4 1 } } 0 []) ∧
    (asked 0x10 → 0x300000 < arg 16 4 → tells (.updateStage i) erased 6 []) ∧
    (asked 0x10 → arg 16 4 ≤ 0x300000 → erased.hostBad (arg 8 8) (arg 16 4) = true →
      tells (.updateStage i) (erased.count HIF_CNT1_DMA_FAIL 1) 5 []) ∧
    (asked 0x10 → arg 16 4 ≤ 0x300000 → erased.hostBad (arg 8 8) (arg 16 4) = false →
      (image.valid = false → tells (.updateStage i) erased 6 []) ∧
      (image.valid = true → tells (.updateStage i) (setSlot erased other { image with staged := true }) 0
        (leBytes 1 (b2n other)))) ∧
    (asked 0x11 → ¬ ready → tells (.updateActivate i) e 2 []) ∧
    (asked 0x11 → ready → does (.updateActivate i)
      (assertReset ((reply cleared i code (arg 0 2) 0 []).fset RST_CAUSE_M_UPDATE 1) .m)) ∧
    (asked 0x20 → tells (.bootStatus i) e 0 (leBytes 1 (e.fget MGT_BOOT_STATUS_ACTIVE) ++
      leBytes 1 (e.fget MGT_BOOT_STATUS_FAILS) ++ leBytes 1 (e.fget MGT_BOOT_STATUS_REASON) ++
      leBytes 1 (e.fget SEC_LIFE_STATE) ++ leBytes 4 (e.rd MGT_FW_VER).toNat ++ leBytes 4 (e.rd MGT_BOOT_CNT).toNat)) ∧
    (asked 0x28 → 25 < first → tells (.health i) e 2 []) ∧
    (asked 0x28 → first ≤ 25 → tells (.health i) e 0 (((leBytes 1 first ++ leBytes 1 m ++ leBytes 2 0 ++
      (List.range m).flatMap fun j => leBytes 2 (e.fget (EMB_HLTH_VOTE_PASS (first + j))) ++
        leBytes 2 (e.fget (EMB_HLTH_BIST_PASS (first + j)))) ++ List.replicate 52 0).take 52 ++
      leBytes 2 (e.fget MGT_THERM_MAX_TEMP))) ∧
    (asked 0x30 → ¬ ptp → tells (.ptpCfg i) e 2 []) ∧
    (asked 0x30 → ptp → tells (.ptpCfg i)
      { e with mgmt := { e.mgmt with ptp := Tbl.put [] e.mgmt.ptp (arg 4 1) ((bs.drop 5).take 7) } } 0 []) ∧
    (drop = none → does (.replyDrop i) s) ∧
    (∀ r, drop = some r → does (.replyDrop i) (pumpReplies (logNote (raise { s with mgmt := { s.mgmt with
      replies := s.mgmt.replies.erase r } } (srcOf 61 0) 0) 6 subjReply) (8 + i))) ∧
    (∀ (u : State) (c tok status : Nat) (l : List Byte), u.mgmt.replies = [] → u.on (MBX_STATUS_FULL (8 + i)) = false →
      u.pwr.mgmtRst = false → l.length ≤ 60 → tok < 65536 → status < 256 → c < 256 →
      let t := reply u i c tok status l
      t.on (MBX_STATUS_FULL (8 + i)) = true ∧ t.fget (MBX_HDR0_SID (8 + i)) = 1 ∧ t.mgmt.replies = [] ∧
        t.fget (MBX_HDR1_CODE (8 + i)) = (c ||| 0x80) ∧ t.fget (MBX_HDR1_LEN (8 + i)) = 1 + (l.length + 3) / 4 ∧
        t.rd (MBX_MSG (8 + i) 0) = BitVec.ofNat 32 (tok + 65536 * status))

/-- R366, R368, R370 to R374, R377, R379, R381, R382, R408, Table 15.3: bursts through the matrix, what they store and read,
scrubbing, the boot region and error injection. -/
def Obligations.MemoryEvents : Prop :=
  ∀ (s : State) (tg master m a : Nat) (ag : Agent) (v : W32) (line : BitVec 512) (rs : List MtxReq), tg < 48 → master < 0x27 →
    a < 2 ^ 40 → a % 64 = 0 → memoryOk m = true →
    (∀ r ∈ rs, r.master < 0x27 ∧ 1 ≤ r.beats.length ∧ r.beats.length ≤ 16 ∧ r.addr < 2 ^ 40) →
    let does (i : Instr) (t : State) : Prop := exec i s = .next t
    let x := s.target tg
    let all := x.queue ++ rs
    let may (r : MtxReq) : Prop := heldBack s tg r.master = false ∧ ∀ l, x.lock = some l → r.master = l.1
    let idle : Prop := x.queue = [] ∧ x.lock = none ∧ heldBack s tg master = false
    let read : MtxReq := { master := master, waited := 0, write := false, addr := a, beats := [line], lock := false }
    let write : MtxReq := { master := master, waited := 0, write := true, addr := a, beats := [line], lock := false }
    let grant (r : MtxReq) := Instr.matrixGrant tg [r]
    let shut : Prop := populated s a = none
    let there (k : Nat) : Prop := inRegs a = false ∧ populated s a = some k ∧ targetDown s k = false
    let at' := remapAddr s a
    let after (t u : State) (data : List (BitVec 512)) (err : Bool) : Prop :=
      t = { u with mtx := { u.mtx with readData := data, errorResp := err, targets := t.mtx.targets } } ∧
        (t.target tg).queue = [] ∧ (t.target tg).last = master ∧ (t.target tg).lock = none
    let skips : Prop := s.on MTX_SCRUB_CFG_EN = false ∨ scrubSkips s m = true
    let mine (w : Nat) : Bool := memIndex w == some m
    let clean : Prop := (s.mtx.ue.filter mine) = [] ∧ (s.mtx.ce.filter mine) = []
    let passes := Tbl.put 0 s.mtx.scrubPos m 1
    let began := Tbl.get 0 s.mtx.scrubAt m
    let paced := Tbl.put 0 s.mtx.scrubAt m (s.tmb.c + 1)
    let lagged := if began ≠ 0 ∧ began + 500000000 * max 1 (s.fget MTX_SCRUB_CFG_PERIOD_S) ≤ s.tmb.c ∧
      s.on MTX_SCRUB_STAT_LAG = false then raise (s.fset MTX_SCRUB_STAT_LAG 1) (srcOf 58 6) 0 else s
    let whole : Prop := ∀ k ∈ memories, scrubSkips s k = false → Tbl.get 0 passes k = 1
    ((∀ r ∈ all, ¬ may r) → does (.matrixGrant tg rs) (s.setTarget tg { x with queue := all })) ∧
    (idle → ∀ k, there k → writeRight s master k a = 0 → s.on MTX_ECC_INJ_ARM = false →
      ∃ t u, does (grant write) t ∧ after t u [] false ∧ (∀ b, Memory.rd u.mem b =
        if at' ≤ b ∧ b < at' + 64 then line.extractLsb' (8 * (b - at')) 8 else Memory.rd s.mem b) ∧
        u = { s with mem := u.mem, mtx := { s.mtx with
          ue := s.mtx.ue.filter fun w => !(decide (at' ≤ w) && decide (w < at' + 64) && w % 8 == 0)
          ce := s.mtx.ce.filter fun w => !(decide (at' ≤ w) && decide (w < at' + 64) && w % 8 == 0) } }) ∧
    (idle → ∀ k, there k → writeRight s master k a = 1 → ∃ t, does (grant write) t ∧
      after t (raise s (srcOf 58 1) (addrForm a master 2 k)) [] true) ∧
    (idle → ∀ k, there k → 1 < writeRight s master k a → ∃ t, does (grant write) t ∧
      after t (raise s (writeRight s master k a) 0) [] false) ∧
    (idle → inRegs a = false → shut → ∃ t u, does (grant write) t ∧ does (grant read) u ∧
      after t (raise s (srcOf 58 0) (addrForm a master 2 0xFF)) [] true ∧
      after u (raise s (srcOf 58 0) (addrForm a master 1 0xFF)) [0] true) ∧
    (idle → inRegs a = false → ∀ k, populated s a = some k → targetDown s k = true → ∃ t u, does (grant write) t ∧
      does (grant read) u ∧ after t s [] true ∧ after u s [0] true) ∧
    (idle → inRegs a = true → ∃ t u, does (grant write) t ∧ does (grant read) u ∧
      after t (raise s 2 (plain 2 0 0 (a - regBase))) [] false ∧ after u (raise s 2 (plain 2 0 0 (a - regBase))) [0] false) ∧
    (idle → ∀ k, there k → s.mtx.ue = [] → s.mtx.ce = [] → ∃ t d, does (grant read) t ∧ after t s [d] false ∧
      ∀ b < 64, d.extractLsb' (8 * b) 8 = Memory.rd s.mem (at' + b)) ∧
    (∃ t, does (.burstReset master) t ∧ (∀ g, (t.target g).queue = (s.target g).queue.filter fun r => r.master != master) ∧
      (∀ g l, (t.target g).lock = some l ↔ (s.target g).lock = some l ∧ l.1 ≠ master) ∧ t.mem = s.mem) ∧
    (skips → does (.scrub m) s) ∧
    (¬ skips → clean → whole → does (.scrub m)
      { lagged.count MTX_SCRUB_STAT_PASSES 1 with mtx := { s.mtx with scrubPos := [], scrubAt := paced } }) ∧
    (¬ skips → clean → ¬ whole → does (.scrub m) { lagged with mtx := { s.mtx with scrubPos := passes, scrubAt := paced } }) ∧
    (¬ skips → ∃ t, does (.scrub m) t ∧ t.mem = s.mem ∧ t.mtx.ue = s.mtx.ue ∧
      ∀ w, w ∈ t.mtx.ce ↔ w ∈ s.mtx.ce ∧ ¬ (mine w = true ∧ w ∉ s.mtx.ue)) ∧
    (blockDown s MTX_REMAP = true → does (.remap ag v) s) ∧
    (blockDown s MTX_REMAP = false →
      does (.remap ag v) (if ag = .mgmt ∧ v.getLsbD 0 = true then s.fset MTX_REMAP_REMAP 1 else s)) ∧
    (blockDown s MTX_ECC_INJ = true → does (.eccInjArm v) s) ∧
    (blockDown s MTX_ECC_INJ = false → s.fget SEC_DBG_STATUS_LEVEL = 3 → s.fget CLK_PWR_STATUS_STATE ≠ 3 →
      let w := BitVec.ofNat 32 (rwMask MTX_ECC_INJ)
      does (.eccInjArm v) (s.wr MTX_ECC_INJ ((s.rd MTX_ECC_INJ &&& ~~~w) ||| (v &&& w)))) ∧
    (blockDown s MTX_ECC_INJ = false → s.fget SEC_DBG_STATUS_LEVEL ≠ 3 ∨ s.fget CLK_PWR_STATUS_STATE = 3 →
      does (.eccInjArm v) (raise (raise s 2 (plain 3 0 0 MTX_ECC_INJ)) (srcOf 60 3) 0)) ∧
    (s.on MTX_ECC_INJ_ARM = true → s.fget MTX_ECC_INJ_MEM = memIdx a → s.on MTX_ECC_INJ_DOUBLE = true →
      let u := storeBytes s a (leBytes 8 0)
      a ∈ u.mtx.ue ∧ u.on MTX_ECC_INJ_ARM = false ∧ Memory.rd u.mem a = 3) ∧
    (s.on MTX_ECC_INJ_ARM = true → s.fget MTX_ECC_INJ_MEM = memIdx a → s.on MTX_ECC_INJ_DOUBLE = false →
      let u := storeBytes s a (leBytes 8 0)
      a ∈ u.mtx.ce ∧ a ∉ u.mtx.ue ∧ u.on MTX_ECC_INJ_ARM = false ∧ Memory.rd u.mem a = 0)

/-! ## The fault collector (16) -/

/-- R383 to R390, R393, R395 to R397, R424, Tables 16.2 and 16.3: events and what they bring, escalation, decay, recovery and
the sensors. -/
def Obligations.FaultEvents : Prop :=
  ∀ (s : State) (src g : Nat) (d : W64) (rs : List (BitVec 16)), src < 1024 → g < 64 → rs.length = 16 →
    let does (i : Instr) (t : State) : Prop := exec i s = .next t
    let pend : Fd := ⟨FLT_PEND (src / 32), src % 32, 1⟩
    let level (k : Nat) : Fd := ⟨FLT_GRP_LVL (k / 16), 2 * (k % 16), 2⟩
    let cls := if src = 0 then 3 else s.fget (FLT_SRC_CFG_CLASS src)
    let rung := srcRung s src
    let on : Prop := src = 0 ∨ s.on (FLT_SRC_CFG_EN src) = true
    let plainly : Prop := s.fget (FLT_SRC_CFG_N src) = 0 ∧ s.flt.badParity = [] ∧ eccSource src = false
    let first : Bool := decide (1 ≤ cls) && !s.on FLT_FIRST_INFO_VALID
    let u := raise s src d.toNat
    let entry : EventRec := ⟨src, cls, false, first, s.flt.seq + 1, BitVec.ofNat 64 s.nNow, BitVec.ofNat 64 s.tmb.c, d⟩
    let up (t : State) (f : Fd) : Prop := t.fget f = min (s.fget f + 1) (2 ^ f.w - 1)
    let cleared := { s.fset pend 0 with flt := { s.flt with grace := Tbl.clear s.flt.grace src (src + 1) } }
    let taken := takeRung cleared src (max rung (s.fget (level (src / 16)) + 1))
    let climbed := taken.2.fset (level (src / 16)) (min taken.1 3)
    let told := raise { climbed with flt := { climbed.flt with
      decay := Tbl.clear climbed.flt.decay (src / 16) (src / 16 + 1) } } (srcOf 0 1) (plain taken.1 (src / 16) src 0)
    let window := Tbl.get 0 s.flt.window src
    let decays : Prop := s.fget (level g) ≠ 0 ∧ max 1 (s.fget FLT_ESC_ESC_W) ≤ Tbl.get 0 s.flt.decay g + 1
    let quiet : Prop := s.fget FLT_STATUS_STATE = 1 ∧ s.flt.noisy = false ∧ s.on FLT_STATUS_PARITY_ERR = false ∧
      max 1 (s.fget FLT_QUIET_Q) ≤ s.fget FLT_STATUS_QUIET + 1
    let counted := s.fset FLT_STATUS_QUIET (s.fget FLT_STATUS_QUIET + 1)
    let opened := if s.flt.recOpen = true then counted.count FLT_STATUS_REC_CNT 1 else
      { counted.fset FLT_STATUS_REC_CNT 1 with
        flt := { s.flt with recOpen := true, recWin := max 1 (counted.fget FLT_REC_REC_W) } }
    let at' := if s.tmb.c % 500000 = 0 ∧ s.flt.lastSweep ≠ s.tmb.c then s.tmb.c else (s.tmb.c / 500000 + 1) * 500000
    let swept := if good s 5 = true
      then { advance s at' with flt := { (advance s at').flt with lastSweep := (advance s at').tmb.c } } else s
    let failed (x : State) : State := expireDue (raiseOnce (x.fset FLT_STATUS_PARITY_ERR 1) 0 0)
    let hot := hottest rs
    let shown := (s.fset MGT_THERM_MAX_TEMP (BitVec.ofInt 16 hot.1).toNat).fset MGT_THERM_MAX_SENSOR hot.2
    let warns : Prop := s.mgmt.thermWarnArmed = true ∧ (256 * s.fget MGT_THERM_CFG_WARN : Int) ≤ hot.1
    let burns : Prop := s.mgmt.thermCritArmed = true ∧ (256 * s.fget MGT_THERM_CFG_CRIT : Int) ≤ hot.1
    let armed (f : Fd) (b : Bool) : Bool := b || decide (hot.1 ≤ 256 * ((s.fget f : Int) - 5))
    let sampled := { shown with mgmt := { s.mgmt with
      therm := rs.zipIdx.foldl (fun (t : Tbl (BitVec 16)) (e : BitVec 16 × Nat) => Tbl.put 0 t e.2 e.1) []
      thermWarnArmed := if warns then false else armed MGT_THERM_CFG_WARN s.mgmt.thermWarnArmed
      thermCritArmed := if burns then false else armed MGT_THERM_CFG_CRIT s.mgmt.thermCritArmed } }
    let warned := if warns then report sampled 4 0 else sampled
    (sourceCfg src = 1024 → does (.sourceEvent src d) s) ∧
    (sourceCfg src ≠ 1024 → src ≠ 0 → does (.sourceEvent src d) (expireDue u)) ∧
    (does (.sourceEvent 0 d) (failed (if parityWord (d.extractLsb' 32 32).toNat = true ∧
      (d.extractLsb' 32 32).toNat ∉ s.flt.badParity then
        { s with flt := { s.flt with badParity := (d.extractLsb' 32 32).toNat :: s.flt.badParity } } else s))) ∧
    (u = { s with regs := u.regs, flt := u.flt, hif := u.hif, mgmt := u.mgmt, ember := u.ember }) ∧
    (s.flt.badParity = [] → sourceDown s src = true → src ≠ 16 → u = s) ∧
    (sourceDown s src = false → plainly → ¬ on → u = s.count (FLT_SRC_CNT_COUNT src) 1) ∧
    (sourceDown s src = false → plainly → on → up u (FLT_SRC_CNT_COUNT src) ∧ u.flt.seq = s.flt.seq + 1 ∧
      (first = true → u.fget FLT_FIRST_INFO_SRC = src ∧ u.fget FLT_FIRST_INFO_CLASS = cls ∧
        u.on FLT_FIRST_INFO_VALID = true ∧ u.get64 FLT_FIRST_N = s.nNow % 2 ^ 64 ∧ u.get64 FLT_FIRST_C = s.tmb.c % 2 ^ 64) ∧
      (s.pwr.hifRst = false → s.on HIF_CTRL_EN = true → s.hif.events.length < 1024 → u.hif.events = s.hif.events ++ [entry]) ∧
      (s.pwr.hifRst = false → s.on HIF_CTRL_EN = false → up u HIF_CNT0_EVT_DROP ∧ u.hif.events = s.hif.events) ∧
      (2 ≤ cls → 1 ≤ rung → s.on pend = false → u.on pend = true ∧ Tbl.get 0 u.flt.grace src =
        s.tmb.c + if cls = 3 then 0 else 500 * s.fget (FLT_SRC_GRACE_GRACE src)) ∧
      (cls < 2 ∨ rung = 0 ∨ s.on pend = true → u.fget pend = s.fget pend ∧ u.flt.grace = s.flt.grace)) ∧
    (window ≠ 1 → does (.windowClose src) s) ∧
    (window = 1 → does (.windowClose src) { s.fset (FLT_SRC_CNT_CUR src) 0 with
      flt := { s.flt with window := Tbl.clear s.flt.window src (src + 1) } }) ∧
    (s.on pend = false → does (.escalation src) s) ∧
    (s.on pend = true → does (.escalation src)
      (if src = 0 ∨ src = 5 ∨ src = 6 then enterFault told (entryOf src) else told)) ∧
    (∀ (x : State) (r : Nat), let no1 : Prop := 1 < r ∨ rung1 x src = none
      let no2 : Prop := 2 < r ∨ rung2 x src = none
      let no3 : Prop := 3 < r ∨ escalateTwin x = none
      (∀ t, r ≤ 1 → rung1 x src = some t → takeRung x src r = (1, t)) ∧
      (∀ t, no1 → r ≤ 2 → rung2 x src = some t → takeRung x src r = (2, t)) ∧
      (∀ t, no1 → no2 → r ≤ 3 → escalateTwin x = some t → takeRung x src r = (3, t)) ∧
      (no1 → no2 → no3 → takeRung x src r = (4, enterFault x (entryOf src)))) ∧
    (¬ decays → does (.ladderDecay g) s) ∧
    (decays → does (.ladderDecay g) { s.fset (level g) 0 with flt := { s.flt with decay := Tbl.clear s.flt.decay g (g + 1) } }) ∧
    (blockDown s FLT_ACK = true ∨ s.on pend = false → does (.ackSource src) s) ∧
    (blockDown s FLT_ACK = false → s.on pend = true → does (.ackSource src) cleared) ∧
    (¬ quiet → does .recovery s) ∧
    (quiet → FLT_REC ∉ s.flt.badParity → does .recovery
      (if opened.fget FLT_REC_REC_MAX < opened.fget FLT_STATUS_REC_CNT then raise (opened.fset FLT_STATUS_STATE 2) 8 0
      else raise (portsFadeIn (opened.fset FLT_STATUS_STATE 0)) 7 0)) ∧
    (¬ (s.flt.recOpen = true ∧ s.flt.recWin ≤ 1) → does .recWindowClose s) ∧
    (s.flt.recOpen = true → s.flt.recWin ≤ 1 → does .recWindowClose { s.fset FLT_STATUS_REC_CNT 0 with
      flt := { s.flt with recOpen := false, recWin := 0 } }) ∧
    (does .paritySweep (if swept.flt.badParity = [] then swept else failed swept)) ∧
    (good s 5 = true → swept.tmb.c = at' ∧ at' % 500000 = 0) ∧
    (blockDown s FLT_CTRL = true → does .forceSafe s ∧ does .unlatch s) ∧
    (blockDown s FLT_CTRL = false → does .forceSafe (expireDue (raise s 6 0))) ∧
    (blockDown s FLT_CTRL = false → s.fget FLT_STATUS_STATE ≠ 2 → does .unlatch s) ∧
    (blockDown s FLT_CTRL = false → s.fget FLT_STATUS_STATE = 2 → does .unlatch
      { ((s.fset FLT_STATUS_STATE 1).fset FLT_STATUS_REC_CNT 0).fset FLT_STATUS_QUIET 0 with
        flt := { s.flt with noisy := true } }) ∧
    (does (.thermalSample rs) (if burns then report warned 5 0 else warned))

/-! ## Resets, clocks and power (17) -/

/-- R315, R400 to R403, R405, R408, R410, R420, R421, R430, Tables 17.1, 17.3 and 17.5: what asserts a reset. -/
def Obligations.ResetCommands : Prop :=
  ∀ (s : State) (ag : Agent) (key : BitVec 16) (uclass unit ns x b : Nat), uclass < 4 → unit < 64 → x < 7 → b < 16 →
    let does (i : Instr) (t : State) : Prop := exec i s = .next t
    let commands : List Instr := [.resetW ag key, .resetE ag key, .resetU ag key uclass unit, .resetM ag key]
    let accepted : Prop := blockDown s RST_CMD = false ∧ key = 0x5EED
    let said (u : State) (kind n arg16 : Nat) : State := raise u (srcOf 1 3) (plain kind n arg16 0)
    let joined : Prop := ag = .host ∧ 2 ≤ s.pair ∧ s.pair ≤ 4
    let caused (u : State) (f : Fd) (k : Rst) : State := assertReset (u.fset f 1) k
    let names : List (Nat × Nat × (Nat → Rst)) := [(0, 26, .uCluster), (1, 48, .uPort), (2, 6, .uNet)]
    let mute : Prop := isAsserted s .c = true ∨ isAsserted s .w = true
    let low := { s with pwr := { s.pwr with lowSupply := x :: s.pwr.lowSupply.filter (· ≠ x) } }
    let weak : Fd := ⟨CLK_SUP_STATUS, x, 1⟩
    let stretched (u : State) : State :=
      u.fset CLK_SUP_STATUS_STRETCH (b2n (u.on ⟨CLK_SUP_STATUS, 0, 1⟩ || u.on ⟨CLK_SUP_STATUS, 1, 1⟩))
    let losses : List (Nat × Option Fd × List Rst) := [(0, some RST_CAUSE_W_CLK, [.w]), (1, some RST_CAUSE_W_CLK, [.w]),
      (2, none, [.m]), (3, some RST_CAUSE_U_CLK, (List.range 6).map .uNet), (4, some RST_CAUSE_U_CLK, (List.range 6).map .uNet),
      (5, some RST_CAUSE_W_CLK, [.w]), (6, none, [.e]), (8, none, [.e]), (10, none, []), (12, some RST_CAUSE_W_CLK, [.w]),
      (13, none, []), (14, none, [.m])]
    let noted := (s.fset ⟨CLK_LOST, b, 1⟩ 1).fset ⟨CLK_GOOD, b, 1⟩ 0
    let lost := raise { noted with pwr := { s.pwr with lostClk := b :: s.pwr.lostClk.filter (· ≠ b) } } (srcOf 1 0) (plain 0 b 0 0)
    let cut (u : State) : State := if b = 4 ∨ b = 13 then u.fset TWN_STATUS_LANE_UP 0 else if b = 10 then pcieReset u else u
    let flues := (List.range 48).filter fun p => s.mode p == 4
    let held := { lost with pwr := { lost.pwr with
      fclkHeld := (List.range 48).filter fun p => s.mode p == 4 || s.pwr.fclkHeld.contains p } }
    (blockDown s RST_CMD = true → ∀ i ∈ commands, does i s) ∧
    (blockDown s RST_CMD = false → key ≠ 0x5EED → ∀ i ∈ commands, does i (raise s (srcOf 1 1) 0)) ∧
    (accepted → does (.resetW ag key) (caused (said s 1 0 0) RST_CAUSE_W_HOST .w)) ∧
    (accepted → does (.resetM ag key) (caused (said s 4 0 0) RST_CAUSE_M_HOST .m)) ∧
    (accepted → joined → s.lead = true → does (.resetE ag key) (said s 2 0 0xFFFF)) ∧
    (accepted → joined → s.lead = false → does (.resetE ag key) (caused (said (detachPair s 5) 2 0 0) RST_CAUSE_E_HOST .e)) ∧
    (accepted → ¬ joined → does (.resetE ag key) (caused (said s 2 0 0) RST_CAUSE_E_HOST .e)) ∧
    (accepted → (∀ n ∈ names, uclass = n.1 → n.2.1 ≤ unit) → does (.resetU ag key uclass unit) (regAccess s 3 RST_CMD)) ∧
    (accepted → ∀ n ∈ names, uclass = n.1 → unit < n.2.1 →
      (joined → s.lead = true → does (.resetU ag key uclass unit) (said s 3 unit 0xFFFF)) ∧
      (joined → s.lead = false → does (.resetU ag key uclass unit)
        (caused (said (detachPair s 5) 3 unit 0) RST_CAUSE_U_HOST (n.2.2 unit))) ∧
      (¬ joined → does (.resetU ag key uclass unit) (caused (said s 3 unit 0) RST_CAUSE_U_HOST (n.2.2 unit)))) ∧
    (mute ∨ ns < s.pwr.rstnQuiet + 1000 → does (.rstNLow ns) s) ∧
    (¬ mute → s.pwr.rstnQuiet + 1000 ≤ ns → does (.rstNLow ns) (assertCold s 2)) ∧
    (does .powerOn (assertCold s 0)) ∧
    (x ≠ 3 → x ≠ 4 → does (.supplyReset x) (assertCold low 1)) ∧
    (x = 3 ∨ x = 4 → does (.supplyReset x)
      ((List.range 6).foldl (fun u p => assertReset u (.uNet p)) (low.fset TWN_STATUS_LANE_UP 0))) ∧
    (s.on weak = true → does (.supplyWarn x) s) ∧
    (s.on weak = false → does (.supplyWarn x)
      (raise ((stretched (s.fset weak 1)).count CLK_SUP_CNT_WARN_CNT 1) (srcOf 0 3) (plain 0 x 0 0))) ∧
    (b = 9 ∨ b = 11 ∨ b = 15 → does (.clkLost b) s) ∧
    (∀ l ∈ losses, b = l.1 → does (.clkLost b) (l.2.2.foldl assertReset
      (match l.2.1 with
      | some f => (cut lost).fset f 1
      | none => cut lost))) ∧
    (b = 7 → does (.clkLost b) ((flues.map Rst.uPort).foldl assertReset
      (if flues = [] then held else held.fset RST_CAUSE_U_CLK 1))) ∧
    (∃ t, does .pcieReset t ∧ t.hif = { bad := s.hif.bad, msix := s.hif.msix } ∧ t.mem = s.mem ∧ t.tmb = s.tmb ∧ t.sch = s.sch ∧
      (∀ r, HIF_CTRL ≤ r → r < 0x20000 → t.rd r = resetWord r) ∧
      (∀ e ∈ t.latch, ¬ (HIF_CTRL ≤ e.1 / 8 * 4 ∧ e.1 / 8 * 4 < HIF_CTRL + 0x10000)) ∧
      (∀ e ∈ t.hold, ¬ (HIF_CTRL ≤ e.1 / 8 * 4 ∧ e.1 / 8 * 4 < HIF_CTRL + 0x10000)) ∧
      ∀ m, 8 ≤ m → m < 16 → t.rd (MBX_HDR0 m) = 0 ∧ t.rd (MBX_HDR1 m) = 0 ∧ t.on (MBX_STATUS_FULL m) = false) ∧
    (s.pwr.mgmtRst = true ∨ s.mgmt.halted = true ∨ (s.mgmt.attempting = false ∧ s.stage ≠ 4) ∨
      (s.mgmt.attempting = true ∧ s.tmb.c < s.mgmt.attemptAt + 5000000000) → does .mgtWdog s) ∧
    (s.pwr.mgmtRst = false → s.mgmt.halted = false → s.mgmt.attempting = false → s.stage = 4 →
      does .mgtWdog (caused (raise s (srcOf 1 2) 0) RST_CAUSE_M_WDOG .m)) ∧
    (∀ u, s.pwr.mgmtRst = false → s.mgmt.halted = false → s.mgmt.attempting = true →
      s.mgmt.attemptAt + 5000000000 ≤ s.tmb.c →
      u = failAttempt (raise s (srcOf 1 2) 0) 6 → does .mgtWdog
        (if u.mgmt.bootByM = true then caused u RST_CAUSE_M_WDOG .m else caused u RST_CAUSE_W_WDOG .w))

/-- R7, R307, R400, R403, R404, R422, Tables 0.4, 17.2 and 17.8: what each kind of reset takes away and what it leaves. -/
def Obligations.ResetsLose : Prop :=
  ∀ u : State,
    (∀ k : Rst, isAsserted u .c = true → assertReset u k = u) ∧
    (∀ k : Rst, isAsserted u .c = false → k ≠ .c →
      let t := assertReset u k
      let read (lo n a : Nat) : Prop := lo ≤ a ∧ a < lo + n
      isAsserted t k = true ∧ t.pending = u.pending ∧ t.hostMem = u.hostMem ∧ t.tmb = u.tmb ∧ t.ref = u.ref ∧
      (k = .w ∨ k = .e → t.cores = [] ∧ t.sch = {} ∧ t.mix = {} ∧ t.ports = [] ∧ t.asrc = [] ∧
        t.chains = [] ∧ t.flues = [] ∧ t.groups = [] ∧ t.rx = [] ∧ t.tx = [] ∧ t.convoy = {} ∧ t.pwr.engineRst = true ∧
        t.pwr.clusters = List.range 26 ∧ t.pwr.ports = List.range 48 ∧
        (∀ a, read (clusterBase 0) 0x1A000000 a ∨ read delayBase 0x6000000 a ∨ read mixBase 0x400000 a ∨
          read slotStoreBase 0x400000 a ∨ read netBase (if k = .w then 0xC00000 else 0x58000) a → Memory.rd t.mem a = 0)) ∧
      (k = .e → t.clusters = [] ∧ t.ember = {} ∧ t.nets = u.nets ∧ t.twin = u.twin ∧ t.fget RST_STATUS_E_ACT = 1 ∧ ∃ a ∈ t.pwr.asserts, a.kind = .e ∧ a.left = 20183) ∧
      (k = .w → t.nets = [] ∧ t.twin = {} ∧ t.pwr.nets = List.range 6 ∧ t.pwr.hifRst = true ∧ t.pwr.twinRst = true ∧
        isAsserted t .m = true ∧ t.fget RST_STATUS_W_ACT = 1 ∧ t.fget RST_STATUS_M_ACT = 1 ∧ t.fget RST_STATUS_RSTN_IN = 0 ∧
        ∃ a ∈ t.pwr.asserts, a.kind = .w ∧ a.left = 100261) ∧
      (k = .w ∨ k = .m → t.pwr.mgmtRst = true ∧ t.mgmt.bootDue = true ∧ t.mgmt.nonceUsed = true ∧ t.mgmt.attempting = false ∧
        t.mgmt.ringLevel = 3) ∧
      (k = .m → t.mem = u.mem ∧ t.cores = u.cores ∧ t.sch = u.sch ∧ t.nets = u.nets ∧ t.twin = u.twin) ∧
      (∀ c, k = .uCluster c → c < 26 → c ∈ t.pwr.clusters ∧ t.cluster c = {} ∧ (∀ j, j < 8 → t.core c j = {}) ∧
        (∀ a, read (clusterBase c) 0x1000000 a → Memory.rd t.mem a = 0) ∧ t.imgState c = 0) ∧
      (∀ p, k = .uPort p → p < 48 → p ∈ t.pwr.ports ∧ t.port p = {} ∧ t.flue p = {} ∧ t.mem = u.mem) ∧
      (∀ p, k = .uNet p → p < 6 → p ∈ t.pwr.nets ∧ t.net p = {} ∧ t.mem = u.mem)) ∧
    (∀ (letter r : Nat) (reach : Nat → Bool), Tbl.wfFrom resetWord none u.regs = true →
      (resetRegs u letter reach).rd r =
        (u.rd r &&& keptBits r letter (reach r)) ||| (resetWord r &&& ~~~keptBits r letter (reach r))) ∧
    (∀ cause : Nat,
      let t := assertCold u cause
      t.pwr.asserts = [⟨.c, !t.pwr.lowSupply.any (fun y => y != 3 && y != 4), 2000000⟩] ∧ t.pwr.coldCause = cause ∧ t.mem = [] ∧
        t.hostMem = u.hostMem ∧ t.pending = u.pending ∧ t.mgmt.slots = u.mgmt.slots ∧ t.mgmt.record = u.mgmt.record ∧
        t.mgmt.otpSvn = u.mgmt.otpSvn ∧ t.fget SEC_LIFE_STATE = (u.mgmt.lifeNext.getD (u.fget SEC_LIFE_STATE)) % 4 ∧
        regsBut State.reset t [SEC_LIFE_STATE, word SEC_DEVID, word (SEC_DEVID + 4), SEC_SVN_OTP_SVN, CLK_SUP_STATUS_WARN, CLK_SUP_STATUS_STRETCH,
          RST_STATUS_W_ACT, RST_STATUS_E_ACT, RST_STATUS_M_ACT, RST_STATUS_RSTN_IN])

/-- R307, R315, R404, R405, R407, R410, R420, R429, R454: supplies and clocks come back, and resets are released. -/
def Obligations.ResetsEnd : Prop :=
  ∀ (s : State) (ns x us b : Nat) (twinId : Bool) (bootsel : BitVec 2) (failed : List Nat), x < 7 → b < 16 →
    (∀ c ∈ failed, c < 26) →
    let does (i : Instr) (t : State) : Prop := exec i s = .next t
    let weak : Fd := ⟨CLK_SUP_STATUS, x, 1⟩
    let stretched (u : State) : State :=
      u.fset CLK_SUP_STATUS_STRETCH (b2n (u.on ⟨CLK_SUP_STATUS, 0, 1⟩ || u.on ⟨CLK_SUP_STATUS, 1, 1⟩))
    let fine := stretched (s.fset weak 0)
    let timed := if s.on CLK_SUP_STATUS_STRETCH = true ∧ fine.on CLK_SUP_STATUS_STRETCH = false
      then fine.count CLK_SUP_CNT_STRETCH_US us else fine
    let shown := if b = 9 ∨ b = 11 then s else s.fset ⟨CLK_GOOD, b, 1⟩ 1
    let cold := s.pwr.asserts = [⟨.c, true, ns⟩] ∧ s.pwr.coldCause < 3
    let pass := allClusters.filter fun c => !failed.contains c
    (does (.supplyOk x us)
      (releaseSources { timed with pwr := { s.pwr with lowSupply := s.pwr.lowSupply.filter (· ≠ x) } })) ∧
    (does (.clockQualified b)
      (settle (releaseSources { shown with pwr := { s.pwr with
        lostClk := s.pwr.lostClk.filter (· ≠ b), fclkHeld := if b = 7 then [] else s.pwr.fclkHeld } }))) ∧
    (does (.resetRelease ns twinId bootsel failed) (settle (showActs (dropAsserts { s with
      balls := ⟨twinId, bootsel⟩
      pwr := { s.pwr with
        rstnQuiet := s.pwr.rstnQuiet - ns
        asserts := s.pwr.asserts.map fun (a : Assert) => if a.released then { a with left := a.left - ns } else a } } failed)))) ∧
    (cold → ∃ t, does (.resetRelease ns twinId bootsel failed) t ∧ t.pwr.asserts = [] ∧ t.fget ⟨RST_CAUSE, s.pwr.coldCause, 1⟩ = 1 ∧
      t.fget TWN_STATUS_STRAP = b2n twinId ∧ t.fget MGT_BOOT_STATUS_BOOTSEL = bootsel.toNat ∧ t.fget RST_STATUS_RSTN_IN = 1 ∧
      (∀ c ∈ failed, t.role c = roleRetired ∧ t.fget (EMB_MAP_WHY c) = whyPoweron) ∧
      (∀ c j, pass[j]? = some c → t.role c = if j < 24 then roleHearth else roleEmber) ∧
      ∀ c j, pass[j]? = some c → t.lhOf c = if j < 24 then j else 0x1F) ∧
    (∀ u : State, u.pwr.mgmtRst = true → reached u [.w, .m] = false →
      (good u 0 && good u 1 && good u 2) = false → settle u = u) ∧
    (∀ u : State, u.pwr.mgmtRst = true → reached u [.w, .m] = false →
      good u 0 = true → good u 1 = true → good u 2 = true → (settle u).pwr.mgmtRst = false) ∧
    (∀ u : State, u.pwr.mgmtRst = false → u.pwr.hifRst = false → u.pwr.nets = [] → u.pwr.twinRst = false → u.pwr.engineRst = true →
      reached u [.w, .e] = false → u.pdOn pdMix = true → u.pwr.powerOn = [] →
      ((good u 0 && good u 1 && good u 6 && good u 8) = false → settle u = u) ∧
      (good u 0 = true → good u 1 = true → good u 6 = true → good u 8 = true → (settle u).pwr.engineRst = false ∧
        (settle u).fget SCH_STATUS_TICK_ACT = u.fget SCH_TICK_CFG_TICK_LEN ∧
        (settle u).fget SCH_STATUS_FAMILY_ACT = u.fget SCH_FAMILY_CFG_FAMILY))

/-- R412, R415 to R419, Table 17.7: requests for a power state, and how QUIET and KEEP are entered. -/
def Obligations.PowerStates : Prop :=
  ∀ s : State,
    let does (i : Instr) (t : State) : Prop := exec i s = .next t
    let up : Prop := blockDown s CLK_PWR_CTRL = false
    let st := powerState s
    let asks : List (Nat × Instr) := [(0, .reqRun), (1, .reqQuiet), (2, .reqKeep)]
    let joined : Prop := 2 ≤ s.pair ∧ s.pair ≤ 4
    let refused (q : Nat) : Prop := st = 3 ∨ (q = 1 ∧ st = 2) ∨ (q ≠ 0 ∧ joined)
    let asked (q : Nat) : State := s.fset CLK_PWR_CTRL_REQ q
    let now : Prop := up ∧ s.running = false
    let moving (u : State) (x goal : Nat) : State :=
      { u.fset CLK_PWR_STATUS_STATE x with pwr := { u.pwr with goal := goal } }
    let silent (u : State) : Prop := ∀ p, p < 48 → driving (u.fst p) = false ∧ u.fst p ≠ 5
    let order := ([30, 34, 33, 26, 27, 28, 29] ++ allClusters.filter (fun c => s.role c != roleRetired) ++ [32, 31]).filter
      fun d => s.fget (pdEn d) == 1 && !s.pdOn d
    (blockDown s CLK_PWR_CTRL = true → ∀ a ∈ asks, does a.2 s) ∧
    (∀ a ∈ asks, up → refused a.1 → does a.2 ((asked a.1).fset CLK_PWR_STATUS_REFUSED 1)) ∧
    (∀ a ∈ asks, up → ¬ refused a.1 → s.running = true →
      does a.2 { asked a.1 with pwr := { s.pwr with request := some a.1 } }) ∧
    (now → st = 1 → ∃ t, does .reqRun t ∧ powerState t = 0 ∧ t.sch.blank = true ∧ t.mem = s.mem ∧ t.cores = s.cores ∧
      t.clusters = s.clusters ∧ t.ports = s.ports ∧ t.flues = s.flues ∧ t.pwr = s.pwr) ∧
    (now → st = 2 → does .reqRun (moving { asked 0 with pwr := { s.pwr with powerOn := order } } 4 0)) ∧
    (now → st = 0 ∨ (st = 4 ∧ s.pwr.goal = 0) → does .reqRun (asked 0)) ∧
    (now → st = 4 → s.pwr.goal ≠ 0 → does .reqRun ((asked 0).fset CLK_PWR_STATUS_STATE 0)) ∧
    (now → st = 1 ∨ st = 4 → ¬ joined → does .reqQuiet (asked 1)) ∧
    (now → st = 2 ∨ st = 4 → ¬ joined → does .reqKeep (asked 2)) ∧
    (∀ u, now → ¬ joined → u = stopAll (asked 1) → st = 0 → does .reqQuiet (quietGate (moving u 4 1))) ∧
    (∀ u, now → ¬ joined → u = stopAll (asked 2) → st = 0 ∨ st = 1 → does .reqKeep (quietGate (moving u 4 2))) ∧
    (∀ (u : State) (p : Nat), p < 48 → u.mode p ≠ 4 → (stopAll u).pst p = 0) ∧
    (∀ u : State,
      (powerState u ≠ 4 ∨ u.pwr.goal = 0 ∨ ¬ silent u → quietGate u = u) ∧
      (powerState u = 4 → u.pwr.goal = 1 → silent u → quietGate u = u.fset CLK_PWR_STATUS_STATE 1) ∧
      (powerState u = 4 → 2 ≤ u.pwr.goal → silent u → let t := quietGate u
        powerState t = 2 ∧ t.twin = {} ∧ t.tmb = u.tmb ∧ t.nets = u.nets ∧ t.fget TWN_STATUS_LANE_UP = 0 ∧
          t.on RST_CAUSE_E_POWER = true ∧ t.pdOn 30 = u.pdOn 30 ∧ t.pdOn 35 = u.pdOn 35 ∧
          (isAsserted u .c = false → isAsserted t .e = true ∧ t.cores = [] ∧ t.sch = {} ∧ t.ports = []) ∧
          ∀ d, d < 35 → d ≠ 30 → t.pdOn d = false)) ∧
    (does .quietGate (quietGate s))

/-- R408, R412 to R414, R419, Table 17.6: power domains go on and off. -/
def Obligations.PowerDomains : Prop :=
  ∀ (s : State) (w : Nat) (v : W32), w < 2 →
    let does (i : Instr) (t : State) : Prop := exec i s = .next t
    let up : Prop := blockDown s CLK_PWR_CTRL = false
    let bit (b : Nat) : Nat := 32 * w + b
    (blockDown s CLK_PWR_CTRL = true → does (.pdEnWrite w v) s) ∧
    (s.pwr.powerOn = [] → does .domainPowerOn s) ∧
    (∀ d e l, s.pwr.powerOn = d :: e :: l → does .domainPowerOn (domainOn { s with pwr := { s.pwr with powerOn := e :: l } } d)) ∧
    (∀ d u, s.pwr.powerOn = [d] → u = domainOn { s with pwr := { s.pwr with powerOn := [] } } d →
      does .domainPowerOn (settle (releaseSources
        (if powerState u = 4 ∧ u.pwr.goal = 0 then u.fset CLK_PWR_STATUS_STATE 0 else u)))) ∧
    (∀ (u : State) (d : Nat), d < 36 →
      (u.pdOn d = true → domainOn u d = u) ∧
      (u.pdOn d = false → domainOn u d = settle ((startPace (domainLoss u d) (domainMems d)).fset (pdSt d) 1)) ∧
      (d < 26 → domainLoss u d = clusterReset u d) ∧
      (26 ≤ d → d < 30 → ∀ a, Memory.rd (domainLoss u d).mem a =
        if delayBase ≤ a ∧ a < delayBase + 0x6000000 ∧ a / 256 % 4 = d - 26 then 0 else Memory.rd u.mem a) ∧
      (d = 30 → domainLoss u d = zeroRange ((List.range 6).foldl netReset (targetReset u 44)) netBase (netBase + 0xC00000)) ∧
      (d = 31 → (domainLoss u d).twin = {} ∧ (domainLoss u d).fget TWN_STATUS_LANE_UP = 0 ∧ (domainLoss u d).pwr.twinRst = true) ∧
      (d = 32 → domainLoss u d = (List.range 48).foldl portReset u) ∧
      (d = 33 → (domainLoss u d).asrc = [] ∧ (domainLoss u d).mem = u.mem ∧
        ((∀ p < 48, u.mode p ≠ 4) → (domainLoss u d).chains = []) ∧
        (∀ p < 48, u.mode p = 4 → (domainLoss u d).on (DEC_CH_STATUS_RSVD (2 * p)) = true ∧
          (domainLoss u d).on (DEC_CH_STATUS_RUN (2 * p + 1)) = true)) ∧
      (34 ≤ d → domainLoss u d = u)) ∧
    (up → w = 0 → does (.pdEnWrite w v) ((List.range 32).foldl (fun u b => putPdBit u (bit b) (v.getLsbD b)) s)) ∧
    (up → w = 1 → does (.pdEnWrite w v) ((List.range 4).foldl (fun u b => putPdBit u (bit b) (v.getLsbD b)) s)) ∧
    (∀ (u : State) (d : Nat) (x : Bool), d < 36 →
      let fixed : Prop := d = 34 ∨ d = 35 ∨ (d < 26 ∧ u.role d = roleRetired)
      let follows : Prop := powerState u ≤ 1 ∨ (powerState u = 2 ∧ d = 30)
      (fixed → putPdBit u d x = u) ∧
      (¬ fixed → x = true → follows → putPdBit u d x = domainOn (u.fset (pdEn d) 1) d) ∧
      (¬ fixed → x = true → ¬ follows → putPdBit u d x = u.fset (pdEn d) 1) ∧
      (¬ fixed → x = false → u.fget (pdEn d) = 0 → putPdBit u d x = u) ∧
      (¬ fixed → x = false → u.fget (pdEn d) ≠ 0 → inUse u d = true → putPdBit u d x = u.fset CLK_PWR_STATUS_REFUSED 1) ∧
      (¬ fixed → x = false → u.fget (pdEn d) ≠ 0 → inUse u d = false → follows →
        putPdBit u d x = domainLoss ((u.fset (pdEn d) 0).fset (pdSt d) 0) d) ∧
      (¬ fixed → x = false → u.fget (pdEn d) ≠ 0 → inUse u d = false → ¬ follows → putPdBit u d x = u.fset (pdEn d) 0)) ∧
    (∀ c, c < 26 → s.imgState c ≠ 0 ∨ s.role c ≠ roleRetired → inUse s c = true) ∧
    (s.on TWN_CFG_EN = true → inUse s 31 = true) ∧
    (∀ p, p < 48 → s.pst p ≠ 0 ∨ (s.fst p ≠ 0 ∧ s.fst p ≠ 7) → inUse s 32 = true) ∧
    (∀ p, p < 6 → netMode s p ≠ 0 → inUse s 30 = true)

/-! ## Management and security (18, 19) -/

/-- R408, R426, R427, R430 to R434, Tables 18.5 and 18.6: boot attempts, their failures, and PILOT. -/
def Obligations.BootAttempts : Prop :=
  ∀ (s : State) (n : Nat),
    let does (i : Instr) (t : State) : Prop := exec i s = .next t
    let up : Prop := blockDown s MGT_BOOT_CTRL = false
    let writes : List Instr := [.bootGo, .clrFail]
    let waits : Prop := s.mgmt.attempting = true ∧ s.fget MGT_BOOT_STATUS_STAGE = 2 ∧ s.pwr.mgmtRst = false
    let image := if s.hostBad (s.get64 MGT_HOSTIMG) (s.fget MGT_HOSTIMG_LEN_LEN) = true then {}
      else readSlotImage s (Memory.rdN s.hostMem (s.get64 MGT_HOSTIMG) (s.fget MGT_HOSTIMG_LEN_LEN))
    let due : Prop := s.pwr.mgmtRst = false ∧ s.mgmt.bootDue = true
    let begun (u : State) : State := { (u.fset MGT_BOOT_STATUS_STAGE 0).wr MGT_BOOT_CNT (u.rd MGT_BOOT_CNT + 1) with
      mgmt := { u.mgmt with attemptAt := u.tmb.c } }
    let taken (u : State) : State := (begun u).fset MGT_BOOT_STATUS_FAILS (u.fget MGT_BOOT_STATUS_FAILS + 1)
    let sel (u : State) : Nat := u.fget MGT_BOOT_STATUS_BOOTSEL
    let goes (u : State) : Prop := u.fget MGT_BOOT_STATUS_FAILS < 3
    let loading (u : State) (a trial : Bool) : State :=
      (((taken u).fset MGT_BOOT_STATUS_STAGE 1).fset MGT_BOOT_STATUS_ACTIVE (b2n a)).fset MGT_BOOT_STATUS_TRIAL (b2n trial)
    let good' (u : State) (a : Bool) : Prop := (slotOf u a).valid = true ∧ u.mgmt.otpSvn ≤ (slotOf u a).svn
    let run (u : State) (x : FwSlot) : State := startFirmware u x.version x.svn
    let bad (u : State) (a : Bool) : Nat := if (slotOf u a).sigOk = true ∨ (slotOf u (!a)).sigOk = true then 5 else 4
    let finished (u : State) : State :=
      let v := ((u.fset MGT_BOOT_STATUS_STAGE 4).fset MGT_BOOT_STATUS_BOOT_OK 1).fset MGT_BOOT_STATUS_FAILS 0
      let w := if u.mgmt.failed = true then v else v.fset MGT_BOOT_STATUS_REASON 0
      { (if s.mgmt.bootByM = false ∨ powerState s = 3 then w.fset CLK_PWR_STATUS_STATE 0 else w) with
        mgmt := { u.mgmt with attempting := false, failed := false } }
    (blockDown s MGT_BOOT_CTRL = true → ∀ i ∈ writes, does i s) ∧
    (¬ due → does .bootAttempt s) ∧
    (due → does .bootAttempt (bootTry 5 { s with mgmt := { s.mgmt with bootDue := false } })) ∧
    (due → s.mgmt.record = none → sel s = 0 → ∃ t, does .bootAttempt t ∧ t.fget MGT_BOOT_STATUS_STAGE = 5 ∧
      t.fget MGT_BOOT_STATUS_REASON = 2 ∧ t.fget MGT_BOOT_STATUS_FAILS = 3) ∧
    (∀ u : State,
      (u.fget MGT_BOOT_STATUS_FAILS = 3 → bootTry (n + 1) u = enterPilot (begun u) 2) ∧
      (goes u → sel u = 2 → bootTry (n + 1) u = enterPilot (taken u) 1) ∧
      (goes u → sel u = 3 → bootTry (n + 1) u = if u.fget SEC_LIFE_STATE = 0 then taken u else enterPilot (taken u) 9) ∧
      (goes u → sel u = 1 → bootTry (n + 1) u =
        { (taken u).fset MGT_BOOT_STATUS_STAGE 2 with mgmt := { u.mgmt with attempting := true, attemptAt := u.tmb.c } }) ∧
      (goes u → sel u = 0 → u.mgmt.record = none →
        bootTry (n + 1) u = bootTry n (failAttempt ((taken u).fset MGT_BOOT_STATUS_STAGE 1) 3)) ∧
      (∀ g a trial, goes u → sel u = 0 → u.mgmt.record = some (g, a, trial) → good' u a →
        bootTry (n + 1) u = run (loading u a trial) (slotOf u a)) ∧
      (∀ g a, goes u → sel u = 0 → u.mgmt.record = some (g, a, false) → ¬ good' u a → good' u (!a) →
        bootTry (n + 1) u = run (writeRecord (loading u a false) (!a) false) (slotOf u (!a))) ∧
      (∀ g a trial, goes u → sel u = 0 → u.mgmt.record = some (g, a, trial) → ¬ good' u a → trial = true ∨ ¬ good' u (!a) →
        bootTry (n + 1) u = bootTry n (failAttempt (loading u a trial) (bad u a)))) ∧
    (∀ (u : State) (why : Nat), why < 256 →
      let t := enterPilot u why
      t.fget MGT_BOOT_STATUS_STAGE = 5 ∧ t.fget MGT_BOOT_STATUS_REASON = why ∧ powerState t = 3 ∧ t.cores = [] ∧ t.sch = {} ∧
        t.fget SEC_DBG_STATUS_LEVEL = min 1 (u.fget SEC_DBG_STATUS_LEVEL) ∧ (∀ d, d < 35 → t.pdOn d = false) ∧
        (∀ p, p < 6 → t.net p = {}) ∧ t.twin = {} ∧ t.tmb = u.tmb ∧ t.pwr.powerOn = [] ∧ t.mgmt.attempting = false) ∧
    (∀ (u : State) (why : Nat), why < 256 → (∀ r, u.mgmt.record = some r → r.2.2 = false) →
      failAttempt u why = (let x := writeLog (u.fset MGT_BOOT_STATUS_REASON why) 0 (logCode 0 subjBoot) (leBytes 1 why)
        { x with mgmt := { x.mgmt with attempting := false, failed := true } })) ∧
    (∀ (u : State) (why : Nat) (g : W32) (a : Bool), why < 256 → g ≠ 0xFFFFFFFF → u.mgmt.record = some (g, a, true) →
      let t := failAttempt u why
      t.mgmt.record = some (g + 1, !a, false) ∧ t.fget MGT_BOOT_STATUS_REASON = why ∧ t.fget MGT_BOOT_STATUS_ACTIVE = b2n (!a) ∧
        t.fget MGT_BOOT_STATUS_TRIAL = 0 ∧ t.mgmt.attempting = false ∧ t.mgmt.failed = true ∧
        (u.mgmt.copies.1 = some (g, a, true) ∨ u.mgmt.copies.2 = some (g, a, true)) ∧
        (t.mgmt.copies.1 = u.mgmt.copies.1 ∨ t.mgmt.copies.2 = u.mgmt.copies.2)) ∧
    (∀ (u : State) (version : W32) (svn : Nat), svn < 256 →
      let t := startFirmware u version svn
      t.fget MGT_BOOT_STATUS_STAGE = 3 ∧ t.rd MGT_FW_VER = version ∧ t.fget SEC_SVN_FW_SVN = svn ∧ t.fget MTX_REMAP_REMAP = 1 ∧
        t.mgmt.attempting = true ∧ t.mem = u.mem ∧ t.pwr = if u.mgmt.bootByM = true ∧ powerState u ≠ 3 then u.pwr
          else { u.pwr with powerOn := powerOrder u }) ∧
    (s.mgmt.attempting = false ∨ s.fget MGT_BOOT_STATUS_STAGE ≠ 3 → does .bootOk s) ∧
    (s.mgmt.attempting = true → s.fget MGT_BOOT_STATUS_STAGE = 3 → (∀ r, s.mgmt.record = some r → r.2.2 = false) →
      does .bootOk (finished s)) ∧
    (∀ g a, s.mgmt.attempting = true → s.fget MGT_BOOT_STATUS_STAGE = 3 → s.mgmt.record = some (g, a, true) →
      does .bootOk (finished (logNote (writeRecord s a false) 2 subjUpdate))) ∧
    (¬ waits → does .hostTmo s ∧ (up → does .bootGo s)) ∧
    (s.tmb.c < s.mgmt.attemptAt + 30000000000 → does .hostTmo s) ∧
    (waits → s.mgmt.attemptAt + 30000000000 ≤ s.tmb.c → does .hostTmo (bootTry 5 (failAttempt s 7))) ∧
    (waits → up → image.valid = true → does .bootGo (run s image)) ∧
    (waits → up → image.valid = false → does .bootGo (bootTry 5 (failAttempt s (if image.sigOk = true then 5 else 4)))) ∧
    (∀ (u : State) (bs : List Byte),
      (headerFits bs = false ∨ Config.imageOk bs = false → readSlotImage u bs = {}) ∧
      (headerFits bs = true → Config.imageOk bs = true → readSlotImage u bs =
        { valid := decide (u.mgmt.otpSvn ≤ leNat ((bs.drop 8).take 1)), sigOk := true,
          version := BitVec.ofNat 32 (leNat ((bs.drop 4).take 4)), svn := leNat ((bs.drop 8).take 1) })) ∧
    (up → s.fget MGT_BOOT_STATUS_STAGE = 5 → does .clrFail (s.fset MGT_BOOT_STATUS_FAILS 0)) ∧
    (up → s.fget MGT_BOOT_STATUS_STAGE ≠ 5 → does .clrFail s)

/-- R408, R428, R438 to R441, R456, Table 18.7: the lifecycle, the SVN, debug requests and the JTAG instructions. -/
def Obligations.SecurityRequests : Prop :=
  ∀ (s : State) (v : W32) (cv : BitVec 16),
    let does (i : Instr) (t : State) : Prop := exec i s = .next t
    let up : Prop := blockDown s MGT_BOOT_CTRL = false
    let writes : List Instr := [.lifecycleAdvance v, .newchal, .debugRequest v, .commit cv]
    let told (u : State) : State := if firmwareUp u = true then logNote u 4 subjSecurity else u
    let adv := v.toNat / 256 % 4
    let here := s.mgmt.lifeNext.getD (s.fget SEC_LIFE_STATE)
    let may : Prop := v.toNat / 65536 = 0x5EA1 ∧ adv = here + 1 ∧ adv ≤ 2
    let asks : Prop := up ∧ v.getLsbD 3 = false
    let level := v.toNat % 4
    let token := v.getLsbD 2
    let locked : Prop := s.on SEC_DBG_STATUS_LOCKOUT = true
    let raised : Prop := s.fget SEC_DBG_STATUS_LEVEL < level
    let used := { s with mgmt := { s.mgmt with nonceUsed := true } }
    let proven : Prop := s.mgmt.nonceUsed = false ∧ (token = true ∨ s.mgmt.deviceKey = true) ∧
      Config.proofOk token ((List.range 8).map fun (i : Nat) => s.rd (SEC_CHAL i)) level
        ((List.range (if token then 24 else 8)).map fun (i : Nat) => s.rd (SEC_RESP i)) = true
    let life : Prop := token = true ∨ s.fget SEC_LIFE_STATE = 0 ∨ (s.fget SEC_LIFE_STATE = 1 ∧ level ≤ 2)
    let grants (u : State) : State := told (((u.fset SEC_DBG_STATUS_LEVEL level).fset SEC_DBG_STATUS_FAILS 0).fset
      SEC_DBG_STATUS_LAST 1)
    let refuses (u : State) (last : Nat) : State := told (raise (u.fset SEC_DBG_STATUS_LAST last) (srcOf 60 2) 0)
    let wrong := (used.fset SEC_DBG_STATUS_LAST 2).count SEC_DBG_STATUS_FAILS 1
    let scan : Prop := s.fget SEC_DBG_STATUS_LEVEL = 3 ∧ powerState s ≠ 3 ∧ (powerState s = 0 → s.running = false) ∧
      (s.pair = 5 ∨ (s.lead = true ∧ s.pair = 0))
    let idcode : W32 := BitVec.ofNat 4 (s.fget GLB_ID_REV) ++ (0x4096#16 ++ (Config.makerCode ++ 1#1))
    let jtag (k : Nat) : State := { s with mgmt := { s.mgmt with jtag := k } }
    (blockDown s MGT_BOOT_CTRL = true → ∀ i ∈ writes, does i s) ∧
    (up → ¬ may → does (.lifecycleAdvance v) (regAccess s 3 SEC_LIFE)) ∧
    (up → may → does (.lifecycleAdvance v) (told { s.fset SEC_LIFE_PEND 1 with
      mgmt := { s.mgmt with lifeNext := some adv, deviceKey := s.mgmt.deviceKey && adv != 2 } })) ∧
    (up → v.getLsbD 3 = true → ∀ i, i = .newchal ∨ i = .debugRequest v → ∃ t, does i t ∧ t.mgmt.nonceUsed = false ∧
      t.drawn = s.drawn + 8 ∧ (∀ k, k < 8 → t.rd (SEC_CHAL k) = Config.nonce (s.drawn + k)) ∧
      regsBut s t ((List.range 8).map fun k => word (SEC_CHAL k)) ∧
      t = { s with regs := t.regs, drawn := t.drawn, mgmt := { s.mgmt with nonceUsed := false } }) ∧
    (asks → locked → does (.debugRequest v) (refuses s 5)) ∧
    (asks → ¬ locked → ¬ raised → does (.debugRequest v) (grants s)) ∧
    (asks → ¬ locked → raised → ¬ proven → does (.debugRequest v) (told (raise
      (if 8 ≤ wrong.fget SEC_DBG_STATUS_FAILS then { wrong.fset SEC_DBG_STATUS_LOCKOUT 1 with
        mgmt := { wrong.mgmt with lockAt := s.tmb.c } } else wrong) (srcOf 60 2) 0))) ∧
    (asks → ¬ locked → raised → proven → ¬ life → does (.debugRequest v) (refuses used 3)) ∧
    (asks → ¬ locked → raised → proven → life → powerState s = 3 → 2 ≤ level → does (.debugRequest v) (refuses used 4)) ∧
    (asks → ¬ locked → raised → proven → life → powerState s ≠ 3 ∨ level ≤ 1 → does (.debugRequest v) (grants used)) ∧
    (does .lockoutEnd (if s.mgmt.lockAt + 30000000000 ≤ s.tmb.c then s.fset SEC_DBG_STATUS_LOCKOUT 0 else s)) ∧
    (up → cv ≠ 0x5EA1 → does (.commit cv) (regAccess s 3 SEC_SVN)) ∧
    (up → cv = 0x5EA1 → does (.commit cv) (let top := max s.mgmt.otpSvn (s.fget SEC_SVN_FW_SVN)
      { s.fset SEC_SVN_OTP_SVN top with mgmt := { s.mgmt with otpSvn := top } })) ∧
    (does .samplePreload (jtag 0)) ∧
    (does .bypass (jtag 2)) ∧
    (does .idcode { jtag 1 with readData := idcode }) ∧
    (scan → does .extest { s with mgmt := { s.mgmt with jtag := 3, scan := true } }) ∧
    (¬ scan → does .extest (raise s (srcOf 60 3) 0))

/-! ## Steps, reset and the invariant -/

/-- A step runs the command at the front of the queue on the state with the rest of the queue, and idles on an empty queue
(log entry 2, a design choice). -/
def Obligations.StepRunsFront : Prop :=
  ∀ (s : State) (c : Instr) (rest : List Instr),
    step { s with pending := c :: rest } = exec c { s with pending := rest } ∧
    (s.pending = [] → step s = .next s)

/-- Every command that names units, indices and lengths the part has completes, in every state; one that names something
the part does not have is refused by name, and no command faults. -/
def Obligations.EveryCommandCompletes : Prop :=
  ∀ (i : Instr) (s : State),
    (wellFormed i = true → ∃ t, exec i s = .next t) ∧
    (wellFormed i = false → exec i s = .refused .illFormed)

/-- R6, R37, R60, R117, R263, R307, R357, R400, R404, R407, R415, Tables 16.1 and 17.2: the machine right after power-on, with
the cold reset asserted: its registers at their reset words, nothing in its memories, no work and no command waiting. That
every memory reads zero and that the OTP words are those of Table 16.1 or zero are choices of the model (log entries 3
and 4). -/
def Obligations.ResetState : Prop :=
  let s := State.reset
  (∀ off, s.rd off = resetWord off) ∧ (∀ b, Memory.rd s.mem b = 0) ∧ (∀ b, Memory.rd s.hostMem b = 0) ∧ s.pending = [] ∧ tidy s ∧
    s.pwr.asserts = [⟨.c, true, 2000000⟩] ∧ s.pwr.coldCause = 0 ∧ s.pwr.engineRst = true ∧ s.pwr.mgmtRst = true ∧
    s.pwr.hifRst = true ∧ s.pwr.twinRst = true ∧ (∀ c, c < 26 → c ∈ s.pwr.clusters) ∧ (∀ p, p < 48 → p ∈ s.pwr.ports) ∧
    (∀ p, p < 6 → p ∈ s.pwr.nets) ∧ (∀ off, blockDown s off = true) ∧ s.running = false ∧ s.nValid = false ∧
    s.fget SCH_TICK_CFG_TICK_LEN = 1 ∧ s.fget SCH_STATUS_TICK_ACT = 1 ∧ s.family = 0 ∧ s.tmb.c = 0 ∧ s.sch.held = [] ∧
    s.hif.events = [] ∧ s.hif.cpls = [] ∧ s.rd CLK_PD_EN0 = 0xFFFFFFFF ∧ powerState s = 0 ∧ s.fget FLT_STATUS_STATE = 0 ∧
    s.rd (FLT_SRC_CFG 0) = BitVec.ofNat 32 (3 + 4 + 8 * 4 + 1024) ∧ s.rd (FLT_SRC_GRACE 40) = 1000 ∧
    s.fget FLT_REC_REC_MAX = 3 ∧ (∀ c, c < 26 → s.lhOf c = 31 ∧ s.imgState c = 0) ∧
    (∀ m, m < 256 → s.on (MBX_STATUS_FULL m) = false) ∧ s.fget SEC_DBG_STATUS_LEVEL = 0 ∧ s.fget MTX_REMAP_REMAP = 0 ∧
    s.mgmt.bootDue = true

/-- The model's own invariant (log entries 5 and 6): the register words and both memories keep their canonical form, so that
equal contents are equal data, and a step takes exactly one command out of the queue. -/
def Obligations.TidyKept : Prop :=
  ∀ s t : State, tidy s → step s = .next t → tidy t ∧ t.pending = s.pending.tail

/-- R78, R79, R82, Tables 3.1, 3.3, 3.5 to 3.9: two slot words of one kind that decode to the same operation under the same
predication are the same word: every bit of a slot word belongs to a field or is required to be zero. -/
def Obligations.SlotWordsDiffer : Prop :=
  ∀ w x : W32, slotPred w = slotPred x →
    (∀ o, decodeCOp w = some o → decodeCOp x = some o → w = x) ∧
    (∀ o, decodeMOp w = some o → decodeMOp x = some o → w = x) ∧
    (∀ o, decodeVOp w = some o → decodeVOp x = some o → w = x)
end

