-- ==== Sys2Proof/Laws/Tables.lean ====
section
/-! SUPPORT. Laws/Tables.lean: what the operations over sparse tables and memories do: a read after a write, and the
canonical form that every operation keeps. -/

namespace Sys2Proof

variable {α : Type}

/-! ## Reading -/

@[simp] theorem Tbl.find_nil (i : Nat) : Tbl.find ([] : Tbl α) i = none := rfl

theorem Tbl.find_cons (k : Nat) (v : α) (t : Tbl α) (i : Nat) :
    Tbl.find ((k, v) :: t) i = if k = i then some v else Tbl.find t i := rfl

@[simp] theorem Tbl.get_nil (d : α) (i : Nat) : Tbl.get d [] i = d := rfl

theorem Tbl.find_filter_ne (t : Tbl α) (i j : Nat) :
    Tbl.find (t.filter fun e => e.1 != i) j = if j = i then none else Tbl.find t j := by
  induction t with
  | nil => simp
  | cons e t ih =>
    obtain ⟨k, v⟩ := e
    simp only [List.filter_cons]
    split <;> simp_all [Tbl.find_cons] <;> grind

theorem Tbl.find_insert (t : Tbl α) (i j : Nat) (v : α) (h : Tbl.find t i = none) :
    Tbl.find (Tbl.insert t i v) j = if j = i then some v else Tbl.find t j := by
  induction t with
  | nil => simp only [Tbl.insert, Tbl.find_cons, Tbl.find_nil]; grind
  | cons e t ih =>
    obtain ⟨k, w⟩ := e
    simp only [Tbl.insert]
    simp only [Tbl.find_cons] at h
    split <;> simp only [Tbl.find_cons] <;> grind

theorem Tbl.get_put [DecidableEq α] (d : α) (t : Tbl α) (i j : Nat) (v : α) :
    Tbl.get d (Tbl.put d t i v) j = if j = i then v else Tbl.get d t j := by
  unfold Tbl.put Tbl.get
  dsimp only
  split
  · rw [Tbl.find_filter_ne]; split <;> simp_all
  · rw [Tbl.find_insert _ _ _ _ (by simp [Tbl.find_filter_ne]), Tbl.find_filter_ne]; split <;> simp_all

@[simp] theorem Tbl.get_put_same [DecidableEq α] (d : α) (t : Tbl α) (i : Nat) (v : α) :
    Tbl.get d (Tbl.put d t i v) i = v := by simp [Tbl.get_put]

theorem Tbl.get_put_other [DecidableEq α] (d : α) (t : Tbl α) (i j : Nat) (v : α) (h : j ≠ i) :
    Tbl.get d (Tbl.put d t i v) j = Tbl.get d t j := by simp [Tbl.get_put, h]

/-- A write to one key says nothing about another, whatever an absent key holds there. -/
theorem Tbl.find_put_other [DecidableEq α] (d : α) (t : Tbl α) (i j : Nat) (v : α) (h : j ≠ i) :
    Tbl.find (Tbl.put d t i v) j = Tbl.find t j := by
  unfold Tbl.put
  dsimp only
  split
  · simp [Tbl.find_filter_ne, h]
  · rw [Tbl.find_insert _ _ _ _ (by simp [Tbl.find_filter_ne]), Tbl.find_filter_ne]; simp [h]

theorem Tbl.filter_insert (t : Tbl α) (i : Nat) (v : α) :
    (Tbl.insert t i v).filter (fun e => e.1 != i) = t.filter fun e => e.1 != i := by
  induction t with
  | nil => simp [Tbl.insert]
  | cons e t ih =>
    obtain ⟨k, w⟩ := e
    simp only [Tbl.insert]
    split <;> simp_all [List.filter_cons]

/-- The later of two writes to one key stands. -/
@[simp] theorem Tbl.put_put [DecidableEq α] (d : α) (t : Tbl α) (i : Nat) (v w : α) :
    Tbl.put d (Tbl.put d t i v) i w = Tbl.put d t i w := by
  unfold Tbl.put
  dsimp only
  by_cases hv : v = d <;> by_cases hw : w = d <;> simp [hv, hw, Tbl.filter_insert, List.filter_filter]

theorem Tbl.get_clear (d : α) (t : Tbl α) (lo hi i : Nat) :
    Tbl.get d (Tbl.clear t lo hi) i = if lo ≤ i ∧ i < hi then d else Tbl.get d t i := by
  unfold Tbl.clear Tbl.get
  induction t with
  | nil => simp
  | cons e t ih =>
    obtain ⟨k, v⟩ := e
    simp only [List.filter_cons]
    split <;> simp_all [Tbl.find_cons] <;> grind

/-! ## The canonical form -/

section Canonical
variable [DecidableEq α] {d : Nat → α}

theorem Tbl.wfFrom_mono {lo lo' : Option Nat} {t : Tbl α} (h : Tbl.wfFrom d lo t = true)
    (hl : ∀ l, lo' = some l → ∃ m, lo = some m ∧ l ≤ m) : Tbl.wfFrom d lo' t = true := by
  cases t with
  | nil => rfl
  | cons e t =>
    obtain ⟨k, v⟩ := e
    simp only [Tbl.wfFrom, Bool.and_eq_true] at h ⊢
    refine ⟨⟨?_, h.1.2⟩, h.2⟩
    cases lo' with
    | none => rfl
    | some l =>
      obtain ⟨m, rfl, hm⟩ := hl l rfl
      have := h.1.1
      simp at this ⊢
      omega

theorem Tbl.wfFrom_tail {lo : Option Nat} {k : Nat} {v : α} {t : Tbl α} (h : Tbl.wfFrom d lo ((k, v) :: t) = true) :
    Tbl.wfFrom d lo t = true := by
  simp only [Tbl.wfFrom, Bool.and_eq_true] at h
  refine Tbl.wfFrom_mono h.2 fun l hl => ?_
  subst hl
  have := h.1.1
  simp at this
  exact ⟨k, rfl, by omega⟩

theorem Tbl.wfFrom_filter {lo : Option Nat} {t : Tbl α} (p : Nat × α → Bool) (h : Tbl.wfFrom d lo t = true) :
    Tbl.wfFrom d lo (t.filter p) = true := by
  induction t generalizing lo with
  | nil => simpa using h
  | cons e t ih =>
    obtain ⟨k, v⟩ := e
    simp only [List.filter_cons]
    split
    · simp only [Tbl.wfFrom, Bool.and_eq_true] at h ⊢
      exact ⟨h.1, ih h.2⟩
    · exact ih (Tbl.wfFrom_tail h)

theorem Tbl.wfFrom_insert {lo : Option Nat} {t : Tbl α} {i : Nat} {v : α} (h : Tbl.wfFrom d lo t = true)
    (hv : v ≠ d i) (hi : ∀ l, lo = some l → l < i) (hn : ∀ e ∈ t, e.1 ≠ i) :
    Tbl.wfFrom d lo (Tbl.insert t i v) = true := by
  induction t generalizing lo with
  | nil => cases lo <;> simp_all [Tbl.insert, Tbl.wfFrom]
  | cons e t ih =>
    obtain ⟨k, w⟩ := e
    have hk : k ≠ i := hn (k, w) (by simp)
    simp only [Tbl.insert]
    simp only [Tbl.wfFrom, Bool.and_eq_true] at h
    split
    · rename_i hik
      simp only [Tbl.wfFrom, Bool.and_eq_true]
      exact ⟨⟨by cases lo <;> simp_all, by simpa using hv⟩, ⟨by simpa using hik, h.1.2⟩, h.2⟩
    · rename_i hik
      simp only [Tbl.wfFrom, Bool.and_eq_true]
      refine ⟨h.1, ih h.2 ?_ fun e he => hn e (by simp [he])⟩
      intro l hl
      cases hl
      omega

theorem Tbl.wfFrom_put {t : Tbl α} (i : Nat) (v : α) (h : Tbl.wfFrom d none t = true) :
    Tbl.wfFrom d none (Tbl.put (d i) t i v) = true := by
  unfold Tbl.put
  dsimp only
  split
  · exact Tbl.wfFrom_filter _ h
  · rename_i hv
    refine Tbl.wfFrom_insert (Tbl.wfFrom_filter _ h) hv (by simp) fun e he => ?_
    simp at he
    exact he.2

theorem Tbl.wfFrom_clear {t : Tbl α} (lo hi : Nat) (h : Tbl.wfFrom d none t = true) :
    Tbl.wfFrom d none (Tbl.clear t lo hi) = true := Tbl.wfFrom_filter _ h

end Canonical

namespace Machine

/-! ## Memories -/

theorem Memory.rd_wr (m : Memory) (a b : Nat) (v : Byte) :
    Memory.rd (Memory.wr m a v) b = if b = a then v else Memory.rd m b := Tbl.get_put ..

theorem Memory.rd_zero (m : Memory) (lo hi a : Nat) :
    Memory.rd (Memory.zero m lo hi) a = if lo ≤ a ∧ a < hi then 0 else Memory.rd m a := Tbl.get_clear ..

theorem Memory.rd_wrN (m : Memory) (a : Nat) (l : List Byte) (b : Nat) :
    Memory.rd (Memory.wrN m a l) b = if a ≤ b ∧ b < a + l.length then l.getD (b - a) 0 else Memory.rd m b := by
  induction l generalizing m a with
  | nil =>
    have : ¬ (a ≤ b ∧ b < a) := by omega
    simp [Memory.wrN, this]
  | cons x l ih =>
    simp only [Memory.wrN, ih, Memory.rd_wr, List.length_cons]
    by_cases h : b = a
    · subst h
      simp
    · by_cases h1 : a + 1 ≤ b ∧ b < a + 1 + l.length
      · have h2 : a ≤ b ∧ b < a + (l.length + 1) := by omega
        have h3 : b - a = (b - (a + 1)) + 1 := by omega
        simp [h1, h2, h3]
      · have h2 : ¬ (a ≤ b ∧ b < a + (l.length + 1)) := by omega
        rw [if_neg h1, if_neg h2, if_neg h]

theorem Memory.wf_wr {m : Memory} (a : Nat) (v : Byte) (h : Memory.wf m = true) : Memory.wf (Memory.wr m a v) = true :=
  Tbl.wfFrom_put (d := fun _ => (0 : Byte)) a v h

theorem Memory.wf_wrN {m : Memory} (a : Nat) (l : List Byte) (h : Memory.wf m = true) :
    Memory.wf (Memory.wrN m a l) = true := by
  induction l generalizing m a with
  | nil => exact h
  | cons x l ih => exact ih _ (Memory.wf_wr _ _ h)

theorem Memory.wf_wr32 {m : Memory} (a : Nat) (v : W32) (h : Memory.wf m = true) :
    Memory.wf (Memory.wr32 m a v) = true := Memory.wf_wrN _ _ h

theorem Memory.wf_zero {m : Memory} (lo hi : Nat) (h : Memory.wf m = true) : Memory.wf (Memory.zero m lo hi) = true :=
  Tbl.wfFrom_clear lo hi h

theorem Memory.wf_filter {m : Memory} (p : Host.Cell → Bool) (h : Memory.wf m = true) :
    Memory.wf (m.filter p : Memory) = true := Tbl.wfFrom_filter p h

theorem Memory.wf_foldl {β : Type} (l : List β) (f : Memory → β → Memory)
    (hf : ∀ m e, Memory.wf m = true → Memory.wf (f m e) = true) {m : Memory} (h : Memory.wf m = true) :
    Memory.wf (l.foldl f m) = true := by
  induction l generalizing m with
  | nil => exact h
  | cons e l ih => exact ih (hf _ _ h)

theorem Memory.wf_copy {m : Memory} (src dst n : Nat) (h : Memory.wf m = true) :
    Memory.wf (Memory.copy m src dst n) = true :=
  Memory.wf_foldl _ _ (fun _ _ h => Memory.wf_wr _ _ h) (Memory.wf_zero _ _ h)

end Machine
end Sys2Proof
end

