-- ==== Sys2Proof/Laws/State.lean ====
section
/-! SUPPORT. Laws/State.lean: what each update of State leaves alone, field by field and accessor by accessor, and what
a read gives after a write. -/

namespace Sys2Proof.Machine

/-! ### wr -/

@[simp] theorem State.wr_pending (s : State) (off : Nat) (v : W32) : (s.wr off v).pending = s.pending := rfl
@[simp] theorem State.wr_latch (s : State) (off : Nat) (v : W32) : (s.wr off v).latch = s.latch := rfl
@[simp] theorem State.wr_hold (s : State) (off : Nat) (v : W32) : (s.wr off v).hold = s.hold := rfl
@[simp] theorem State.wr_readData (s : State) (off : Nat) (v : W32) : (s.wr off v).readData = s.readData := rfl
@[simp] theorem State.wr_mem (s : State) (off : Nat) (v : W32) : (s.wr off v).mem = s.mem := rfl
@[simp] theorem State.wr_hostMem (s : State) (off : Nat) (v : W32) : (s.wr off v).hostMem = s.hostMem := rfl
@[simp] theorem State.wr_cores (s : State) (off : Nat) (v : W32) : (s.wr off v).cores = s.cores := rfl
@[simp] theorem State.wr_clusters (s : State) (off : Nat) (v : W32) : (s.wr off v).clusters = s.clusters := rfl
@[simp] theorem State.wr_ember (s : State) (off : Nat) (v : W32) : (s.wr off v).ember = s.ember := rfl
@[simp] theorem State.wr_sch (s : State) (off : Nat) (v : W32) : (s.wr off v).sch = s.sch := rfl
@[simp] theorem State.wr_mix (s : State) (off : Nat) (v : W32) : (s.wr off v).mix = s.mix := rfl
@[simp] theorem State.wr_ports (s : State) (off : Nat) (v : W32) : (s.wr off v).ports = s.ports := rfl
@[simp] theorem State.wr_asrc (s : State) (off : Nat) (v : W32) : (s.wr off v).asrc = s.asrc := rfl
@[simp] theorem State.wr_chains (s : State) (off : Nat) (v : W32) : (s.wr off v).chains = s.chains := rfl
@[simp] theorem State.wr_flues (s : State) (off : Nat) (v : W32) : (s.wr off v).flues = s.flues := rfl
@[simp] theorem State.wr_groups (s : State) (off : Nat) (v : W32) : (s.wr off v).groups = s.groups := rfl
@[simp] theorem State.wr_rx (s : State) (off : Nat) (v : W32) : (s.wr off v).rx = s.rx := rfl
@[simp] theorem State.wr_tx (s : State) (off : Nat) (v : W32) : (s.wr off v).tx = s.tx := rfl
@[simp] theorem State.wr_nets (s : State) (off : Nat) (v : W32) : (s.wr off v).nets = s.nets := rfl
@[simp] theorem State.wr_convoy (s : State) (off : Nat) (v : W32) : (s.wr off v).convoy = s.convoy := rfl
@[simp] theorem State.wr_tmb (s : State) (off : Nat) (v : W32) : (s.wr off v).tmb = s.tmb := rfl
@[simp] theorem State.wr_ref (s : State) (off : Nat) (v : W32) : (s.wr off v).ref = s.ref := rfl
@[simp] theorem State.wr_twin (s : State) (off : Nat) (v : W32) : (s.wr off v).twin = s.twin := rfl
@[simp] theorem State.wr_hif (s : State) (off : Nat) (v : W32) : (s.wr off v).hif = s.hif := rfl
@[simp] theorem State.wr_mail (s : State) (off : Nat) (v : W32) : (s.wr off v).mail = s.mail := rfl
@[simp] theorem State.wr_mtx (s : State) (off : Nat) (v : W32) : (s.wr off v).mtx = s.mtx := rfl
@[simp] theorem State.wr_flt (s : State) (off : Nat) (v : W32) : (s.wr off v).flt = s.flt := rfl
@[simp] theorem State.wr_pwr (s : State) (off : Nat) (v : W32) : (s.wr off v).pwr = s.pwr := rfl
@[simp] theorem State.wr_mgmt (s : State) (off : Nat) (v : W32) : (s.wr off v).mgmt = s.mgmt := rfl
@[simp] theorem State.wr_balls (s : State) (off : Nat) (v : W32) : (s.wr off v).balls = s.balls := rfl
@[simp] theorem State.wr_drawn (s : State) (off : Nat) (v : W32) : (s.wr off v).drawn = s.drawn := rfl
@[simp] theorem State.core_wr (s : State) (off : Nat) (v : W32) (a b : Nat) : (s.wr off v).core a b = s.core a b := rfl
@[simp] theorem State.cluster_wr (s : State) (off : Nat) (v : W32) (a : Nat) : (s.wr off v).cluster a = s.cluster a := rfl
@[simp] theorem State.port_wr (s : State) (off : Nat) (v : W32) (a : Nat) : (s.wr off v).port a = s.port a := rfl
@[simp] theorem State.asrcCh_wr (s : State) (off : Nat) (v : W32) (a : Nat) : (s.wr off v).asrcCh a = s.asrcCh a := rfl
@[simp] theorem State.chain_wr (s : State) (off : Nat) (v : W32) (a : Nat) : (s.wr off v).chain a = s.chain a := rfl
@[simp] theorem State.flue_wr (s : State) (off : Nat) (v : W32) (a : Nat) : (s.wr off v).flue a = s.flue a := rfl
@[simp] theorem State.group_wr (s : State) (off : Nat) (v : W32) (a : Nat) : (s.wr off v).group a = s.group a := rfl
@[simp] theorem State.net_wr (s : State) (off : Nat) (v : W32) (a : Nat) : (s.wr off v).net a = s.net a := rfl
@[simp] theorem State.rxs_wr (s : State) (off : Nat) (v : W32) (a : Nat) : (s.wr off v).rxs a = s.rxs a := rfl
@[simp] theorem State.txs_wr (s : State) (off : Nat) (v : W32) (a : Nat) : (s.wr off v).txs a = s.txs a := rfl
@[simp] theorem State.dom_wr (s : State) (off : Nat) (v : W32) (a : Nat) : (s.wr off v).dom a = s.dom a := rfl
@[simp] theorem State.cand_wr (s : State) (off : Nat) (v : W32) (a : Nat) : (s.wr off v).cand a = s.cand a := rfl
@[simp] theorem State.mbox_wr (s : State) (off : Nat) (v : W32) (a : Nat) : (s.wr off v).mbox a = s.mbox a := rfl

/-! ### fset -/

@[simp] theorem State.fset_pending (s : State) (f : Fd) (v : Nat) : (s.fset f v).pending = s.pending := rfl
@[simp] theorem State.fset_latch (s : State) (f : Fd) (v : Nat) : (s.fset f v).latch = s.latch := rfl
@[simp] theorem State.fset_hold (s : State) (f : Fd) (v : Nat) : (s.fset f v).hold = s.hold := rfl
@[simp] theorem State.fset_readData (s : State) (f : Fd) (v : Nat) : (s.fset f v).readData = s.readData := rfl
@[simp] theorem State.fset_mem (s : State) (f : Fd) (v : Nat) : (s.fset f v).mem = s.mem := rfl
@[simp] theorem State.fset_hostMem (s : State) (f : Fd) (v : Nat) : (s.fset f v).hostMem = s.hostMem := rfl
@[simp] theorem State.fset_cores (s : State) (f : Fd) (v : Nat) : (s.fset f v).cores = s.cores := rfl
@[simp] theorem State.fset_clusters (s : State) (f : Fd) (v : Nat) : (s.fset f v).clusters = s.clusters := rfl
@[simp] theorem State.fset_ember (s : State) (f : Fd) (v : Nat) : (s.fset f v).ember = s.ember := rfl
@[simp] theorem State.fset_sch (s : State) (f : Fd) (v : Nat) : (s.fset f v).sch = s.sch := rfl
@[simp] theorem State.fset_mix (s : State) (f : Fd) (v : Nat) : (s.fset f v).mix = s.mix := rfl
@[simp] theorem State.fset_ports (s : State) (f : Fd) (v : Nat) : (s.fset f v).ports = s.ports := rfl
@[simp] theorem State.fset_asrc (s : State) (f : Fd) (v : Nat) : (s.fset f v).asrc = s.asrc := rfl
@[simp] theorem State.fset_chains (s : State) (f : Fd) (v : Nat) : (s.fset f v).chains = s.chains := rfl
@[simp] theorem State.fset_flues (s : State) (f : Fd) (v : Nat) : (s.fset f v).flues = s.flues := rfl
@[simp] theorem State.fset_groups (s : State) (f : Fd) (v : Nat) : (s.fset f v).groups = s.groups := rfl
@[simp] theorem State.fset_rx (s : State) (f : Fd) (v : Nat) : (s.fset f v).rx = s.rx := rfl
@[simp] theorem State.fset_tx (s : State) (f : Fd) (v : Nat) : (s.fset f v).tx = s.tx := rfl
@[simp] theorem State.fset_nets (s : State) (f : Fd) (v : Nat) : (s.fset f v).nets = s.nets := rfl
@[simp] theorem State.fset_convoy (s : State) (f : Fd) (v : Nat) : (s.fset f v).convoy = s.convoy := rfl
@[simp] theorem State.fset_tmb (s : State) (f : Fd) (v : Nat) : (s.fset f v).tmb = s.tmb := rfl
@[simp] theorem State.fset_ref (s : State) (f : Fd) (v : Nat) : (s.fset f v).ref = s.ref := rfl
@[simp] theorem State.fset_twin (s : State) (f : Fd) (v : Nat) : (s.fset f v).twin = s.twin := rfl
@[simp] theorem State.fset_hif (s : State) (f : Fd) (v : Nat) : (s.fset f v).hif = s.hif := rfl
@[simp] theorem State.fset_mail (s : State) (f : Fd) (v : Nat) : (s.fset f v).mail = s.mail := rfl
@[simp] theorem State.fset_mtx (s : State) (f : Fd) (v : Nat) : (s.fset f v).mtx = s.mtx := rfl
@[simp] theorem State.fset_flt (s : State) (f : Fd) (v : Nat) : (s.fset f v).flt = s.flt := rfl
@[simp] theorem State.fset_pwr (s : State) (f : Fd) (v : Nat) : (s.fset f v).pwr = s.pwr := rfl
@[simp] theorem State.fset_mgmt (s : State) (f : Fd) (v : Nat) : (s.fset f v).mgmt = s.mgmt := rfl
@[simp] theorem State.fset_balls (s : State) (f : Fd) (v : Nat) : (s.fset f v).balls = s.balls := rfl
@[simp] theorem State.fset_drawn (s : State) (f : Fd) (v : Nat) : (s.fset f v).drawn = s.drawn := rfl
@[simp] theorem State.core_fset (s : State) (f : Fd) (v : Nat) (a b : Nat) : (s.fset f v).core a b = s.core a b := rfl
@[simp] theorem State.cluster_fset (s : State) (f : Fd) (v : Nat) (a : Nat) : (s.fset f v).cluster a = s.cluster a := rfl
@[simp] theorem State.port_fset (s : State) (f : Fd) (v : Nat) (a : Nat) : (s.fset f v).port a = s.port a := rfl
@[simp] theorem State.asrcCh_fset (s : State) (f : Fd) (v : Nat) (a : Nat) : (s.fset f v).asrcCh a = s.asrcCh a := rfl
@[simp] theorem State.chain_fset (s : State) (f : Fd) (v : Nat) (a : Nat) : (s.fset f v).chain a = s.chain a := rfl
@[simp] theorem State.flue_fset (s : State) (f : Fd) (v : Nat) (a : Nat) : (s.fset f v).flue a = s.flue a := rfl
@[simp] theorem State.group_fset (s : State) (f : Fd) (v : Nat) (a : Nat) : (s.fset f v).group a = s.group a := rfl
@[simp] theorem State.net_fset (s : State) (f : Fd) (v : Nat) (a : Nat) : (s.fset f v).net a = s.net a := rfl
@[simp] theorem State.rxs_fset (s : State) (f : Fd) (v : Nat) (a : Nat) : (s.fset f v).rxs a = s.rxs a := rfl
@[simp] theorem State.txs_fset (s : State) (f : Fd) (v : Nat) (a : Nat) : (s.fset f v).txs a = s.txs a := rfl
@[simp] theorem State.dom_fset (s : State) (f : Fd) (v : Nat) (a : Nat) : (s.fset f v).dom a = s.dom a := rfl
@[simp] theorem State.cand_fset (s : State) (f : Fd) (v : Nat) (a : Nat) : (s.fset f v).cand a = s.cand a := rfl
@[simp] theorem State.mbox_fset (s : State) (f : Fd) (v : Nat) (a : Nat) : (s.fset f v).mbox a = s.mbox a := rfl

/-! ### count -/

@[simp] theorem State.count_pending (s : State) (f : Fd) (v : Nat) : (s.count f v).pending = s.pending := rfl
@[simp] theorem State.count_latch (s : State) (f : Fd) (v : Nat) : (s.count f v).latch = s.latch := rfl
@[simp] theorem State.count_hold (s : State) (f : Fd) (v : Nat) : (s.count f v).hold = s.hold := rfl
@[simp] theorem State.count_readData (s : State) (f : Fd) (v : Nat) : (s.count f v).readData = s.readData := rfl
@[simp] theorem State.count_mem (s : State) (f : Fd) (v : Nat) : (s.count f v).mem = s.mem := rfl
@[simp] theorem State.count_hostMem (s : State) (f : Fd) (v : Nat) : (s.count f v).hostMem = s.hostMem := rfl
@[simp] theorem State.count_cores (s : State) (f : Fd) (v : Nat) : (s.count f v).cores = s.cores := rfl
@[simp] theorem State.count_clusters (s : State) (f : Fd) (v : Nat) : (s.count f v).clusters = s.clusters := rfl
@[simp] theorem State.count_ember (s : State) (f : Fd) (v : Nat) : (s.count f v).ember = s.ember := rfl
@[simp] theorem State.count_sch (s : State) (f : Fd) (v : Nat) : (s.count f v).sch = s.sch := rfl
@[simp] theorem State.count_mix (s : State) (f : Fd) (v : Nat) : (s.count f v).mix = s.mix := rfl
@[simp] theorem State.count_ports (s : State) (f : Fd) (v : Nat) : (s.count f v).ports = s.ports := rfl
@[simp] theorem State.count_asrc (s : State) (f : Fd) (v : Nat) : (s.count f v).asrc = s.asrc := rfl
@[simp] theorem State.count_chains (s : State) (f : Fd) (v : Nat) : (s.count f v).chains = s.chains := rfl
@[simp] theorem State.count_flues (s : State) (f : Fd) (v : Nat) : (s.count f v).flues = s.flues := rfl
@[simp] theorem State.count_groups (s : State) (f : Fd) (v : Nat) : (s.count f v).groups = s.groups := rfl
@[simp] theorem State.count_rx (s : State) (f : Fd) (v : Nat) : (s.count f v).rx = s.rx := rfl
@[simp] theorem State.count_tx (s : State) (f : Fd) (v : Nat) : (s.count f v).tx = s.tx := rfl
@[simp] theorem State.count_nets (s : State) (f : Fd) (v : Nat) : (s.count f v).nets = s.nets := rfl
@[simp] theorem State.count_convoy (s : State) (f : Fd) (v : Nat) : (s.count f v).convoy = s.convoy := rfl
@[simp] theorem State.count_tmb (s : State) (f : Fd) (v : Nat) : (s.count f v).tmb = s.tmb := rfl
@[simp] theorem State.count_ref (s : State) (f : Fd) (v : Nat) : (s.count f v).ref = s.ref := rfl
@[simp] theorem State.count_twin (s : State) (f : Fd) (v : Nat) : (s.count f v).twin = s.twin := rfl
@[simp] theorem State.count_hif (s : State) (f : Fd) (v : Nat) : (s.count f v).hif = s.hif := rfl
@[simp] theorem State.count_mail (s : State) (f : Fd) (v : Nat) : (s.count f v).mail = s.mail := rfl
@[simp] theorem State.count_mtx (s : State) (f : Fd) (v : Nat) : (s.count f v).mtx = s.mtx := rfl
@[simp] theorem State.count_flt (s : State) (f : Fd) (v : Nat) : (s.count f v).flt = s.flt := rfl
@[simp] theorem State.count_pwr (s : State) (f : Fd) (v : Nat) : (s.count f v).pwr = s.pwr := rfl
@[simp] theorem State.count_mgmt (s : State) (f : Fd) (v : Nat) : (s.count f v).mgmt = s.mgmt := rfl
@[simp] theorem State.count_balls (s : State) (f : Fd) (v : Nat) : (s.count f v).balls = s.balls := rfl
@[simp] theorem State.count_drawn (s : State) (f : Fd) (v : Nat) : (s.count f v).drawn = s.drawn := rfl
@[simp] theorem State.core_count (s : State) (f : Fd) (v : Nat) (a b : Nat) : (s.count f v).core a b = s.core a b := rfl
@[simp] theorem State.cluster_count (s : State) (f : Fd) (v : Nat) (a : Nat) : (s.count f v).cluster a = s.cluster a := rfl
@[simp] theorem State.port_count (s : State) (f : Fd) (v : Nat) (a : Nat) : (s.count f v).port a = s.port a := rfl
@[simp] theorem State.asrcCh_count (s : State) (f : Fd) (v : Nat) (a : Nat) : (s.count f v).asrcCh a = s.asrcCh a := rfl
@[simp] theorem State.chain_count (s : State) (f : Fd) (v : Nat) (a : Nat) : (s.count f v).chain a = s.chain a := rfl
@[simp] theorem State.flue_count (s : State) (f : Fd) (v : Nat) (a : Nat) : (s.count f v).flue a = s.flue a := rfl
@[simp] theorem State.group_count (s : State) (f : Fd) (v : Nat) (a : Nat) : (s.count f v).group a = s.group a := rfl
@[simp] theorem State.net_count (s : State) (f : Fd) (v : Nat) (a : Nat) : (s.count f v).net a = s.net a := rfl
@[simp] theorem State.rxs_count (s : State) (f : Fd) (v : Nat) (a : Nat) : (s.count f v).rxs a = s.rxs a := rfl
@[simp] theorem State.txs_count (s : State) (f : Fd) (v : Nat) (a : Nat) : (s.count f v).txs a = s.txs a := rfl
@[simp] theorem State.dom_count (s : State) (f : Fd) (v : Nat) (a : Nat) : (s.count f v).dom a = s.dom a := rfl
@[simp] theorem State.cand_count (s : State) (f : Fd) (v : Nat) (a : Nat) : (s.count f v).cand a = s.cand a := rfl
@[simp] theorem State.mbox_count (s : State) (f : Fd) (v : Nat) (a : Nat) : (s.count f v).mbox a = s.mbox a := rfl

/-! ### set64 -/

@[simp] theorem State.set64_pending (s : State) (off v : Nat) : (s.set64 off v).pending = s.pending := rfl
@[simp] theorem State.set64_latch (s : State) (off v : Nat) : (s.set64 off v).latch = s.latch := rfl
@[simp] theorem State.set64_hold (s : State) (off v : Nat) : (s.set64 off v).hold = s.hold := rfl
@[simp] theorem State.set64_readData (s : State) (off v : Nat) : (s.set64 off v).readData = s.readData := rfl
@[simp] theorem State.set64_mem (s : State) (off v : Nat) : (s.set64 off v).mem = s.mem := rfl
@[simp] theorem State.set64_hostMem (s : State) (off v : Nat) : (s.set64 off v).hostMem = s.hostMem := rfl
@[simp] theorem State.set64_cores (s : State) (off v : Nat) : (s.set64 off v).cores = s.cores := rfl
@[simp] theorem State.set64_clusters (s : State) (off v : Nat) : (s.set64 off v).clusters = s.clusters := rfl
@[simp] theorem State.set64_ember (s : State) (off v : Nat) : (s.set64 off v).ember = s.ember := rfl
@[simp] theorem State.set64_sch (s : State) (off v : Nat) : (s.set64 off v).sch = s.sch := rfl
@[simp] theorem State.set64_mix (s : State) (off v : Nat) : (s.set64 off v).mix = s.mix := rfl
@[simp] theorem State.set64_ports (s : State) (off v : Nat) : (s.set64 off v).ports = s.ports := rfl
@[simp] theorem State.set64_asrc (s : State) (off v : Nat) : (s.set64 off v).asrc = s.asrc := rfl
@[simp] theorem State.set64_chains (s : State) (off v : Nat) : (s.set64 off v).chains = s.chains := rfl
@[simp] theorem State.set64_flues (s : State) (off v : Nat) : (s.set64 off v).flues = s.flues := rfl
@[simp] theorem State.set64_groups (s : State) (off v : Nat) : (s.set64 off v).groups = s.groups := rfl
@[simp] theorem State.set64_rx (s : State) (off v : Nat) : (s.set64 off v).rx = s.rx := rfl
@[simp] theorem State.set64_tx (s : State) (off v : Nat) : (s.set64 off v).tx = s.tx := rfl
@[simp] theorem State.set64_nets (s : State) (off v : Nat) : (s.set64 off v).nets = s.nets := rfl
@[simp] theorem State.set64_convoy (s : State) (off v : Nat) : (s.set64 off v).convoy = s.convoy := rfl
@[simp] theorem State.set64_tmb (s : State) (off v : Nat) : (s.set64 off v).tmb = s.tmb := rfl
@[simp] theorem State.set64_ref (s : State) (off v : Nat) : (s.set64 off v).ref = s.ref := rfl
@[simp] theorem State.set64_twin (s : State) (off v : Nat) : (s.set64 off v).twin = s.twin := rfl
@[simp] theorem State.set64_hif (s : State) (off v : Nat) : (s.set64 off v).hif = s.hif := rfl
@[simp] theorem State.set64_mail (s : State) (off v : Nat) : (s.set64 off v).mail = s.mail := rfl
@[simp] theorem State.set64_mtx (s : State) (off v : Nat) : (s.set64 off v).mtx = s.mtx := rfl
@[simp] theorem State.set64_flt (s : State) (off v : Nat) : (s.set64 off v).flt = s.flt := rfl
@[simp] theorem State.set64_pwr (s : State) (off v : Nat) : (s.set64 off v).pwr = s.pwr := rfl
@[simp] theorem State.set64_mgmt (s : State) (off v : Nat) : (s.set64 off v).mgmt = s.mgmt := rfl
@[simp] theorem State.set64_balls (s : State) (off v : Nat) : (s.set64 off v).balls = s.balls := rfl
@[simp] theorem State.set64_drawn (s : State) (off v : Nat) : (s.set64 off v).drawn = s.drawn := rfl
@[simp] theorem State.core_set64 (s : State) (off v : Nat) (a b : Nat) : (s.set64 off v).core a b = s.core a b := rfl
@[simp] theorem State.cluster_set64 (s : State) (off v : Nat) (a : Nat) : (s.set64 off v).cluster a = s.cluster a := rfl
@[simp] theorem State.port_set64 (s : State) (off v : Nat) (a : Nat) : (s.set64 off v).port a = s.port a := rfl
@[simp] theorem State.asrcCh_set64 (s : State) (off v : Nat) (a : Nat) : (s.set64 off v).asrcCh a = s.asrcCh a := rfl
@[simp] theorem State.chain_set64 (s : State) (off v : Nat) (a : Nat) : (s.set64 off v).chain a = s.chain a := rfl
@[simp] theorem State.flue_set64 (s : State) (off v : Nat) (a : Nat) : (s.set64 off v).flue a = s.flue a := rfl
@[simp] theorem State.group_set64 (s : State) (off v : Nat) (a : Nat) : (s.set64 off v).group a = s.group a := rfl
@[simp] theorem State.net_set64 (s : State) (off v : Nat) (a : Nat) : (s.set64 off v).net a = s.net a := rfl
@[simp] theorem State.rxs_set64 (s : State) (off v : Nat) (a : Nat) : (s.set64 off v).rxs a = s.rxs a := rfl
@[simp] theorem State.txs_set64 (s : State) (off v : Nat) (a : Nat) : (s.set64 off v).txs a = s.txs a := rfl
@[simp] theorem State.dom_set64 (s : State) (off v : Nat) (a : Nat) : (s.set64 off v).dom a = s.dom a := rfl
@[simp] theorem State.cand_set64 (s : State) (off v : Nat) (a : Nat) : (s.set64 off v).cand a = s.cand a := rfl
@[simp] theorem State.mbox_set64 (s : State) (off v : Nat) (a : Nat) : (s.set64 off v).mbox a = s.mbox a := rfl

/-! ### setCore -/

@[simp] theorem State.setCore_pending (s : State) (cl j : Nat) (x : Core) : (s.setCore cl j x).pending = s.pending := rfl
@[simp] theorem State.setCore_regs (s : State) (cl j : Nat) (x : Core) : (s.setCore cl j x).regs = s.regs := rfl
@[simp] theorem State.setCore_latch (s : State) (cl j : Nat) (x : Core) : (s.setCore cl j x).latch = s.latch := rfl
@[simp] theorem State.setCore_hold (s : State) (cl j : Nat) (x : Core) : (s.setCore cl j x).hold = s.hold := rfl
@[simp] theorem State.setCore_readData (s : State) (cl j : Nat) (x : Core) : (s.setCore cl j x).readData = s.readData := rfl
@[simp] theorem State.setCore_mem (s : State) (cl j : Nat) (x : Core) : (s.setCore cl j x).mem = s.mem := rfl
@[simp] theorem State.setCore_hostMem (s : State) (cl j : Nat) (x : Core) : (s.setCore cl j x).hostMem = s.hostMem := rfl
@[simp] theorem State.setCore_clusters (s : State) (cl j : Nat) (x : Core) : (s.setCore cl j x).clusters = s.clusters := rfl
@[simp] theorem State.setCore_ember (s : State) (cl j : Nat) (x : Core) : (s.setCore cl j x).ember = s.ember := rfl
@[simp] theorem State.setCore_sch (s : State) (cl j : Nat) (x : Core) : (s.setCore cl j x).sch = s.sch := rfl
@[simp] theorem State.setCore_mix (s : State) (cl j : Nat) (x : Core) : (s.setCore cl j x).mix = s.mix := rfl
@[simp] theorem State.setCore_ports (s : State) (cl j : Nat) (x : Core) : (s.setCore cl j x).ports = s.ports := rfl
@[simp] theorem State.setCore_asrc (s : State) (cl j : Nat) (x : Core) : (s.setCore cl j x).asrc = s.asrc := rfl
@[simp] theorem State.setCore_chains (s : State) (cl j : Nat) (x : Core) : (s.setCore cl j x).chains = s.chains := rfl
@[simp] theorem State.setCore_flues (s : State) (cl j : Nat) (x : Core) : (s.setCore cl j x).flues = s.flues := rfl
@[simp] theorem State.setCore_groups (s : State) (cl j : Nat) (x : Core) : (s.setCore cl j x).groups = s.groups := rfl
@[simp] theorem State.setCore_rx (s : State) (cl j : Nat) (x : Core) : (s.setCore cl j x).rx = s.rx := rfl
@[simp] theorem State.setCore_tx (s : State) (cl j : Nat) (x : Core) : (s.setCore cl j x).tx = s.tx := rfl
@[simp] theorem State.setCore_nets (s : State) (cl j : Nat) (x : Core) : (s.setCore cl j x).nets = s.nets := rfl
@[simp] theorem State.setCore_convoy (s : State) (cl j : Nat) (x : Core) : (s.setCore cl j x).convoy = s.convoy := rfl
@[simp] theorem State.setCore_tmb (s : State) (cl j : Nat) (x : Core) : (s.setCore cl j x).tmb = s.tmb := rfl
@[simp] theorem State.setCore_ref (s : State) (cl j : Nat) (x : Core) : (s.setCore cl j x).ref = s.ref := rfl
@[simp] theorem State.setCore_twin (s : State) (cl j : Nat) (x : Core) : (s.setCore cl j x).twin = s.twin := rfl
@[simp] theorem State.setCore_hif (s : State) (cl j : Nat) (x : Core) : (s.setCore cl j x).hif = s.hif := rfl
@[simp] theorem State.setCore_mail (s : State) (cl j : Nat) (x : Core) : (s.setCore cl j x).mail = s.mail := rfl
@[simp] theorem State.setCore_mtx (s : State) (cl j : Nat) (x : Core) : (s.setCore cl j x).mtx = s.mtx := rfl
@[simp] theorem State.setCore_flt (s : State) (cl j : Nat) (x : Core) : (s.setCore cl j x).flt = s.flt := rfl
@[simp] theorem State.setCore_pwr (s : State) (cl j : Nat) (x : Core) : (s.setCore cl j x).pwr = s.pwr := rfl
@[simp] theorem State.setCore_mgmt (s : State) (cl j : Nat) (x : Core) : (s.setCore cl j x).mgmt = s.mgmt := rfl
@[simp] theorem State.setCore_balls (s : State) (cl j : Nat) (x : Core) : (s.setCore cl j x).balls = s.balls := rfl
@[simp] theorem State.setCore_drawn (s : State) (cl j : Nat) (x : Core) : (s.setCore cl j x).drawn = s.drawn := rfl
@[simp] theorem State.cluster_setCore (s : State) (cl j : Nat) (x : Core) (a : Nat) : (s.setCore cl j x).cluster a = s.cluster a := rfl
@[simp] theorem State.port_setCore (s : State) (cl j : Nat) (x : Core) (a : Nat) : (s.setCore cl j x).port a = s.port a := rfl
@[simp] theorem State.asrcCh_setCore (s : State) (cl j : Nat) (x : Core) (a : Nat) : (s.setCore cl j x).asrcCh a = s.asrcCh a := rfl
@[simp] theorem State.chain_setCore (s : State) (cl j : Nat) (x : Core) (a : Nat) : (s.setCore cl j x).chain a = s.chain a := rfl
@[simp] theorem State.flue_setCore (s : State) (cl j : Nat) (x : Core) (a : Nat) : (s.setCore cl j x).flue a = s.flue a := rfl
@[simp] theorem State.group_setCore (s : State) (cl j : Nat) (x : Core) (a : Nat) : (s.setCore cl j x).group a = s.group a := rfl
@[simp] theorem State.net_setCore (s : State) (cl j : Nat) (x : Core) (a : Nat) : (s.setCore cl j x).net a = s.net a := rfl
@[simp] theorem State.rxs_setCore (s : State) (cl j : Nat) (x : Core) (a : Nat) : (s.setCore cl j x).rxs a = s.rxs a := rfl
@[simp] theorem State.txs_setCore (s : State) (cl j : Nat) (x : Core) (a : Nat) : (s.setCore cl j x).txs a = s.txs a := rfl
@[simp] theorem State.dom_setCore (s : State) (cl j : Nat) (x : Core) (a : Nat) : (s.setCore cl j x).dom a = s.dom a := rfl
@[simp] theorem State.cand_setCore (s : State) (cl j : Nat) (x : Core) (a : Nat) : (s.setCore cl j x).cand a = s.cand a := rfl
@[simp] theorem State.mbox_setCore (s : State) (cl j : Nat) (x : Core) (a : Nat) : (s.setCore cl j x).mbox a = s.mbox a := rfl
@[simp] theorem State.rd_setCore (s : State) (cl j : Nat) (x : Core) (a : Nat) : (s.setCore cl j x).rd a = s.rd a := rfl
@[simp] theorem State.fget_setCore (s : State) (cl j : Nat) (x : Core) (g : Fd) : (s.setCore cl j x).fget g = s.fget g := rfl
@[simp] theorem State.on_setCore (s : State) (cl j : Nat) (x : Core) (g : Fd) : (s.setCore cl j x).on g = s.on g := rfl
@[simp] theorem State.get64_setCore (s : State) (cl j : Nat) (x : Core) (a : Nat) : (s.setCore cl j x).get64 a = s.get64 a := rfl

/-! ### setCluster -/

@[simp] theorem State.setCluster_pending (s : State) (cl : Nat) (x : Cluster) : (s.setCluster cl x).pending = s.pending := rfl
@[simp] theorem State.setCluster_regs (s : State) (cl : Nat) (x : Cluster) : (s.setCluster cl x).regs = s.regs := rfl
@[simp] theorem State.setCluster_latch (s : State) (cl : Nat) (x : Cluster) : (s.setCluster cl x).latch = s.latch := rfl
@[simp] theorem State.setCluster_hold (s : State) (cl : Nat) (x : Cluster) : (s.setCluster cl x).hold = s.hold := rfl
@[simp] theorem State.setCluster_readData (s : State) (cl : Nat) (x : Cluster) : (s.setCluster cl x).readData = s.readData := rfl
@[simp] theorem State.setCluster_mem (s : State) (cl : Nat) (x : Cluster) : (s.setCluster cl x).mem = s.mem := rfl
@[simp] theorem State.setCluster_hostMem (s : State) (cl : Nat) (x : Cluster) : (s.setCluster cl x).hostMem = s.hostMem := rfl
@[simp] theorem State.setCluster_cores (s : State) (cl : Nat) (x : Cluster) : (s.setCluster cl x).cores = s.cores := rfl
@[simp] theorem State.setCluster_ember (s : State) (cl : Nat) (x : Cluster) : (s.setCluster cl x).ember = s.ember := rfl
@[simp] theorem State.setCluster_sch (s : State) (cl : Nat) (x : Cluster) : (s.setCluster cl x).sch = s.sch := rfl
@[simp] theorem State.setCluster_mix (s : State) (cl : Nat) (x : Cluster) : (s.setCluster cl x).mix = s.mix := rfl
@[simp] theorem State.setCluster_ports (s : State) (cl : Nat) (x : Cluster) : (s.setCluster cl x).ports = s.ports := rfl
@[simp] theorem State.setCluster_asrc (s : State) (cl : Nat) (x : Cluster) : (s.setCluster cl x).asrc = s.asrc := rfl
@[simp] theorem State.setCluster_chains (s : State) (cl : Nat) (x : Cluster) : (s.setCluster cl x).chains = s.chains := rfl
@[simp] theorem State.setCluster_flues (s : State) (cl : Nat) (x : Cluster) : (s.setCluster cl x).flues = s.flues := rfl
@[simp] theorem State.setCluster_groups (s : State) (cl : Nat) (x : Cluster) : (s.setCluster cl x).groups = s.groups := rfl
@[simp] theorem State.setCluster_rx (s : State) (cl : Nat) (x : Cluster) : (s.setCluster cl x).rx = s.rx := rfl
@[simp] theorem State.setCluster_tx (s : State) (cl : Nat) (x : Cluster) : (s.setCluster cl x).tx = s.tx := rfl
@[simp] theorem State.setCluster_nets (s : State) (cl : Nat) (x : Cluster) : (s.setCluster cl x).nets = s.nets := rfl
@[simp] theorem State.setCluster_convoy (s : State) (cl : Nat) (x : Cluster) : (s.setCluster cl x).convoy = s.convoy := rfl
@[simp] theorem State.setCluster_tmb (s : State) (cl : Nat) (x : Cluster) : (s.setCluster cl x).tmb = s.tmb := rfl
@[simp] theorem State.setCluster_ref (s : State) (cl : Nat) (x : Cluster) : (s.setCluster cl x).ref = s.ref := rfl
@[simp] theorem State.setCluster_twin (s : State) (cl : Nat) (x : Cluster) : (s.setCluster cl x).twin = s.twin := rfl
@[simp] theorem State.setCluster_hif (s : State) (cl : Nat) (x : Cluster) : (s.setCluster cl x).hif = s.hif := rfl
@[simp] theorem State.setCluster_mail (s : State) (cl : Nat) (x : Cluster) : (s.setCluster cl x).mail = s.mail := rfl
@[simp] theorem State.setCluster_mtx (s : State) (cl : Nat) (x : Cluster) : (s.setCluster cl x).mtx = s.mtx := rfl
@[simp] theorem State.setCluster_flt (s : State) (cl : Nat) (x : Cluster) : (s.setCluster cl x).flt = s.flt := rfl
@[simp] theorem State.setCluster_pwr (s : State) (cl : Nat) (x : Cluster) : (s.setCluster cl x).pwr = s.pwr := rfl
@[simp] theorem State.setCluster_mgmt (s : State) (cl : Nat) (x : Cluster) : (s.setCluster cl x).mgmt = s.mgmt := rfl
@[simp] theorem State.setCluster_balls (s : State) (cl : Nat) (x : Cluster) : (s.setCluster cl x).balls = s.balls := rfl
@[simp] theorem State.setCluster_drawn (s : State) (cl : Nat) (x : Cluster) : (s.setCluster cl x).drawn = s.drawn := rfl
@[simp] theorem State.core_setCluster (s : State) (cl : Nat) (x : Cluster) (a b : Nat) : (s.setCluster cl x).core a b = s.core a b := rfl
@[simp] theorem State.port_setCluster (s : State) (cl : Nat) (x : Cluster) (a : Nat) : (s.setCluster cl x).port a = s.port a := rfl
@[simp] theorem State.asrcCh_setCluster (s : State) (cl : Nat) (x : Cluster) (a : Nat) : (s.setCluster cl x).asrcCh a = s.asrcCh a := rfl
@[simp] theorem State.chain_setCluster (s : State) (cl : Nat) (x : Cluster) (a : Nat) : (s.setCluster cl x).chain a = s.chain a := rfl
@[simp] theorem State.flue_setCluster (s : State) (cl : Nat) (x : Cluster) (a : Nat) : (s.setCluster cl x).flue a = s.flue a := rfl
@[simp] theorem State.group_setCluster (s : State) (cl : Nat) (x : Cluster) (a : Nat) : (s.setCluster cl x).group a = s.group a := rfl
@[simp] theorem State.net_setCluster (s : State) (cl : Nat) (x : Cluster) (a : Nat) : (s.setCluster cl x).net a = s.net a := rfl
@[simp] theorem State.rxs_setCluster (s : State) (cl : Nat) (x : Cluster) (a : Nat) : (s.setCluster cl x).rxs a = s.rxs a := rfl
@[simp] theorem State.txs_setCluster (s : State) (cl : Nat) (x : Cluster) (a : Nat) : (s.setCluster cl x).txs a = s.txs a := rfl
@[simp] theorem State.dom_setCluster (s : State) (cl : Nat) (x : Cluster) (a : Nat) : (s.setCluster cl x).dom a = s.dom a := rfl
@[simp] theorem State.cand_setCluster (s : State) (cl : Nat) (x : Cluster) (a : Nat) : (s.setCluster cl x).cand a = s.cand a := rfl
@[simp] theorem State.mbox_setCluster (s : State) (cl : Nat) (x : Cluster) (a : Nat) : (s.setCluster cl x).mbox a = s.mbox a := rfl
@[simp] theorem State.rd_setCluster (s : State) (cl : Nat) (x : Cluster) (a : Nat) : (s.setCluster cl x).rd a = s.rd a := rfl
@[simp] theorem State.fget_setCluster (s : State) (cl : Nat) (x : Cluster) (g : Fd) : (s.setCluster cl x).fget g = s.fget g := rfl
@[simp] theorem State.on_setCluster (s : State) (cl : Nat) (x : Cluster) (g : Fd) : (s.setCluster cl x).on g = s.on g := rfl
@[simp] theorem State.get64_setCluster (s : State) (cl : Nat) (x : Cluster) (a : Nat) : (s.setCluster cl x).get64 a = s.get64 a := rfl

/-! ### setPort -/

@[simp] theorem State.setPort_pending (s : State) (p : Nat) (x : Port) : (s.setPort p x).pending = s.pending := rfl
@[simp] theorem State.setPort_regs (s : State) (p : Nat) (x : Port) : (s.setPort p x).regs = s.regs := rfl
@[simp] theorem State.setPort_latch (s : State) (p : Nat) (x : Port) : (s.setPort p x).latch = s.latch := rfl
@[simp] theorem State.setPort_hold (s : State) (p : Nat) (x : Port) : (s.setPort p x).hold = s.hold := rfl
@[simp] theorem State.setPort_readData (s : State) (p : Nat) (x : Port) : (s.setPort p x).readData = s.readData := rfl
@[simp] theorem State.setPort_mem (s : State) (p : Nat) (x : Port) : (s.setPort p x).mem = s.mem := rfl
@[simp] theorem State.setPort_hostMem (s : State) (p : Nat) (x : Port) : (s.setPort p x).hostMem = s.hostMem := rfl
@[simp] theorem State.setPort_cores (s : State) (p : Nat) (x : Port) : (s.setPort p x).cores = s.cores := rfl
@[simp] theorem State.setPort_clusters (s : State) (p : Nat) (x : Port) : (s.setPort p x).clusters = s.clusters := rfl
@[simp] theorem State.setPort_ember (s : State) (p : Nat) (x : Port) : (s.setPort p x).ember = s.ember := rfl
@[simp] theorem State.setPort_sch (s : State) (p : Nat) (x : Port) : (s.setPort p x).sch = s.sch := rfl
@[simp] theorem State.setPort_mix (s : State) (p : Nat) (x : Port) : (s.setPort p x).mix = s.mix := rfl
@[simp] theorem State.setPort_asrc (s : State) (p : Nat) (x : Port) : (s.setPort p x).asrc = s.asrc := rfl
@[simp] theorem State.setPort_chains (s : State) (p : Nat) (x : Port) : (s.setPort p x).chains = s.chains := rfl
@[simp] theorem State.setPort_flues (s : State) (p : Nat) (x : Port) : (s.setPort p x).flues = s.flues := rfl
@[simp] theorem State.setPort_groups (s : State) (p : Nat) (x : Port) : (s.setPort p x).groups = s.groups := rfl
@[simp] theorem State.setPort_rx (s : State) (p : Nat) (x : Port) : (s.setPort p x).rx = s.rx := rfl
@[simp] theorem State.setPort_tx (s : State) (p : Nat) (x : Port) : (s.setPort p x).tx = s.tx := rfl
@[simp] theorem State.setPort_nets (s : State) (p : Nat) (x : Port) : (s.setPort p x).nets = s.nets := rfl
@[simp] theorem State.setPort_convoy (s : State) (p : Nat) (x : Port) : (s.setPort p x).convoy = s.convoy := rfl
@[simp] theorem State.setPort_tmb (s : State) (p : Nat) (x : Port) : (s.setPort p x).tmb = s.tmb := rfl
@[simp] theorem State.setPort_ref (s : State) (p : Nat) (x : Port) : (s.setPort p x).ref = s.ref := rfl
@[simp] theorem State.setPort_twin (s : State) (p : Nat) (x : Port) : (s.setPort p x).twin = s.twin := rfl
@[simp] theorem State.setPort_hif (s : State) (p : Nat) (x : Port) : (s.setPort p x).hif = s.hif := rfl
@[simp] theorem State.setPort_mail (s : State) (p : Nat) (x : Port) : (s.setPort p x).mail = s.mail := rfl
@[simp] theorem State.setPort_mtx (s : State) (p : Nat) (x : Port) : (s.setPort p x).mtx = s.mtx := rfl
@[simp] theorem State.setPort_flt (s : State) (p : Nat) (x : Port) : (s.setPort p x).flt = s.flt := rfl
@[simp] theorem State.setPort_pwr (s : State) (p : Nat) (x : Port) : (s.setPort p x).pwr = s.pwr := rfl
@[simp] theorem State.setPort_mgmt (s : State) (p : Nat) (x : Port) : (s.setPort p x).mgmt = s.mgmt := rfl
@[simp] theorem State.setPort_balls (s : State) (p : Nat) (x : Port) : (s.setPort p x).balls = s.balls := rfl
@[simp] theorem State.setPort_drawn (s : State) (p : Nat) (x : Port) : (s.setPort p x).drawn = s.drawn := rfl
@[simp] theorem State.core_setPort (s : State) (p : Nat) (x : Port) (a b : Nat) : (s.setPort p x).core a b = s.core a b := rfl
@[simp] theorem State.cluster_setPort (s : State) (p : Nat) (x : Port) (a : Nat) : (s.setPort p x).cluster a = s.cluster a := rfl
@[simp] theorem State.asrcCh_setPort (s : State) (p : Nat) (x : Port) (a : Nat) : (s.setPort p x).asrcCh a = s.asrcCh a := rfl
@[simp] theorem State.chain_setPort (s : State) (p : Nat) (x : Port) (a : Nat) : (s.setPort p x).chain a = s.chain a := rfl
@[simp] theorem State.flue_setPort (s : State) (p : Nat) (x : Port) (a : Nat) : (s.setPort p x).flue a = s.flue a := rfl
@[simp] theorem State.group_setPort (s : State) (p : Nat) (x : Port) (a : Nat) : (s.setPort p x).group a = s.group a := rfl
@[simp] theorem State.net_setPort (s : State) (p : Nat) (x : Port) (a : Nat) : (s.setPort p x).net a = s.net a := rfl
@[simp] theorem State.rxs_setPort (s : State) (p : Nat) (x : Port) (a : Nat) : (s.setPort p x).rxs a = s.rxs a := rfl
@[simp] theorem State.txs_setPort (s : State) (p : Nat) (x : Port) (a : Nat) : (s.setPort p x).txs a = s.txs a := rfl
@[simp] theorem State.dom_setPort (s : State) (p : Nat) (x : Port) (a : Nat) : (s.setPort p x).dom a = s.dom a := rfl
@[simp] theorem State.cand_setPort (s : State) (p : Nat) (x : Port) (a : Nat) : (s.setPort p x).cand a = s.cand a := rfl
@[simp] theorem State.mbox_setPort (s : State) (p : Nat) (x : Port) (a : Nat) : (s.setPort p x).mbox a = s.mbox a := rfl
@[simp] theorem State.rd_setPort (s : State) (p : Nat) (x : Port) (a : Nat) : (s.setPort p x).rd a = s.rd a := rfl
@[simp] theorem State.fget_setPort (s : State) (p : Nat) (x : Port) (g : Fd) : (s.setPort p x).fget g = s.fget g := rfl
@[simp] theorem State.on_setPort (s : State) (p : Nat) (x : Port) (g : Fd) : (s.setPort p x).on g = s.on g := rfl
@[simp] theorem State.get64_setPort (s : State) (p : Nat) (x : Port) (a : Nat) : (s.setPort p x).get64 a = s.get64 a := rfl

/-! ### setAsrc -/

@[simp] theorem State.setAsrc_pending (s : State) (p : Nat) (x : Asrc) : (s.setAsrc p x).pending = s.pending := rfl
@[simp] theorem State.setAsrc_regs (s : State) (p : Nat) (x : Asrc) : (s.setAsrc p x).regs = s.regs := rfl
@[simp] theorem State.setAsrc_latch (s : State) (p : Nat) (x : Asrc) : (s.setAsrc p x).latch = s.latch := rfl
@[simp] theorem State.setAsrc_hold (s : State) (p : Nat) (x : Asrc) : (s.setAsrc p x).hold = s.hold := rfl
@[simp] theorem State.setAsrc_readData (s : State) (p : Nat) (x : Asrc) : (s.setAsrc p x).readData = s.readData := rfl
@[simp] theorem State.setAsrc_mem (s : State) (p : Nat) (x : Asrc) : (s.setAsrc p x).mem = s.mem := rfl
@[simp] theorem State.setAsrc_hostMem (s : State) (p : Nat) (x : Asrc) : (s.setAsrc p x).hostMem = s.hostMem := rfl
@[simp] theorem State.setAsrc_cores (s : State) (p : Nat) (x : Asrc) : (s.setAsrc p x).cores = s.cores := rfl
@[simp] theorem State.setAsrc_clusters (s : State) (p : Nat) (x : Asrc) : (s.setAsrc p x).clusters = s.clusters := rfl
@[simp] theorem State.setAsrc_ember (s : State) (p : Nat) (x : Asrc) : (s.setAsrc p x).ember = s.ember := rfl
@[simp] theorem State.setAsrc_sch (s : State) (p : Nat) (x : Asrc) : (s.setAsrc p x).sch = s.sch := rfl
@[simp] theorem State.setAsrc_mix (s : State) (p : Nat) (x : Asrc) : (s.setAsrc p x).mix = s.mix := rfl
@[simp] theorem State.setAsrc_ports (s : State) (p : Nat) (x : Asrc) : (s.setAsrc p x).ports = s.ports := rfl
@[simp] theorem State.setAsrc_chains (s : State) (p : Nat) (x : Asrc) : (s.setAsrc p x).chains = s.chains := rfl
@[simp] theorem State.setAsrc_flues (s : State) (p : Nat) (x : Asrc) : (s.setAsrc p x).flues = s.flues := rfl
@[simp] theorem State.setAsrc_groups (s : State) (p : Nat) (x : Asrc) : (s.setAsrc p x).groups = s.groups := rfl
@[simp] theorem State.setAsrc_rx (s : State) (p : Nat) (x : Asrc) : (s.setAsrc p x).rx = s.rx := rfl
@[simp] theorem State.setAsrc_tx (s : State) (p : Nat) (x : Asrc) : (s.setAsrc p x).tx = s.tx := rfl
@[simp] theorem State.setAsrc_nets (s : State) (p : Nat) (x : Asrc) : (s.setAsrc p x).nets = s.nets := rfl
@[simp] theorem State.setAsrc_convoy (s : State) (p : Nat) (x : Asrc) : (s.setAsrc p x).convoy = s.convoy := rfl
@[simp] theorem State.setAsrc_tmb (s : State) (p : Nat) (x : Asrc) : (s.setAsrc p x).tmb = s.tmb := rfl
@[simp] theorem State.setAsrc_ref (s : State) (p : Nat) (x : Asrc) : (s.setAsrc p x).ref = s.ref := rfl
@[simp] theorem State.setAsrc_twin (s : State) (p : Nat) (x : Asrc) : (s.setAsrc p x).twin = s.twin := rfl
@[simp] theorem State.setAsrc_hif (s : State) (p : Nat) (x : Asrc) : (s.setAsrc p x).hif = s.hif := rfl
@[simp] theorem State.setAsrc_mail (s : State) (p : Nat) (x : Asrc) : (s.setAsrc p x).mail = s.mail := rfl
@[simp] theorem State.setAsrc_mtx (s : State) (p : Nat) (x : Asrc) : (s.setAsrc p x).mtx = s.mtx := rfl
@[simp] theorem State.setAsrc_flt (s : State) (p : Nat) (x : Asrc) : (s.setAsrc p x).flt = s.flt := rfl
@[simp] theorem State.setAsrc_pwr (s : State) (p : Nat) (x : Asrc) : (s.setAsrc p x).pwr = s.pwr := rfl
@[simp] theorem State.setAsrc_mgmt (s : State) (p : Nat) (x : Asrc) : (s.setAsrc p x).mgmt = s.mgmt := rfl
@[simp] theorem State.setAsrc_balls (s : State) (p : Nat) (x : Asrc) : (s.setAsrc p x).balls = s.balls := rfl
@[simp] theorem State.setAsrc_drawn (s : State) (p : Nat) (x : Asrc) : (s.setAsrc p x).drawn = s.drawn := rfl
@[simp] theorem State.core_setAsrc (s : State) (p : Nat) (x : Asrc) (a b : Nat) : (s.setAsrc p x).core a b = s.core a b := rfl
@[simp] theorem State.cluster_setAsrc (s : State) (p : Nat) (x : Asrc) (a : Nat) : (s.setAsrc p x).cluster a = s.cluster a := rfl
@[simp] theorem State.port_setAsrc (s : State) (p : Nat) (x : Asrc) (a : Nat) : (s.setAsrc p x).port a = s.port a := rfl
@[simp] theorem State.chain_setAsrc (s : State) (p : Nat) (x : Asrc) (a : Nat) : (s.setAsrc p x).chain a = s.chain a := rfl
@[simp] theorem State.flue_setAsrc (s : State) (p : Nat) (x : Asrc) (a : Nat) : (s.setAsrc p x).flue a = s.flue a := rfl
@[simp] theorem State.group_setAsrc (s : State) (p : Nat) (x : Asrc) (a : Nat) : (s.setAsrc p x).group a = s.group a := rfl
@[simp] theorem State.net_setAsrc (s : State) (p : Nat) (x : Asrc) (a : Nat) : (s.setAsrc p x).net a = s.net a := rfl
@[simp] theorem State.rxs_setAsrc (s : State) (p : Nat) (x : Asrc) (a : Nat) : (s.setAsrc p x).rxs a = s.rxs a := rfl
@[simp] theorem State.txs_setAsrc (s : State) (p : Nat) (x : Asrc) (a : Nat) : (s.setAsrc p x).txs a = s.txs a := rfl
@[simp] theorem State.dom_setAsrc (s : State) (p : Nat) (x : Asrc) (a : Nat) : (s.setAsrc p x).dom a = s.dom a := rfl
@[simp] theorem State.cand_setAsrc (s : State) (p : Nat) (x : Asrc) (a : Nat) : (s.setAsrc p x).cand a = s.cand a := rfl
@[simp] theorem State.mbox_setAsrc (s : State) (p : Nat) (x : Asrc) (a : Nat) : (s.setAsrc p x).mbox a = s.mbox a := rfl
@[simp] theorem State.rd_setAsrc (s : State) (p : Nat) (x : Asrc) (a : Nat) : (s.setAsrc p x).rd a = s.rd a := rfl
@[simp] theorem State.fget_setAsrc (s : State) (p : Nat) (x : Asrc) (g : Fd) : (s.setAsrc p x).fget g = s.fget g := rfl
@[simp] theorem State.on_setAsrc (s : State) (p : Nat) (x : Asrc) (g : Fd) : (s.setAsrc p x).on g = s.on g := rfl
@[simp] theorem State.get64_setAsrc (s : State) (p : Nat) (x : Asrc) (a : Nat) : (s.setAsrc p x).get64 a = s.get64 a := rfl

/-! ### setChain -/

@[simp] theorem State.setChain_pending (s : State) (p : Nat) (x : Chain) : (s.setChain p x).pending = s.pending := rfl
@[simp] theorem State.setChain_regs (s : State) (p : Nat) (x : Chain) : (s.setChain p x).regs = s.regs := rfl
@[simp] theorem State.setChain_latch (s : State) (p : Nat) (x : Chain) : (s.setChain p x).latch = s.latch := rfl
@[simp] theorem State.setChain_hold (s : State) (p : Nat) (x : Chain) : (s.setChain p x).hold = s.hold := rfl
@[simp] theorem State.setChain_readData (s : State) (p : Nat) (x : Chain) : (s.setChain p x).readData = s.readData := rfl
@[simp] theorem State.setChain_mem (s : State) (p : Nat) (x : Chain) : (s.setChain p x).mem = s.mem := rfl
@[simp] theorem State.setChain_hostMem (s : State) (p : Nat) (x : Chain) : (s.setChain p x).hostMem = s.hostMem := rfl
@[simp] theorem State.setChain_cores (s : State) (p : Nat) (x : Chain) : (s.setChain p x).cores = s.cores := rfl
@[simp] theorem State.setChain_clusters (s : State) (p : Nat) (x : Chain) : (s.setChain p x).clusters = s.clusters := rfl
@[simp] theorem State.setChain_ember (s : State) (p : Nat) (x : Chain) : (s.setChain p x).ember = s.ember := rfl
@[simp] theorem State.setChain_sch (s : State) (p : Nat) (x : Chain) : (s.setChain p x).sch = s.sch := rfl
@[simp] theorem State.setChain_mix (s : State) (p : Nat) (x : Chain) : (s.setChain p x).mix = s.mix := rfl
@[simp] theorem State.setChain_ports (s : State) (p : Nat) (x : Chain) : (s.setChain p x).ports = s.ports := rfl
@[simp] theorem State.setChain_asrc (s : State) (p : Nat) (x : Chain) : (s.setChain p x).asrc = s.asrc := rfl
@[simp] theorem State.setChain_flues (s : State) (p : Nat) (x : Chain) : (s.setChain p x).flues = s.flues := rfl
@[simp] theorem State.setChain_groups (s : State) (p : Nat) (x : Chain) : (s.setChain p x).groups = s.groups := rfl
@[simp] theorem State.setChain_rx (s : State) (p : Nat) (x : Chain) : (s.setChain p x).rx = s.rx := rfl
@[simp] theorem State.setChain_tx (s : State) (p : Nat) (x : Chain) : (s.setChain p x).tx = s.tx := rfl
@[simp] theorem State.setChain_nets (s : State) (p : Nat) (x : Chain) : (s.setChain p x).nets = s.nets := rfl
@[simp] theorem State.setChain_convoy (s : State) (p : Nat) (x : Chain) : (s.setChain p x).convoy = s.convoy := rfl
@[simp] theorem State.setChain_tmb (s : State) (p : Nat) (x : Chain) : (s.setChain p x).tmb = s.tmb := rfl
@[simp] theorem State.setChain_ref (s : State) (p : Nat) (x : Chain) : (s.setChain p x).ref = s.ref := rfl
@[simp] theorem State.setChain_twin (s : State) (p : Nat) (x : Chain) : (s.setChain p x).twin = s.twin := rfl
@[simp] theorem State.setChain_hif (s : State) (p : Nat) (x : Chain) : (s.setChain p x).hif = s.hif := rfl
@[simp] theorem State.setChain_mail (s : State) (p : Nat) (x : Chain) : (s.setChain p x).mail = s.mail := rfl
@[simp] theorem State.setChain_mtx (s : State) (p : Nat) (x : Chain) : (s.setChain p x).mtx = s.mtx := rfl
@[simp] theorem State.setChain_flt (s : State) (p : Nat) (x : Chain) : (s.setChain p x).flt = s.flt := rfl
@[simp] theorem State.setChain_pwr (s : State) (p : Nat) (x : Chain) : (s.setChain p x).pwr = s.pwr := rfl
@[simp] theorem State.setChain_mgmt (s : State) (p : Nat) (x : Chain) : (s.setChain p x).mgmt = s.mgmt := rfl
@[simp] theorem State.setChain_balls (s : State) (p : Nat) (x : Chain) : (s.setChain p x).balls = s.balls := rfl
@[simp] theorem State.setChain_drawn (s : State) (p : Nat) (x : Chain) : (s.setChain p x).drawn = s.drawn := rfl
@[simp] theorem State.core_setChain (s : State) (p : Nat) (x : Chain) (a b : Nat) : (s.setChain p x).core a b = s.core a b := rfl
@[simp] theorem State.cluster_setChain (s : State) (p : Nat) (x : Chain) (a : Nat) : (s.setChain p x).cluster a = s.cluster a := rfl
@[simp] theorem State.port_setChain (s : State) (p : Nat) (x : Chain) (a : Nat) : (s.setChain p x).port a = s.port a := rfl
@[simp] theorem State.asrcCh_setChain (s : State) (p : Nat) (x : Chain) (a : Nat) : (s.setChain p x).asrcCh a = s.asrcCh a := rfl
@[simp] theorem State.flue_setChain (s : State) (p : Nat) (x : Chain) (a : Nat) : (s.setChain p x).flue a = s.flue a := rfl
@[simp] theorem State.group_setChain (s : State) (p : Nat) (x : Chain) (a : Nat) : (s.setChain p x).group a = s.group a := rfl
@[simp] theorem State.net_setChain (s : State) (p : Nat) (x : Chain) (a : Nat) : (s.setChain p x).net a = s.net a := rfl
@[simp] theorem State.rxs_setChain (s : State) (p : Nat) (x : Chain) (a : Nat) : (s.setChain p x).rxs a = s.rxs a := rfl
@[simp] theorem State.txs_setChain (s : State) (p : Nat) (x : Chain) (a : Nat) : (s.setChain p x).txs a = s.txs a := rfl
@[simp] theorem State.dom_setChain (s : State) (p : Nat) (x : Chain) (a : Nat) : (s.setChain p x).dom a = s.dom a := rfl
@[simp] theorem State.cand_setChain (s : State) (p : Nat) (x : Chain) (a : Nat) : (s.setChain p x).cand a = s.cand a := rfl
@[simp] theorem State.mbox_setChain (s : State) (p : Nat) (x : Chain) (a : Nat) : (s.setChain p x).mbox a = s.mbox a := rfl
@[simp] theorem State.rd_setChain (s : State) (p : Nat) (x : Chain) (a : Nat) : (s.setChain p x).rd a = s.rd a := rfl
@[simp] theorem State.fget_setChain (s : State) (p : Nat) (x : Chain) (g : Fd) : (s.setChain p x).fget g = s.fget g := rfl
@[simp] theorem State.on_setChain (s : State) (p : Nat) (x : Chain) (g : Fd) : (s.setChain p x).on g = s.on g := rfl
@[simp] theorem State.get64_setChain (s : State) (p : Nat) (x : Chain) (a : Nat) : (s.setChain p x).get64 a = s.get64 a := rfl

/-! ### setFlue -/

@[simp] theorem State.setFlue_pending (s : State) (p : Nat) (x : Flue) : (s.setFlue p x).pending = s.pending := rfl
@[simp] theorem State.setFlue_regs (s : State) (p : Nat) (x : Flue) : (s.setFlue p x).regs = s.regs := rfl
@[simp] theorem State.setFlue_latch (s : State) (p : Nat) (x : Flue) : (s.setFlue p x).latch = s.latch := rfl
@[simp] theorem State.setFlue_hold (s : State) (p : Nat) (x : Flue) : (s.setFlue p x).hold = s.hold := rfl
@[simp] theorem State.setFlue_readData (s : State) (p : Nat) (x : Flue) : (s.setFlue p x).readData = s.readData := rfl
@[simp] theorem State.setFlue_mem (s : State) (p : Nat) (x : Flue) : (s.setFlue p x).mem = s.mem := rfl
@[simp] theorem State.setFlue_hostMem (s : State) (p : Nat) (x : Flue) : (s.setFlue p x).hostMem = s.hostMem := rfl
@[simp] theorem State.setFlue_cores (s : State) (p : Nat) (x : Flue) : (s.setFlue p x).cores = s.cores := rfl
@[simp] theorem State.setFlue_clusters (s : State) (p : Nat) (x : Flue) : (s.setFlue p x).clusters = s.clusters := rfl
@[simp] theorem State.setFlue_ember (s : State) (p : Nat) (x : Flue) : (s.setFlue p x).ember = s.ember := rfl
@[simp] theorem State.setFlue_sch (s : State) (p : Nat) (x : Flue) : (s.setFlue p x).sch = s.sch := rfl
@[simp] theorem State.setFlue_mix (s : State) (p : Nat) (x : Flue) : (s.setFlue p x).mix = s.mix := rfl
@[simp] theorem State.setFlue_ports (s : State) (p : Nat) (x : Flue) : (s.setFlue p x).ports = s.ports := rfl
@[simp] theorem State.setFlue_asrc (s : State) (p : Nat) (x : Flue) : (s.setFlue p x).asrc = s.asrc := rfl
@[simp] theorem State.setFlue_chains (s : State) (p : Nat) (x : Flue) : (s.setFlue p x).chains = s.chains := rfl
@[simp] theorem State.setFlue_groups (s : State) (p : Nat) (x : Flue) : (s.setFlue p x).groups = s.groups := rfl
@[simp] theorem State.setFlue_rx (s : State) (p : Nat) (x : Flue) : (s.setFlue p x).rx = s.rx := rfl
@[simp] theorem State.setFlue_tx (s : State) (p : Nat) (x : Flue) : (s.setFlue p x).tx = s.tx := rfl
@[simp] theorem State.setFlue_nets (s : State) (p : Nat) (x : Flue) : (s.setFlue p x).nets = s.nets := rfl
@[simp] theorem State.setFlue_convoy (s : State) (p : Nat) (x : Flue) : (s.setFlue p x).convoy = s.convoy := rfl
@[simp] theorem State.setFlue_tmb (s : State) (p : Nat) (x : Flue) : (s.setFlue p x).tmb = s.tmb := rfl
@[simp] theorem State.setFlue_ref (s : State) (p : Nat) (x : Flue) : (s.setFlue p x).ref = s.ref := rfl
@[simp] theorem State.setFlue_twin (s : State) (p : Nat) (x : Flue) : (s.setFlue p x).twin = s.twin := rfl
@[simp] theorem State.setFlue_hif (s : State) (p : Nat) (x : Flue) : (s.setFlue p x).hif = s.hif := rfl
@[simp] theorem State.setFlue_mail (s : State) (p : Nat) (x : Flue) : (s.setFlue p x).mail = s.mail := rfl
@[simp] theorem State.setFlue_mtx (s : State) (p : Nat) (x : Flue) : (s.setFlue p x).mtx = s.mtx := rfl
@[simp] theorem State.setFlue_flt (s : State) (p : Nat) (x : Flue) : (s.setFlue p x).flt = s.flt := rfl
@[simp] theorem State.setFlue_pwr (s : State) (p : Nat) (x : Flue) : (s.setFlue p x).pwr = s.pwr := rfl
@[simp] theorem State.setFlue_mgmt (s : State) (p : Nat) (x : Flue) : (s.setFlue p x).mgmt = s.mgmt := rfl
@[simp] theorem State.setFlue_balls (s : State) (p : Nat) (x : Flue) : (s.setFlue p x).balls = s.balls := rfl
@[simp] theorem State.setFlue_drawn (s : State) (p : Nat) (x : Flue) : (s.setFlue p x).drawn = s.drawn := rfl
@[simp] theorem State.core_setFlue (s : State) (p : Nat) (x : Flue) (a b : Nat) : (s.setFlue p x).core a b = s.core a b := rfl
@[simp] theorem State.cluster_setFlue (s : State) (p : Nat) (x : Flue) (a : Nat) : (s.setFlue p x).cluster a = s.cluster a := rfl
@[simp] theorem State.port_setFlue (s : State) (p : Nat) (x : Flue) (a : Nat) : (s.setFlue p x).port a = s.port a := rfl
@[simp] theorem State.asrcCh_setFlue (s : State) (p : Nat) (x : Flue) (a : Nat) : (s.setFlue p x).asrcCh a = s.asrcCh a := rfl
@[simp] theorem State.chain_setFlue (s : State) (p : Nat) (x : Flue) (a : Nat) : (s.setFlue p x).chain a = s.chain a := rfl
@[simp] theorem State.group_setFlue (s : State) (p : Nat) (x : Flue) (a : Nat) : (s.setFlue p x).group a = s.group a := rfl
@[simp] theorem State.net_setFlue (s : State) (p : Nat) (x : Flue) (a : Nat) : (s.setFlue p x).net a = s.net a := rfl
@[simp] theorem State.rxs_setFlue (s : State) (p : Nat) (x : Flue) (a : Nat) : (s.setFlue p x).rxs a = s.rxs a := rfl
@[simp] theorem State.txs_setFlue (s : State) (p : Nat) (x : Flue) (a : Nat) : (s.setFlue p x).txs a = s.txs a := rfl
@[simp] theorem State.dom_setFlue (s : State) (p : Nat) (x : Flue) (a : Nat) : (s.setFlue p x).dom a = s.dom a := rfl
@[simp] theorem State.cand_setFlue (s : State) (p : Nat) (x : Flue) (a : Nat) : (s.setFlue p x).cand a = s.cand a := rfl
@[simp] theorem State.mbox_setFlue (s : State) (p : Nat) (x : Flue) (a : Nat) : (s.setFlue p x).mbox a = s.mbox a := rfl
@[simp] theorem State.rd_setFlue (s : State) (p : Nat) (x : Flue) (a : Nat) : (s.setFlue p x).rd a = s.rd a := rfl
@[simp] theorem State.fget_setFlue (s : State) (p : Nat) (x : Flue) (g : Fd) : (s.setFlue p x).fget g = s.fget g := rfl
@[simp] theorem State.on_setFlue (s : State) (p : Nat) (x : Flue) (g : Fd) : (s.setFlue p x).on g = s.on g := rfl
@[simp] theorem State.get64_setFlue (s : State) (p : Nat) (x : Flue) (a : Nat) : (s.setFlue p x).get64 a = s.get64 a := rfl

/-! ### setGroup -/

@[simp] theorem State.setGroup_pending (s : State) (p : Nat) (x : FlueGroup) : (s.setGroup p x).pending = s.pending := rfl
@[simp] theorem State.setGroup_regs (s : State) (p : Nat) (x : FlueGroup) : (s.setGroup p x).regs = s.regs := rfl
@[simp] theorem State.setGroup_latch (s : State) (p : Nat) (x : FlueGroup) : (s.setGroup p x).latch = s.latch := rfl
@[simp] theorem State.setGroup_hold (s : State) (p : Nat) (x : FlueGroup) : (s.setGroup p x).hold = s.hold := rfl
@[simp] theorem State.setGroup_readData (s : State) (p : Nat) (x : FlueGroup) : (s.setGroup p x).readData = s.readData := rfl
@[simp] theorem State.setGroup_mem (s : State) (p : Nat) (x : FlueGroup) : (s.setGroup p x).mem = s.mem := rfl
@[simp] theorem State.setGroup_hostMem (s : State) (p : Nat) (x : FlueGroup) : (s.setGroup p x).hostMem = s.hostMem := rfl
@[simp] theorem State.setGroup_cores (s : State) (p : Nat) (x : FlueGroup) : (s.setGroup p x).cores = s.cores := rfl
@[simp] theorem State.setGroup_clusters (s : State) (p : Nat) (x : FlueGroup) : (s.setGroup p x).clusters = s.clusters := rfl
@[simp] theorem State.setGroup_ember (s : State) (p : Nat) (x : FlueGroup) : (s.setGroup p x).ember = s.ember := rfl
@[simp] theorem State.setGroup_sch (s : State) (p : Nat) (x : FlueGroup) : (s.setGroup p x).sch = s.sch := rfl
@[simp] theorem State.setGroup_mix (s : State) (p : Nat) (x : FlueGroup) : (s.setGroup p x).mix = s.mix := rfl
@[simp] theorem State.setGroup_ports (s : State) (p : Nat) (x : FlueGroup) : (s.setGroup p x).ports = s.ports := rfl
@[simp] theorem State.setGroup_asrc (s : State) (p : Nat) (x : FlueGroup) : (s.setGroup p x).asrc = s.asrc := rfl
@[simp] theorem State.setGroup_chains (s : State) (p : Nat) (x : FlueGroup) : (s.setGroup p x).chains = s.chains := rfl
@[simp] theorem State.setGroup_flues (s : State) (p : Nat) (x : FlueGroup) : (s.setGroup p x).flues = s.flues := rfl
@[simp] theorem State.setGroup_rx (s : State) (p : Nat) (x : FlueGroup) : (s.setGroup p x).rx = s.rx := rfl
@[simp] theorem State.setGroup_tx (s : State) (p : Nat) (x : FlueGroup) : (s.setGroup p x).tx = s.tx := rfl
@[simp] theorem State.setGroup_nets (s : State) (p : Nat) (x : FlueGroup) : (s.setGroup p x).nets = s.nets := rfl
@[simp] theorem State.setGroup_convoy (s : State) (p : Nat) (x : FlueGroup) : (s.setGroup p x).convoy = s.convoy := rfl
@[simp] theorem State.setGroup_tmb (s : State) (p : Nat) (x : FlueGroup) : (s.setGroup p x).tmb = s.tmb := rfl
@[simp] theorem State.setGroup_ref (s : State) (p : Nat) (x : FlueGroup) : (s.setGroup p x).ref = s.ref := rfl
@[simp] theorem State.setGroup_twin (s : State) (p : Nat) (x : FlueGroup) : (s.setGroup p x).twin = s.twin := rfl
@[simp] theorem State.setGroup_hif (s : State) (p : Nat) (x : FlueGroup) : (s.setGroup p x).hif = s.hif := rfl
@[simp] theorem State.setGroup_mail (s : State) (p : Nat) (x : FlueGroup) : (s.setGroup p x).mail = s.mail := rfl
@[simp] theorem State.setGroup_mtx (s : State) (p : Nat) (x : FlueGroup) : (s.setGroup p x).mtx = s.mtx := rfl
@[simp] theorem State.setGroup_flt (s : State) (p : Nat) (x : FlueGroup) : (s.setGroup p x).flt = s.flt := rfl
@[simp] theorem State.setGroup_pwr (s : State) (p : Nat) (x : FlueGroup) : (s.setGroup p x).pwr = s.pwr := rfl
@[simp] theorem State.setGroup_mgmt (s : State) (p : Nat) (x : FlueGroup) : (s.setGroup p x).mgmt = s.mgmt := rfl
@[simp] theorem State.setGroup_balls (s : State) (p : Nat) (x : FlueGroup) : (s.setGroup p x).balls = s.balls := rfl
@[simp] theorem State.setGroup_drawn (s : State) (p : Nat) (x : FlueGroup) : (s.setGroup p x).drawn = s.drawn := rfl
@[simp] theorem State.core_setGroup (s : State) (p : Nat) (x : FlueGroup) (a b : Nat) : (s.setGroup p x).core a b = s.core a b := rfl
@[simp] theorem State.cluster_setGroup (s : State) (p : Nat) (x : FlueGroup) (a : Nat) : (s.setGroup p x).cluster a = s.cluster a := rfl
@[simp] theorem State.port_setGroup (s : State) (p : Nat) (x : FlueGroup) (a : Nat) : (s.setGroup p x).port a = s.port a := rfl
@[simp] theorem State.asrcCh_setGroup (s : State) (p : Nat) (x : FlueGroup) (a : Nat) : (s.setGroup p x).asrcCh a = s.asrcCh a := rfl
@[simp] theorem State.chain_setGroup (s : State) (p : Nat) (x : FlueGroup) (a : Nat) : (s.setGroup p x).chain a = s.chain a := rfl
@[simp] theorem State.flue_setGroup (s : State) (p : Nat) (x : FlueGroup) (a : Nat) : (s.setGroup p x).flue a = s.flue a := rfl
@[simp] theorem State.net_setGroup (s : State) (p : Nat) (x : FlueGroup) (a : Nat) : (s.setGroup p x).net a = s.net a := rfl
@[simp] theorem State.rxs_setGroup (s : State) (p : Nat) (x : FlueGroup) (a : Nat) : (s.setGroup p x).rxs a = s.rxs a := rfl
@[simp] theorem State.txs_setGroup (s : State) (p : Nat) (x : FlueGroup) (a : Nat) : (s.setGroup p x).txs a = s.txs a := rfl
@[simp] theorem State.dom_setGroup (s : State) (p : Nat) (x : FlueGroup) (a : Nat) : (s.setGroup p x).dom a = s.dom a := rfl
@[simp] theorem State.cand_setGroup (s : State) (p : Nat) (x : FlueGroup) (a : Nat) : (s.setGroup p x).cand a = s.cand a := rfl
@[simp] theorem State.mbox_setGroup (s : State) (p : Nat) (x : FlueGroup) (a : Nat) : (s.setGroup p x).mbox a = s.mbox a := rfl
@[simp] theorem State.rd_setGroup (s : State) (p : Nat) (x : FlueGroup) (a : Nat) : (s.setGroup p x).rd a = s.rd a := rfl
@[simp] theorem State.fget_setGroup (s : State) (p : Nat) (x : FlueGroup) (g : Fd) : (s.setGroup p x).fget g = s.fget g := rfl
@[simp] theorem State.on_setGroup (s : State) (p : Nat) (x : FlueGroup) (g : Fd) : (s.setGroup p x).on g = s.on g := rfl
@[simp] theorem State.get64_setGroup (s : State) (p : Nat) (x : FlueGroup) (a : Nat) : (s.setGroup p x).get64 a = s.get64 a := rfl

/-! ### setNet -/

@[simp] theorem State.setNet_pending (s : State) (p : Nat) (x : Net) : (s.setNet p x).pending = s.pending := rfl
@[simp] theorem State.setNet_regs (s : State) (p : Nat) (x : Net) : (s.setNet p x).regs = s.regs := rfl
@[simp] theorem State.setNet_latch (s : State) (p : Nat) (x : Net) : (s.setNet p x).latch = s.latch := rfl
@[simp] theorem State.setNet_hold (s : State) (p : Nat) (x : Net) : (s.setNet p x).hold = s.hold := rfl
@[simp] theorem State.setNet_readData (s : State) (p : Nat) (x : Net) : (s.setNet p x).readData = s.readData := rfl
@[simp] theorem State.setNet_mem (s : State) (p : Nat) (x : Net) : (s.setNet p x).mem = s.mem := rfl
@[simp] theorem State.setNet_hostMem (s : State) (p : Nat) (x : Net) : (s.setNet p x).hostMem = s.hostMem := rfl
@[simp] theorem State.setNet_cores (s : State) (p : Nat) (x : Net) : (s.setNet p x).cores = s.cores := rfl
@[simp] theorem State.setNet_clusters (s : State) (p : Nat) (x : Net) : (s.setNet p x).clusters = s.clusters := rfl
@[simp] theorem State.setNet_ember (s : State) (p : Nat) (x : Net) : (s.setNet p x).ember = s.ember := rfl
@[simp] theorem State.setNet_sch (s : State) (p : Nat) (x : Net) : (s.setNet p x).sch = s.sch := rfl
@[simp] theorem State.setNet_mix (s : State) (p : Nat) (x : Net) : (s.setNet p x).mix = s.mix := rfl
@[simp] theorem State.setNet_ports (s : State) (p : Nat) (x : Net) : (s.setNet p x).ports = s.ports := rfl
@[simp] theorem State.setNet_asrc (s : State) (p : Nat) (x : Net) : (s.setNet p x).asrc = s.asrc := rfl
@[simp] theorem State.setNet_chains (s : State) (p : Nat) (x : Net) : (s.setNet p x).chains = s.chains := rfl
@[simp] theorem State.setNet_flues (s : State) (p : Nat) (x : Net) : (s.setNet p x).flues = s.flues := rfl
@[simp] theorem State.setNet_groups (s : State) (p : Nat) (x : Net) : (s.setNet p x).groups = s.groups := rfl
@[simp] theorem State.setNet_rx (s : State) (p : Nat) (x : Net) : (s.setNet p x).rx = s.rx := rfl
@[simp] theorem State.setNet_tx (s : State) (p : Nat) (x : Net) : (s.setNet p x).tx = s.tx := rfl
@[simp] theorem State.setNet_convoy (s : State) (p : Nat) (x : Net) : (s.setNet p x).convoy = s.convoy := rfl
@[simp] theorem State.setNet_tmb (s : State) (p : Nat) (x : Net) : (s.setNet p x).tmb = s.tmb := rfl
@[simp] theorem State.setNet_ref (s : State) (p : Nat) (x : Net) : (s.setNet p x).ref = s.ref := rfl
@[simp] theorem State.setNet_twin (s : State) (p : Nat) (x : Net) : (s.setNet p x).twin = s.twin := rfl
@[simp] theorem State.setNet_hif (s : State) (p : Nat) (x : Net) : (s.setNet p x).hif = s.hif := rfl
@[simp] theorem State.setNet_mail (s : State) (p : Nat) (x : Net) : (s.setNet p x).mail = s.mail := rfl
@[simp] theorem State.setNet_mtx (s : State) (p : Nat) (x : Net) : (s.setNet p x).mtx = s.mtx := rfl
@[simp] theorem State.setNet_flt (s : State) (p : Nat) (x : Net) : (s.setNet p x).flt = s.flt := rfl
@[simp] theorem State.setNet_pwr (s : State) (p : Nat) (x : Net) : (s.setNet p x).pwr = s.pwr := rfl
@[simp] theorem State.setNet_mgmt (s : State) (p : Nat) (x : Net) : (s.setNet p x).mgmt = s.mgmt := rfl
@[simp] theorem State.setNet_balls (s : State) (p : Nat) (x : Net) : (s.setNet p x).balls = s.balls := rfl
@[simp] theorem State.setNet_drawn (s : State) (p : Nat) (x : Net) : (s.setNet p x).drawn = s.drawn := rfl
@[simp] theorem State.core_setNet (s : State) (p : Nat) (x : Net) (a b : Nat) : (s.setNet p x).core a b = s.core a b := rfl
@[simp] theorem State.cluster_setNet (s : State) (p : Nat) (x : Net) (a : Nat) : (s.setNet p x).cluster a = s.cluster a := rfl
@[simp] theorem State.port_setNet (s : State) (p : Nat) (x : Net) (a : Nat) : (s.setNet p x).port a = s.port a := rfl
@[simp] theorem State.asrcCh_setNet (s : State) (p : Nat) (x : Net) (a : Nat) : (s.setNet p x).asrcCh a = s.asrcCh a := rfl
@[simp] theorem State.chain_setNet (s : State) (p : Nat) (x : Net) (a : Nat) : (s.setNet p x).chain a = s.chain a := rfl
@[simp] theorem State.flue_setNet (s : State) (p : Nat) (x : Net) (a : Nat) : (s.setNet p x).flue a = s.flue a := rfl
@[simp] theorem State.group_setNet (s : State) (p : Nat) (x : Net) (a : Nat) : (s.setNet p x).group a = s.group a := rfl
@[simp] theorem State.rxs_setNet (s : State) (p : Nat) (x : Net) (a : Nat) : (s.setNet p x).rxs a = s.rxs a := rfl
@[simp] theorem State.txs_setNet (s : State) (p : Nat) (x : Net) (a : Nat) : (s.setNet p x).txs a = s.txs a := rfl
@[simp] theorem State.dom_setNet (s : State) (p : Nat) (x : Net) (a : Nat) : (s.setNet p x).dom a = s.dom a := rfl
@[simp] theorem State.cand_setNet (s : State) (p : Nat) (x : Net) (a : Nat) : (s.setNet p x).cand a = s.cand a := rfl
@[simp] theorem State.mbox_setNet (s : State) (p : Nat) (x : Net) (a : Nat) : (s.setNet p x).mbox a = s.mbox a := rfl
@[simp] theorem State.rd_setNet (s : State) (p : Nat) (x : Net) (a : Nat) : (s.setNet p x).rd a = s.rd a := rfl
@[simp] theorem State.fget_setNet (s : State) (p : Nat) (x : Net) (g : Fd) : (s.setNet p x).fget g = s.fget g := rfl
@[simp] theorem State.on_setNet (s : State) (p : Nat) (x : Net) (g : Fd) : (s.setNet p x).on g = s.on g := rfl
@[simp] theorem State.get64_setNet (s : State) (p : Nat) (x : Net) (a : Nat) : (s.setNet p x).get64 a = s.get64 a := rfl

/-! ### setRxs -/

@[simp] theorem State.setRxs_pending (s : State) (p : Nat) (x : Stream) : (s.setRxs p x).pending = s.pending := rfl
@[simp] theorem State.setRxs_regs (s : State) (p : Nat) (x : Stream) : (s.setRxs p x).regs = s.regs := rfl
@[simp] theorem State.setRxs_latch (s : State) (p : Nat) (x : Stream) : (s.setRxs p x).latch = s.latch := rfl
@[simp] theorem State.setRxs_hold (s : State) (p : Nat) (x : Stream) : (s.setRxs p x).hold = s.hold := rfl
@[simp] theorem State.setRxs_readData (s : State) (p : Nat) (x : Stream) : (s.setRxs p x).readData = s.readData := rfl
@[simp] theorem State.setRxs_mem (s : State) (p : Nat) (x : Stream) : (s.setRxs p x).mem = s.mem := rfl
@[simp] theorem State.setRxs_hostMem (s : State) (p : Nat) (x : Stream) : (s.setRxs p x).hostMem = s.hostMem := rfl
@[simp] theorem State.setRxs_cores (s : State) (p : Nat) (x : Stream) : (s.setRxs p x).cores = s.cores := rfl
@[simp] theorem State.setRxs_clusters (s : State) (p : Nat) (x : Stream) : (s.setRxs p x).clusters = s.clusters := rfl
@[simp] theorem State.setRxs_ember (s : State) (p : Nat) (x : Stream) : (s.setRxs p x).ember = s.ember := rfl
@[simp] theorem State.setRxs_sch (s : State) (p : Nat) (x : Stream) : (s.setRxs p x).sch = s.sch := rfl
@[simp] theorem State.setRxs_mix (s : State) (p : Nat) (x : Stream) : (s.setRxs p x).mix = s.mix := rfl
@[simp] theorem State.setRxs_ports (s : State) (p : Nat) (x : Stream) : (s.setRxs p x).ports = s.ports := rfl
@[simp] theorem State.setRxs_asrc (s : State) (p : Nat) (x : Stream) : (s.setRxs p x).asrc = s.asrc := rfl
@[simp] theorem State.setRxs_chains (s : State) (p : Nat) (x : Stream) : (s.setRxs p x).chains = s.chains := rfl
@[simp] theorem State.setRxs_flues (s : State) (p : Nat) (x : Stream) : (s.setRxs p x).flues = s.flues := rfl
@[simp] theorem State.setRxs_groups (s : State) (p : Nat) (x : Stream) : (s.setRxs p x).groups = s.groups := rfl
@[simp] theorem State.setRxs_tx (s : State) (p : Nat) (x : Stream) : (s.setRxs p x).tx = s.tx := rfl
@[simp] theorem State.setRxs_nets (s : State) (p : Nat) (x : Stream) : (s.setRxs p x).nets = s.nets := rfl
@[simp] theorem State.setRxs_convoy (s : State) (p : Nat) (x : Stream) : (s.setRxs p x).convoy = s.convoy := rfl
@[simp] theorem State.setRxs_tmb (s : State) (p : Nat) (x : Stream) : (s.setRxs p x).tmb = s.tmb := rfl
@[simp] theorem State.setRxs_ref (s : State) (p : Nat) (x : Stream) : (s.setRxs p x).ref = s.ref := rfl
@[simp] theorem State.setRxs_twin (s : State) (p : Nat) (x : Stream) : (s.setRxs p x).twin = s.twin := rfl
@[simp] theorem State.setRxs_hif (s : State) (p : Nat) (x : Stream) : (s.setRxs p x).hif = s.hif := rfl
@[simp] theorem State.setRxs_mail (s : State) (p : Nat) (x : Stream) : (s.setRxs p x).mail = s.mail := rfl
@[simp] theorem State.setRxs_mtx (s : State) (p : Nat) (x : Stream) : (s.setRxs p x).mtx = s.mtx := rfl
@[simp] theorem State.setRxs_flt (s : State) (p : Nat) (x : Stream) : (s.setRxs p x).flt = s.flt := rfl
@[simp] theorem State.setRxs_pwr (s : State) (p : Nat) (x : Stream) : (s.setRxs p x).pwr = s.pwr := rfl
@[simp] theorem State.setRxs_mgmt (s : State) (p : Nat) (x : Stream) : (s.setRxs p x).mgmt = s.mgmt := rfl
@[simp] theorem State.setRxs_balls (s : State) (p : Nat) (x : Stream) : (s.setRxs p x).balls = s.balls := rfl
@[simp] theorem State.setRxs_drawn (s : State) (p : Nat) (x : Stream) : (s.setRxs p x).drawn = s.drawn := rfl
@[simp] theorem State.core_setRxs (s : State) (p : Nat) (x : Stream) (a b : Nat) : (s.setRxs p x).core a b = s.core a b := rfl
@[simp] theorem State.cluster_setRxs (s : State) (p : Nat) (x : Stream) (a : Nat) : (s.setRxs p x).cluster a = s.cluster a := rfl
@[simp] theorem State.port_setRxs (s : State) (p : Nat) (x : Stream) (a : Nat) : (s.setRxs p x).port a = s.port a := rfl
@[simp] theorem State.asrcCh_setRxs (s : State) (p : Nat) (x : Stream) (a : Nat) : (s.setRxs p x).asrcCh a = s.asrcCh a := rfl
@[simp] theorem State.chain_setRxs (s : State) (p : Nat) (x : Stream) (a : Nat) : (s.setRxs p x).chain a = s.chain a := rfl
@[simp] theorem State.flue_setRxs (s : State) (p : Nat) (x : Stream) (a : Nat) : (s.setRxs p x).flue a = s.flue a := rfl
@[simp] theorem State.group_setRxs (s : State) (p : Nat) (x : Stream) (a : Nat) : (s.setRxs p x).group a = s.group a := rfl
@[simp] theorem State.net_setRxs (s : State) (p : Nat) (x : Stream) (a : Nat) : (s.setRxs p x).net a = s.net a := rfl
@[simp] theorem State.txs_setRxs (s : State) (p : Nat) (x : Stream) (a : Nat) : (s.setRxs p x).txs a = s.txs a := rfl
@[simp] theorem State.dom_setRxs (s : State) (p : Nat) (x : Stream) (a : Nat) : (s.setRxs p x).dom a = s.dom a := rfl
@[simp] theorem State.cand_setRxs (s : State) (p : Nat) (x : Stream) (a : Nat) : (s.setRxs p x).cand a = s.cand a := rfl
@[simp] theorem State.mbox_setRxs (s : State) (p : Nat) (x : Stream) (a : Nat) : (s.setRxs p x).mbox a = s.mbox a := rfl
@[simp] theorem State.rd_setRxs (s : State) (p : Nat) (x : Stream) (a : Nat) : (s.setRxs p x).rd a = s.rd a := rfl
@[simp] theorem State.fget_setRxs (s : State) (p : Nat) (x : Stream) (g : Fd) : (s.setRxs p x).fget g = s.fget g := rfl
@[simp] theorem State.on_setRxs (s : State) (p : Nat) (x : Stream) (g : Fd) : (s.setRxs p x).on g = s.on g := rfl
@[simp] theorem State.get64_setRxs (s : State) (p : Nat) (x : Stream) (a : Nat) : (s.setRxs p x).get64 a = s.get64 a := rfl

/-! ### setTxs -/

@[simp] theorem State.setTxs_pending (s : State) (p : Nat) (x : Stream) : (s.setTxs p x).pending = s.pending := rfl
@[simp] theorem State.setTxs_regs (s : State) (p : Nat) (x : Stream) : (s.setTxs p x).regs = s.regs := rfl
@[simp] theorem State.setTxs_latch (s : State) (p : Nat) (x : Stream) : (s.setTxs p x).latch = s.latch := rfl
@[simp] theorem State.setTxs_hold (s : State) (p : Nat) (x : Stream) : (s.setTxs p x).hold = s.hold := rfl
@[simp] theorem State.setTxs_readData (s : State) (p : Nat) (x : Stream) : (s.setTxs p x).readData = s.readData := rfl
@[simp] theorem State.setTxs_mem (s : State) (p : Nat) (x : Stream) : (s.setTxs p x).mem = s.mem := rfl
@[simp] theorem State.setTxs_hostMem (s : State) (p : Nat) (x : Stream) : (s.setTxs p x).hostMem = s.hostMem := rfl
@[simp] theorem State.setTxs_cores (s : State) (p : Nat) (x : Stream) : (s.setTxs p x).cores = s.cores := rfl
@[simp] theorem State.setTxs_clusters (s : State) (p : Nat) (x : Stream) : (s.setTxs p x).clusters = s.clusters := rfl
@[simp] theorem State.setTxs_ember (s : State) (p : Nat) (x : Stream) : (s.setTxs p x).ember = s.ember := rfl
@[simp] theorem State.setTxs_sch (s : State) (p : Nat) (x : Stream) : (s.setTxs p x).sch = s.sch := rfl
@[simp] theorem State.setTxs_mix (s : State) (p : Nat) (x : Stream) : (s.setTxs p x).mix = s.mix := rfl
@[simp] theorem State.setTxs_ports (s : State) (p : Nat) (x : Stream) : (s.setTxs p x).ports = s.ports := rfl
@[simp] theorem State.setTxs_asrc (s : State) (p : Nat) (x : Stream) : (s.setTxs p x).asrc = s.asrc := rfl
@[simp] theorem State.setTxs_chains (s : State) (p : Nat) (x : Stream) : (s.setTxs p x).chains = s.chains := rfl
@[simp] theorem State.setTxs_flues (s : State) (p : Nat) (x : Stream) : (s.setTxs p x).flues = s.flues := rfl
@[simp] theorem State.setTxs_groups (s : State) (p : Nat) (x : Stream) : (s.setTxs p x).groups = s.groups := rfl
@[simp] theorem State.setTxs_rx (s : State) (p : Nat) (x : Stream) : (s.setTxs p x).rx = s.rx := rfl
@[simp] theorem State.setTxs_nets (s : State) (p : Nat) (x : Stream) : (s.setTxs p x).nets = s.nets := rfl
@[simp] theorem State.setTxs_convoy (s : State) (p : Nat) (x : Stream) : (s.setTxs p x).convoy = s.convoy := rfl
@[simp] theorem State.setTxs_tmb (s : State) (p : Nat) (x : Stream) : (s.setTxs p x).tmb = s.tmb := rfl
@[simp] theorem State.setTxs_ref (s : State) (p : Nat) (x : Stream) : (s.setTxs p x).ref = s.ref := rfl
@[simp] theorem State.setTxs_twin (s : State) (p : Nat) (x : Stream) : (s.setTxs p x).twin = s.twin := rfl
@[simp] theorem State.setTxs_hif (s : State) (p : Nat) (x : Stream) : (s.setTxs p x).hif = s.hif := rfl
@[simp] theorem State.setTxs_mail (s : State) (p : Nat) (x : Stream) : (s.setTxs p x).mail = s.mail := rfl
@[simp] theorem State.setTxs_mtx (s : State) (p : Nat) (x : Stream) : (s.setTxs p x).mtx = s.mtx := rfl
@[simp] theorem State.setTxs_flt (s : State) (p : Nat) (x : Stream) : (s.setTxs p x).flt = s.flt := rfl
@[simp] theorem State.setTxs_pwr (s : State) (p : Nat) (x : Stream) : (s.setTxs p x).pwr = s.pwr := rfl
@[simp] theorem State.setTxs_mgmt (s : State) (p : Nat) (x : Stream) : (s.setTxs p x).mgmt = s.mgmt := rfl
@[simp] theorem State.setTxs_balls (s : State) (p : Nat) (x : Stream) : (s.setTxs p x).balls = s.balls := rfl
@[simp] theorem State.setTxs_drawn (s : State) (p : Nat) (x : Stream) : (s.setTxs p x).drawn = s.drawn := rfl
@[simp] theorem State.core_setTxs (s : State) (p : Nat) (x : Stream) (a b : Nat) : (s.setTxs p x).core a b = s.core a b := rfl
@[simp] theorem State.cluster_setTxs (s : State) (p : Nat) (x : Stream) (a : Nat) : (s.setTxs p x).cluster a = s.cluster a := rfl
@[simp] theorem State.port_setTxs (s : State) (p : Nat) (x : Stream) (a : Nat) : (s.setTxs p x).port a = s.port a := rfl
@[simp] theorem State.asrcCh_setTxs (s : State) (p : Nat) (x : Stream) (a : Nat) : (s.setTxs p x).asrcCh a = s.asrcCh a := rfl
@[simp] theorem State.chain_setTxs (s : State) (p : Nat) (x : Stream) (a : Nat) : (s.setTxs p x).chain a = s.chain a := rfl
@[simp] theorem State.flue_setTxs (s : State) (p : Nat) (x : Stream) (a : Nat) : (s.setTxs p x).flue a = s.flue a := rfl
@[simp] theorem State.group_setTxs (s : State) (p : Nat) (x : Stream) (a : Nat) : (s.setTxs p x).group a = s.group a := rfl
@[simp] theorem State.net_setTxs (s : State) (p : Nat) (x : Stream) (a : Nat) : (s.setTxs p x).net a = s.net a := rfl
@[simp] theorem State.rxs_setTxs (s : State) (p : Nat) (x : Stream) (a : Nat) : (s.setTxs p x).rxs a = s.rxs a := rfl
@[simp] theorem State.dom_setTxs (s : State) (p : Nat) (x : Stream) (a : Nat) : (s.setTxs p x).dom a = s.dom a := rfl
@[simp] theorem State.cand_setTxs (s : State) (p : Nat) (x : Stream) (a : Nat) : (s.setTxs p x).cand a = s.cand a := rfl
@[simp] theorem State.mbox_setTxs (s : State) (p : Nat) (x : Stream) (a : Nat) : (s.setTxs p x).mbox a = s.mbox a := rfl
@[simp] theorem State.rd_setTxs (s : State) (p : Nat) (x : Stream) (a : Nat) : (s.setTxs p x).rd a = s.rd a := rfl
@[simp] theorem State.fget_setTxs (s : State) (p : Nat) (x : Stream) (g : Fd) : (s.setTxs p x).fget g = s.fget g := rfl
@[simp] theorem State.on_setTxs (s : State) (p : Nat) (x : Stream) (g : Fd) : (s.setTxs p x).on g = s.on g := rfl
@[simp] theorem State.get64_setTxs (s : State) (p : Nat) (x : Stream) (a : Nat) : (s.setTxs p x).get64 a = s.get64 a := rfl

/-! ### setDom -/

@[simp] theorem State.setDom_pending (s : State) (p : Nat) (x : Dom) : (s.setDom p x).pending = s.pending := rfl
@[simp] theorem State.setDom_regs (s : State) (p : Nat) (x : Dom) : (s.setDom p x).regs = s.regs := rfl
@[simp] theorem State.setDom_latch (s : State) (p : Nat) (x : Dom) : (s.setDom p x).latch = s.latch := rfl
@[simp] theorem State.setDom_hold (s : State) (p : Nat) (x : Dom) : (s.setDom p x).hold = s.hold := rfl
@[simp] theorem State.setDom_readData (s : State) (p : Nat) (x : Dom) : (s.setDom p x).readData = s.readData := rfl
@[simp] theorem State.setDom_mem (s : State) (p : Nat) (x : Dom) : (s.setDom p x).mem = s.mem := rfl
@[simp] theorem State.setDom_hostMem (s : State) (p : Nat) (x : Dom) : (s.setDom p x).hostMem = s.hostMem := rfl
@[simp] theorem State.setDom_cores (s : State) (p : Nat) (x : Dom) : (s.setDom p x).cores = s.cores := rfl
@[simp] theorem State.setDom_clusters (s : State) (p : Nat) (x : Dom) : (s.setDom p x).clusters = s.clusters := rfl
@[simp] theorem State.setDom_ember (s : State) (p : Nat) (x : Dom) : (s.setDom p x).ember = s.ember := rfl
@[simp] theorem State.setDom_sch (s : State) (p : Nat) (x : Dom) : (s.setDom p x).sch = s.sch := rfl
@[simp] theorem State.setDom_mix (s : State) (p : Nat) (x : Dom) : (s.setDom p x).mix = s.mix := rfl
@[simp] theorem State.setDom_ports (s : State) (p : Nat) (x : Dom) : (s.setDom p x).ports = s.ports := rfl
@[simp] theorem State.setDom_asrc (s : State) (p : Nat) (x : Dom) : (s.setDom p x).asrc = s.asrc := rfl
@[simp] theorem State.setDom_chains (s : State) (p : Nat) (x : Dom) : (s.setDom p x).chains = s.chains := rfl
@[simp] theorem State.setDom_flues (s : State) (p : Nat) (x : Dom) : (s.setDom p x).flues = s.flues := rfl
@[simp] theorem State.setDom_groups (s : State) (p : Nat) (x : Dom) : (s.setDom p x).groups = s.groups := rfl
@[simp] theorem State.setDom_rx (s : State) (p : Nat) (x : Dom) : (s.setDom p x).rx = s.rx := rfl
@[simp] theorem State.setDom_tx (s : State) (p : Nat) (x : Dom) : (s.setDom p x).tx = s.tx := rfl
@[simp] theorem State.setDom_nets (s : State) (p : Nat) (x : Dom) : (s.setDom p x).nets = s.nets := rfl
@[simp] theorem State.setDom_convoy (s : State) (p : Nat) (x : Dom) : (s.setDom p x).convoy = s.convoy := rfl
@[simp] theorem State.setDom_ref (s : State) (p : Nat) (x : Dom) : (s.setDom p x).ref = s.ref := rfl
@[simp] theorem State.setDom_twin (s : State) (p : Nat) (x : Dom) : (s.setDom p x).twin = s.twin := rfl
@[simp] theorem State.setDom_hif (s : State) (p : Nat) (x : Dom) : (s.setDom p x).hif = s.hif := rfl
@[simp] theorem State.setDom_mail (s : State) (p : Nat) (x : Dom) : (s.setDom p x).mail = s.mail := rfl
@[simp] theorem State.setDom_mtx (s : State) (p : Nat) (x : Dom) : (s.setDom p x).mtx = s.mtx := rfl
@[simp] theorem State.setDom_flt (s : State) (p : Nat) (x : Dom) : (s.setDom p x).flt = s.flt := rfl
@[simp] theorem State.setDom_pwr (s : State) (p : Nat) (x : Dom) : (s.setDom p x).pwr = s.pwr := rfl
@[simp] theorem State.setDom_mgmt (s : State) (p : Nat) (x : Dom) : (s.setDom p x).mgmt = s.mgmt := rfl
@[simp] theorem State.setDom_balls (s : State) (p : Nat) (x : Dom) : (s.setDom p x).balls = s.balls := rfl
@[simp] theorem State.setDom_drawn (s : State) (p : Nat) (x : Dom) : (s.setDom p x).drawn = s.drawn := rfl
@[simp] theorem State.core_setDom (s : State) (p : Nat) (x : Dom) (a b : Nat) : (s.setDom p x).core a b = s.core a b := rfl
@[simp] theorem State.cluster_setDom (s : State) (p : Nat) (x : Dom) (a : Nat) : (s.setDom p x).cluster a = s.cluster a := rfl
@[simp] theorem State.port_setDom (s : State) (p : Nat) (x : Dom) (a : Nat) : (s.setDom p x).port a = s.port a := rfl
@[simp] theorem State.asrcCh_setDom (s : State) (p : Nat) (x : Dom) (a : Nat) : (s.setDom p x).asrcCh a = s.asrcCh a := rfl
@[simp] theorem State.chain_setDom (s : State) (p : Nat) (x : Dom) (a : Nat) : (s.setDom p x).chain a = s.chain a := rfl
@[simp] theorem State.flue_setDom (s : State) (p : Nat) (x : Dom) (a : Nat) : (s.setDom p x).flue a = s.flue a := rfl
@[simp] theorem State.group_setDom (s : State) (p : Nat) (x : Dom) (a : Nat) : (s.setDom p x).group a = s.group a := rfl
@[simp] theorem State.net_setDom (s : State) (p : Nat) (x : Dom) (a : Nat) : (s.setDom p x).net a = s.net a := rfl
@[simp] theorem State.rxs_setDom (s : State) (p : Nat) (x : Dom) (a : Nat) : (s.setDom p x).rxs a = s.rxs a := rfl
@[simp] theorem State.txs_setDom (s : State) (p : Nat) (x : Dom) (a : Nat) : (s.setDom p x).txs a = s.txs a := rfl
@[simp] theorem State.cand_setDom (s : State) (p : Nat) (x : Dom) (a : Nat) : (s.setDom p x).cand a = s.cand a := rfl
@[simp] theorem State.mbox_setDom (s : State) (p : Nat) (x : Dom) (a : Nat) : (s.setDom p x).mbox a = s.mbox a := rfl
@[simp] theorem State.rd_setDom (s : State) (p : Nat) (x : Dom) (a : Nat) : (s.setDom p x).rd a = s.rd a := rfl
@[simp] theorem State.fget_setDom (s : State) (p : Nat) (x : Dom) (g : Fd) : (s.setDom p x).fget g = s.fget g := rfl
@[simp] theorem State.on_setDom (s : State) (p : Nat) (x : Dom) (g : Fd) : (s.setDom p x).on g = s.on g := rfl
@[simp] theorem State.get64_setDom (s : State) (p : Nat) (x : Dom) (a : Nat) : (s.setDom p x).get64 a = s.get64 a := rfl

/-! ### setCand -/

@[simp] theorem State.setCand_pending (s : State) (p : Nat) (x : Cand) : (s.setCand p x).pending = s.pending := rfl
@[simp] theorem State.setCand_regs (s : State) (p : Nat) (x : Cand) : (s.setCand p x).regs = s.regs := rfl
@[simp] theorem State.setCand_latch (s : State) (p : Nat) (x : Cand) : (s.setCand p x).latch = s.latch := rfl
@[simp] theorem State.setCand_hold (s : State) (p : Nat) (x : Cand) : (s.setCand p x).hold = s.hold := rfl
@[simp] theorem State.setCand_readData (s : State) (p : Nat) (x : Cand) : (s.setCand p x).readData = s.readData := rfl
@[simp] theorem State.setCand_mem (s : State) (p : Nat) (x : Cand) : (s.setCand p x).mem = s.mem := rfl
@[simp] theorem State.setCand_hostMem (s : State) (p : Nat) (x : Cand) : (s.setCand p x).hostMem = s.hostMem := rfl
@[simp] theorem State.setCand_cores (s : State) (p : Nat) (x : Cand) : (s.setCand p x).cores = s.cores := rfl
@[simp] theorem State.setCand_clusters (s : State) (p : Nat) (x : Cand) : (s.setCand p x).clusters = s.clusters := rfl
@[simp] theorem State.setCand_ember (s : State) (p : Nat) (x : Cand) : (s.setCand p x).ember = s.ember := rfl
@[simp] theorem State.setCand_sch (s : State) (p : Nat) (x : Cand) : (s.setCand p x).sch = s.sch := rfl
@[simp] theorem State.setCand_mix (s : State) (p : Nat) (x : Cand) : (s.setCand p x).mix = s.mix := rfl
@[simp] theorem State.setCand_ports (s : State) (p : Nat) (x : Cand) : (s.setCand p x).ports = s.ports := rfl
@[simp] theorem State.setCand_asrc (s : State) (p : Nat) (x : Cand) : (s.setCand p x).asrc = s.asrc := rfl
@[simp] theorem State.setCand_chains (s : State) (p : Nat) (x : Cand) : (s.setCand p x).chains = s.chains := rfl
@[simp] theorem State.setCand_flues (s : State) (p : Nat) (x : Cand) : (s.setCand p x).flues = s.flues := rfl
@[simp] theorem State.setCand_groups (s : State) (p : Nat) (x : Cand) : (s.setCand p x).groups = s.groups := rfl
@[simp] theorem State.setCand_rx (s : State) (p : Nat) (x : Cand) : (s.setCand p x).rx = s.rx := rfl
@[simp] theorem State.setCand_tx (s : State) (p : Nat) (x : Cand) : (s.setCand p x).tx = s.tx := rfl
@[simp] theorem State.setCand_nets (s : State) (p : Nat) (x : Cand) : (s.setCand p x).nets = s.nets := rfl
@[simp] theorem State.setCand_convoy (s : State) (p : Nat) (x : Cand) : (s.setCand p x).convoy = s.convoy := rfl
@[simp] theorem State.setCand_tmb (s : State) (p : Nat) (x : Cand) : (s.setCand p x).tmb = s.tmb := rfl
@[simp] theorem State.setCand_twin (s : State) (p : Nat) (x : Cand) : (s.setCand p x).twin = s.twin := rfl
@[simp] theorem State.setCand_hif (s : State) (p : Nat) (x : Cand) : (s.setCand p x).hif = s.hif := rfl
@[simp] theorem State.setCand_mail (s : State) (p : Nat) (x : Cand) : (s.setCand p x).mail = s.mail := rfl
@[simp] theorem State.setCand_mtx (s : State) (p : Nat) (x : Cand) : (s.setCand p x).mtx = s.mtx := rfl
@[simp] theorem State.setCand_flt (s : State) (p : Nat) (x : Cand) : (s.setCand p x).flt = s.flt := rfl
@[simp] theorem State.setCand_pwr (s : State) (p : Nat) (x : Cand) : (s.setCand p x).pwr = s.pwr := rfl
@[simp] theorem State.setCand_mgmt (s : State) (p : Nat) (x : Cand) : (s.setCand p x).mgmt = s.mgmt := rfl
@[simp] theorem State.setCand_balls (s : State) (p : Nat) (x : Cand) : (s.setCand p x).balls = s.balls := rfl
@[simp] theorem State.setCand_drawn (s : State) (p : Nat) (x : Cand) : (s.setCand p x).drawn = s.drawn := rfl
@[simp] theorem State.core_setCand (s : State) (p : Nat) (x : Cand) (a b : Nat) : (s.setCand p x).core a b = s.core a b := rfl
@[simp] theorem State.cluster_setCand (s : State) (p : Nat) (x : Cand) (a : Nat) : (s.setCand p x).cluster a = s.cluster a := rfl
@[simp] theorem State.port_setCand (s : State) (p : Nat) (x : Cand) (a : Nat) : (s.setCand p x).port a = s.port a := rfl
@[simp] theorem State.asrcCh_setCand (s : State) (p : Nat) (x : Cand) (a : Nat) : (s.setCand p x).asrcCh a = s.asrcCh a := rfl
@[simp] theorem State.chain_setCand (s : State) (p : Nat) (x : Cand) (a : Nat) : (s.setCand p x).chain a = s.chain a := rfl
@[simp] theorem State.flue_setCand (s : State) (p : Nat) (x : Cand) (a : Nat) : (s.setCand p x).flue a = s.flue a := rfl
@[simp] theorem State.group_setCand (s : State) (p : Nat) (x : Cand) (a : Nat) : (s.setCand p x).group a = s.group a := rfl
@[simp] theorem State.net_setCand (s : State) (p : Nat) (x : Cand) (a : Nat) : (s.setCand p x).net a = s.net a := rfl
@[simp] theorem State.rxs_setCand (s : State) (p : Nat) (x : Cand) (a : Nat) : (s.setCand p x).rxs a = s.rxs a := rfl
@[simp] theorem State.txs_setCand (s : State) (p : Nat) (x : Cand) (a : Nat) : (s.setCand p x).txs a = s.txs a := rfl
@[simp] theorem State.dom_setCand (s : State) (p : Nat) (x : Cand) (a : Nat) : (s.setCand p x).dom a = s.dom a := rfl
@[simp] theorem State.mbox_setCand (s : State) (p : Nat) (x : Cand) (a : Nat) : (s.setCand p x).mbox a = s.mbox a := rfl
@[simp] theorem State.rd_setCand (s : State) (p : Nat) (x : Cand) (a : Nat) : (s.setCand p x).rd a = s.rd a := rfl
@[simp] theorem State.fget_setCand (s : State) (p : Nat) (x : Cand) (g : Fd) : (s.setCand p x).fget g = s.fget g := rfl
@[simp] theorem State.on_setCand (s : State) (p : Nat) (x : Cand) (g : Fd) : (s.setCand p x).on g = s.on g := rfl
@[simp] theorem State.get64_setCand (s : State) (p : Nat) (x : Cand) (a : Nat) : (s.setCand p x).get64 a = s.get64 a := rfl

/-! ### setMbox -/

@[simp] theorem State.setMbox_pending (s : State) (p : Nat) (x : Mbox) : (s.setMbox p x).pending = s.pending := rfl
@[simp] theorem State.setMbox_regs (s : State) (p : Nat) (x : Mbox) : (s.setMbox p x).regs = s.regs := rfl
@[simp] theorem State.setMbox_latch (s : State) (p : Nat) (x : Mbox) : (s.setMbox p x).latch = s.latch := rfl
@[simp] theorem State.setMbox_hold (s : State) (p : Nat) (x : Mbox) : (s.setMbox p x).hold = s.hold := rfl
@[simp] theorem State.setMbox_readData (s : State) (p : Nat) (x : Mbox) : (s.setMbox p x).readData = s.readData := rfl
@[simp] theorem State.setMbox_mem (s : State) (p : Nat) (x : Mbox) : (s.setMbox p x).mem = s.mem := rfl
@[simp] theorem State.setMbox_hostMem (s : State) (p : Nat) (x : Mbox) : (s.setMbox p x).hostMem = s.hostMem := rfl
@[simp] theorem State.setMbox_cores (s : State) (p : Nat) (x : Mbox) : (s.setMbox p x).cores = s.cores := rfl
@[simp] theorem State.setMbox_clusters (s : State) (p : Nat) (x : Mbox) : (s.setMbox p x).clusters = s.clusters := rfl
@[simp] theorem State.setMbox_ember (s : State) (p : Nat) (x : Mbox) : (s.setMbox p x).ember = s.ember := rfl
@[simp] theorem State.setMbox_sch (s : State) (p : Nat) (x : Mbox) : (s.setMbox p x).sch = s.sch := rfl
@[simp] theorem State.setMbox_mix (s : State) (p : Nat) (x : Mbox) : (s.setMbox p x).mix = s.mix := rfl
@[simp] theorem State.setMbox_ports (s : State) (p : Nat) (x : Mbox) : (s.setMbox p x).ports = s.ports := rfl
@[simp] theorem State.setMbox_asrc (s : State) (p : Nat) (x : Mbox) : (s.setMbox p x).asrc = s.asrc := rfl
@[simp] theorem State.setMbox_chains (s : State) (p : Nat) (x : Mbox) : (s.setMbox p x).chains = s.chains := rfl
@[simp] theorem State.setMbox_flues (s : State) (p : Nat) (x : Mbox) : (s.setMbox p x).flues = s.flues := rfl
@[simp] theorem State.setMbox_groups (s : State) (p : Nat) (x : Mbox) : (s.setMbox p x).groups = s.groups := rfl
@[simp] theorem State.setMbox_rx (s : State) (p : Nat) (x : Mbox) : (s.setMbox p x).rx = s.rx := rfl
@[simp] theorem State.setMbox_tx (s : State) (p : Nat) (x : Mbox) : (s.setMbox p x).tx = s.tx := rfl
@[simp] theorem State.setMbox_nets (s : State) (p : Nat) (x : Mbox) : (s.setMbox p x).nets = s.nets := rfl
@[simp] theorem State.setMbox_convoy (s : State) (p : Nat) (x : Mbox) : (s.setMbox p x).convoy = s.convoy := rfl
@[simp] theorem State.setMbox_tmb (s : State) (p : Nat) (x : Mbox) : (s.setMbox p x).tmb = s.tmb := rfl
@[simp] theorem State.setMbox_ref (s : State) (p : Nat) (x : Mbox) : (s.setMbox p x).ref = s.ref := rfl
@[simp] theorem State.setMbox_twin (s : State) (p : Nat) (x : Mbox) : (s.setMbox p x).twin = s.twin := rfl
@[simp] theorem State.setMbox_hif (s : State) (p : Nat) (x : Mbox) : (s.setMbox p x).hif = s.hif := rfl
@[simp] theorem State.setMbox_mtx (s : State) (p : Nat) (x : Mbox) : (s.setMbox p x).mtx = s.mtx := rfl
@[simp] theorem State.setMbox_flt (s : State) (p : Nat) (x : Mbox) : (s.setMbox p x).flt = s.flt := rfl
@[simp] theorem State.setMbox_pwr (s : State) (p : Nat) (x : Mbox) : (s.setMbox p x).pwr = s.pwr := rfl
@[simp] theorem State.setMbox_mgmt (s : State) (p : Nat) (x : Mbox) : (s.setMbox p x).mgmt = s.mgmt := rfl
@[simp] theorem State.setMbox_balls (s : State) (p : Nat) (x : Mbox) : (s.setMbox p x).balls = s.balls := rfl
@[simp] theorem State.setMbox_drawn (s : State) (p : Nat) (x : Mbox) : (s.setMbox p x).drawn = s.drawn := rfl
@[simp] theorem State.core_setMbox (s : State) (p : Nat) (x : Mbox) (a b : Nat) : (s.setMbox p x).core a b = s.core a b := rfl
@[simp] theorem State.cluster_setMbox (s : State) (p : Nat) (x : Mbox) (a : Nat) : (s.setMbox p x).cluster a = s.cluster a := rfl
@[simp] theorem State.port_setMbox (s : State) (p : Nat) (x : Mbox) (a : Nat) : (s.setMbox p x).port a = s.port a := rfl
@[simp] theorem State.asrcCh_setMbox (s : State) (p : Nat) (x : Mbox) (a : Nat) : (s.setMbox p x).asrcCh a = s.asrcCh a := rfl
@[simp] theorem State.chain_setMbox (s : State) (p : Nat) (x : Mbox) (a : Nat) : (s.setMbox p x).chain a = s.chain a := rfl
@[simp] theorem State.flue_setMbox (s : State) (p : Nat) (x : Mbox) (a : Nat) : (s.setMbox p x).flue a = s.flue a := rfl
@[simp] theorem State.group_setMbox (s : State) (p : Nat) (x : Mbox) (a : Nat) : (s.setMbox p x).group a = s.group a := rfl
@[simp] theorem State.net_setMbox (s : State) (p : Nat) (x : Mbox) (a : Nat) : (s.setMbox p x).net a = s.net a := rfl
@[simp] theorem State.rxs_setMbox (s : State) (p : Nat) (x : Mbox) (a : Nat) : (s.setMbox p x).rxs a = s.rxs a := rfl
@[simp] theorem State.txs_setMbox (s : State) (p : Nat) (x : Mbox) (a : Nat) : (s.setMbox p x).txs a = s.txs a := rfl
@[simp] theorem State.dom_setMbox (s : State) (p : Nat) (x : Mbox) (a : Nat) : (s.setMbox p x).dom a = s.dom a := rfl
@[simp] theorem State.cand_setMbox (s : State) (p : Nat) (x : Mbox) (a : Nat) : (s.setMbox p x).cand a = s.cand a := rfl
@[simp] theorem State.rd_setMbox (s : State) (p : Nat) (x : Mbox) (a : Nat) : (s.setMbox p x).rd a = s.rd a := rfl
@[simp] theorem State.fget_setMbox (s : State) (p : Nat) (x : Mbox) (g : Fd) : (s.setMbox p x).fget g = s.fget g := rfl
@[simp] theorem State.on_setMbox (s : State) (p : Nat) (x : Mbox) (g : Fd) : (s.setMbox p x).on g = s.on g := rfl
@[simp] theorem State.get64_setMbox (s : State) (p : Nat) (x : Mbox) (a : Nat) : (s.setMbox p x).get64 a = s.get64 a := rfl

/-! ### Reads after writes -/

theorem State.rd_wr (s : State) (a b : Nat) (v : W32) : (s.wr a v).rd b = if b = a then v else s.rd b := by
  unfold State.rd State.wr
  by_cases h : b = a
  · subst h; simp
  · simp [Tbl.get, Tbl.find_put_other _ _ _ _ _ h, h]

@[simp] theorem State.rd_wr_same (s : State) (a : Nat) (v : W32) : (s.wr a v).rd a = v := by simp [State.rd_wr]

theorem State.rd_wr_other (s : State) (a b : Nat) (v : W32) (h : b ≠ a) : (s.wr a v).rd b = s.rd b := by
  simp [State.rd_wr, h]

theorem bits_lt (v lo w : Nat) : bits v lo w < 2 ^ w := Nat.mod_lt _ (Nat.two_pow_pos w)

theorem putBits_testBit (v lo w x i : Nat) :
    (putBits v lo w x).testBit i = if lo ≤ i ∧ i < lo + w then x.testBit (i - lo) else v.testBit i := by
  have h1 : putBits v lo w x = 2 ^ (lo + w) * (v / 2 ^ (lo + w)) + (2 ^ lo * (x % 2 ^ w) + v % 2 ^ lo) := by
    unfold putBits; ring
  have h2 : 2 ^ lo * (x % 2 ^ w) + v % 2 ^ lo < 2 ^ (lo + w) := by
    have a := Nat.mod_lt x (Nat.two_pow_pos w)
    have b := Nat.mod_lt v (Nat.two_pow_pos lo)
    calc 2 ^ lo * (x % 2 ^ w) + v % 2 ^ lo < 2 ^ lo * (x % 2 ^ w) + 2 ^ lo := by omega
      _ = 2 ^ lo * (x % 2 ^ w + 1) := by ring
      _ ≤ 2 ^ lo * 2 ^ w := Nat.mul_le_mul_left _ a
      _ = 2 ^ (lo + w) := by rw [Nat.pow_add]
  rw [h1, Nat.testBit_two_pow_mul_add _ h2, Nat.testBit_two_pow_mul_add _ (Nat.mod_lt v (Nat.two_pow_pos lo))]
  by_cases a : i < lo
  · have b : i < lo + w := by omega
    simp [a, b, Nat.testBit_mod_two_pow]
  · by_cases b : i < lo + w
    · have : lo ≤ i ∧ i < lo + w := by omega
      have c : i - lo < w := by omega
      simp [a, b, this, c, Nat.testBit_mod_two_pow]
    · have : ¬ (lo ≤ i ∧ i < lo + w) := by omega
      rw [if_neg b, if_neg this, Nat.testBit_div_two_pow]
      congr 1
      omega

theorem bits_testBit (v lo w i : Nat) : (bits v lo w).testBit i = (decide (i < w) && v.testBit (lo + i)) := by
  simp [bits, Nat.testBit_mod_two_pow, Nat.testBit_div_two_pow, Nat.add_comm]

theorem bits_putBits_same (v lo w x : Nat) : bits (putBits v lo w x) lo w = x % 2 ^ w := by
  apply Nat.eq_of_testBit_eq
  intro i
  rw [bits_testBit, putBits_testBit, Nat.testBit_mod_two_pow]
  by_cases h : i < w <;> simp [h]

theorem bits_putBits_other (v lo w x lo' w' : Nat) (h : lo' + w' ≤ lo ∨ lo + w ≤ lo') :
    bits (putBits v lo w x) lo' w' = bits v lo' w' := by
  apply Nat.eq_of_testBit_eq
  intro i
  rw [bits_testBit, bits_testBit, putBits_testBit]
  by_cases h1 : i < w'
  · have : ¬ (lo ≤ lo' + i ∧ lo' + i < lo + w) := by omega
    simp only [this, if_false]
  · simp [h1]

theorem bits_mod (v n lo w : Nat) (h : lo + w ≤ n) : bits (v % 2 ^ n) lo w = bits v lo w := by
  apply Nat.eq_of_testBit_eq
  intro i
  rw [bits_testBit, bits_testBit, Nat.testBit_mod_two_pow]
  by_cases h1 : i < w
  · have : lo + i < n := by omega
    simp [this]
  · simp [h1]

/-- A field reads back the low bits written to it. -/
theorem State.fget_fset_same (s : State) (f : Fd) (v : Nat) (h : f.lo + f.w ≤ 32) :
    (s.fset f v).fget f = v % 2 ^ f.w := by
  unfold State.fget State.fset
  rw [State.rd_wr_same, BitVec.toNat_ofNat, bits_mod _ _ _ _ h, bits_putBits_same]

theorem State.fget_wr_other (s : State) (a : Nat) (v : W32) (g : Fd) (h : g.off ≠ a) : (s.wr a v).fget g = s.fget g := by
  unfold State.fget
  rw [State.rd_wr_other _ _ _ _ h]

theorem State.on_wr_other (s : State) (a : Nat) (v : W32) (g : Fd) (h : g.off ≠ a) : (s.wr a v).on g = s.on g := by
  unfold State.on
  rw [State.fget_wr_other _ _ _ _ h]

/-- A write of one field leaves another alone: one of another word, or one of other bits of the same word. -/
theorem State.fget_fset_other (s : State) (f g : Fd) (v : Nat)
    (h : g.off ≠ f.off ∨ (g.lo + g.w ≤ 32 ∧ (g.lo + g.w ≤ f.lo ∨ f.lo + f.w ≤ g.lo))) :
    (s.fset f v).fget g = s.fget g := by
  by_cases ho : g.off = f.off
  · obtain ⟨h1, h2⟩ := h.resolve_left (by simpa using ho)
    unfold State.fget State.fset
    rw [ho, State.rd_wr_same, BitVec.toNat_ofNat, bits_mod _ _ _ _ h1, bits_putBits_other _ _ _ _ _ _ h2]
  · unfold State.fset
    exact State.fget_wr_other _ _ _ _ ho

theorem State.on_fset_other (s : State) (f g : Fd) (v : Nat)
    (h : g.off ≠ f.off ∨ (g.lo + g.w ≤ 32 ∧ (g.lo + g.w ≤ f.lo ∨ f.lo + f.w ≤ g.lo))) :
    (s.fset f v).on g = s.on g := by
  unfold State.on
  rw [State.fget_fset_other _ _ _ _ h]

theorem State.rd_fset_other (s : State) (f : Fd) (v b : Nat) (h : b ≠ f.off) : (s.fset f v).rd b = s.rd b :=
  State.rd_wr_other _ _ _ _ h

theorem State.get64_set64_same (s : State) (off v : Nat) : (s.set64 off v).get64 off = v % 2 ^ 64 := by
  unfold State.get64 State.set64
  rw [State.rd_wr_same, State.rd_wr_other _ _ _ _ (by omega), State.rd_wr_same, BitVec.toNat_ofNat, BitVec.toNat_ofNat]
  omega

theorem State.get64_wr_other (s : State) (a : Nat) (v : W32) (off : Nat) (h : a ≠ off ∧ a ≠ off + 4) :
    (s.wr a v).get64 off = s.get64 off := by
  unfold State.get64
  rw [State.rd_wr_other _ _ _ _ (Ne.symm h.1), State.rd_wr_other _ _ _ _ (Ne.symm h.2)]

theorem State.get64_fset_other (s : State) (f : Fd) (v off : Nat) (h : f.off ≠ off ∧ f.off ≠ off + 4) :
    (s.fset f v).get64 off = s.get64 off := State.get64_wr_other _ _ _ _ h

/-! ### Sub-states after their updates -/

@[simp] theorem State.core_setCore_same (s : State) (cl j : Nat) (x : Core) : (s.setCore cl j x).core cl j = x := by
  simp [State.core, State.setCore]
theorem State.core_setCore_other (s : State) (cl j : Nat) (x : Core) (cl' j' : Nat) (h : 8 * cl' + j' ≠ 8 * cl + j) :
    (s.setCore cl j x).core cl' j' = s.core cl' j' := by simp [State.core, State.setCore, Tbl.get_put, h]
@[simp] theorem State.setCore_setCore (s : State) (cl j : Nat) (x y : Core) :
    (s.setCore cl j x).setCore cl j y = s.setCore cl j y := by simp [State.setCore]
@[simp] theorem State.cluster_setCluster_same (s : State) (i : Nat) (x : Cluster) : (s.setCluster i x).cluster i = x := by
  simp [State.cluster, State.setCluster]
theorem State.cluster_setCluster_other (s : State) (i j : Nat) (x : Cluster) (h : j ≠ i) :
    (s.setCluster i x).cluster j = s.cluster j := by simp [State.cluster, State.setCluster, Tbl.get_put, h]
@[simp] theorem State.setCluster_setCluster (s : State) (i : Nat) (x y : Cluster) :
    (s.setCluster i x).setCluster i y = s.setCluster i y := by simp [State.setCluster]
@[simp] theorem State.port_setPort_same (s : State) (i : Nat) (x : Port) : (s.setPort i x).port i = x := by
  simp [State.port, State.setPort]
theorem State.port_setPort_other (s : State) (i j : Nat) (x : Port) (h : j ≠ i) :
    (s.setPort i x).port j = s.port j := by simp [State.port, State.setPort, Tbl.get_put, h]
@[simp] theorem State.setPort_setPort (s : State) (i : Nat) (x y : Port) :
    (s.setPort i x).setPort i y = s.setPort i y := by simp [State.setPort]
@[simp] theorem State.asrcCh_setAsrc_same (s : State) (i : Nat) (x : Asrc) : (s.setAsrc i x).asrcCh i = x := by
  simp [State.asrcCh, State.setAsrc]
theorem State.asrcCh_setAsrc_other (s : State) (i j : Nat) (x : Asrc) (h : j ≠ i) :
    (s.setAsrc i x).asrcCh j = s.asrcCh j := by simp [State.asrcCh, State.setAsrc, Tbl.get_put, h]
@[simp] theorem State.setAsrc_setAsrc (s : State) (i : Nat) (x y : Asrc) :
    (s.setAsrc i x).setAsrc i y = s.setAsrc i y := by simp [State.setAsrc]
@[simp] theorem State.chain_setChain_same (s : State) (i : Nat) (x : Chain) : (s.setChain i x).chain i = x := by
  simp [State.chain, State.setChain]
theorem State.chain_setChain_other (s : State) (i j : Nat) (x : Chain) (h : j ≠ i) :
    (s.setChain i x).chain j = s.chain j := by simp [State.chain, State.setChain, Tbl.get_put, h]
@[simp] theorem State.setChain_setChain (s : State) (i : Nat) (x y : Chain) :
    (s.setChain i x).setChain i y = s.setChain i y := by simp [State.setChain]
@[simp] theorem State.flue_setFlue_same (s : State) (i : Nat) (x : Flue) : (s.setFlue i x).flue i = x := by
  simp [State.flue, State.setFlue]
theorem State.flue_setFlue_other (s : State) (i j : Nat) (x : Flue) (h : j ≠ i) :
    (s.setFlue i x).flue j = s.flue j := by simp [State.flue, State.setFlue, Tbl.get_put, h]
@[simp] theorem State.setFlue_setFlue (s : State) (i : Nat) (x y : Flue) :
    (s.setFlue i x).setFlue i y = s.setFlue i y := by simp [State.setFlue]
@[simp] theorem State.group_setGroup_same (s : State) (i : Nat) (x : FlueGroup) : (s.setGroup i x).group i = x := by
  simp [State.group, State.setGroup]
theorem State.group_setGroup_other (s : State) (i j : Nat) (x : FlueGroup) (h : j ≠ i) :
    (s.setGroup i x).group j = s.group j := by simp [State.group, State.setGroup, Tbl.get_put, h]
@[simp] theorem State.setGroup_setGroup (s : State) (i : Nat) (x y : FlueGroup) :
    (s.setGroup i x).setGroup i y = s.setGroup i y := by simp [State.setGroup]
@[simp] theorem State.net_setNet_same (s : State) (i : Nat) (x : Net) : (s.setNet i x).net i = x := by
  simp [State.net, State.setNet]
theorem State.net_setNet_other (s : State) (i j : Nat) (x : Net) (h : j ≠ i) :
    (s.setNet i x).net j = s.net j := by simp [State.net, State.setNet, Tbl.get_put, h]
@[simp] theorem State.setNet_setNet (s : State) (i : Nat) (x y : Net) :
    (s.setNet i x).setNet i y = s.setNet i y := by simp [State.setNet]
@[simp] theorem State.rxs_setRxs_same (s : State) (i : Nat) (x : Stream) : (s.setRxs i x).rxs i = x := by
  simp [State.rxs, State.setRxs]
theorem State.rxs_setRxs_other (s : State) (i j : Nat) (x : Stream) (h : j ≠ i) :
    (s.setRxs i x).rxs j = s.rxs j := by simp [State.rxs, State.setRxs, Tbl.get_put, h]
@[simp] theorem State.setRxs_setRxs (s : State) (i : Nat) (x y : Stream) :
    (s.setRxs i x).setRxs i y = s.setRxs i y := by simp [State.setRxs]
@[simp] theorem State.txs_setTxs_same (s : State) (i : Nat) (x : Stream) : (s.setTxs i x).txs i = x := by
  simp [State.txs, State.setTxs]
theorem State.txs_setTxs_other (s : State) (i j : Nat) (x : Stream) (h : j ≠ i) :
    (s.setTxs i x).txs j = s.txs j := by simp [State.txs, State.setTxs, Tbl.get_put, h]
@[simp] theorem State.setTxs_setTxs (s : State) (i : Nat) (x y : Stream) :
    (s.setTxs i x).setTxs i y = s.setTxs i y := by simp [State.setTxs]
@[simp] theorem State.dom_setDom_same (s : State) (i : Nat) (x : Dom) : (s.setDom i x).dom i = x := by
  simp [State.dom, State.setDom]
theorem State.dom_setDom_other (s : State) (i j : Nat) (x : Dom) (h : j ≠ i) :
    (s.setDom i x).dom j = s.dom j := by simp [State.dom, State.setDom, Tbl.get_put, h]
@[simp] theorem State.setDom_setDom (s : State) (i : Nat) (x y : Dom) :
    (s.setDom i x).setDom i y = s.setDom i y := by simp [State.setDom]
@[simp] theorem State.cand_setCand_same (s : State) (i : Nat) (x : Cand) : (s.setCand i x).cand i = x := by
  simp [State.cand, State.setCand]
theorem State.cand_setCand_other (s : State) (i j : Nat) (x : Cand) (h : j ≠ i) :
    (s.setCand i x).cand j = s.cand j := by simp [State.cand, State.setCand, Tbl.get_put, h]
@[simp] theorem State.setCand_setCand (s : State) (i : Nat) (x y : Cand) :
    (s.setCand i x).setCand i y = s.setCand i y := by simp [State.setCand]
@[simp] theorem State.mbox_setMbox_same (s : State) (i : Nat) (x : Mbox) : (s.setMbox i x).mbox i = x := by
  simp [State.mbox, State.setMbox]
theorem State.mbox_setMbox_other (s : State) (i j : Nat) (x : Mbox) (h : j ≠ i) :
    (s.setMbox i x).mbox j = s.mbox j := by simp [State.mbox, State.setMbox, Tbl.get_put, h]
@[simp] theorem State.setMbox_setMbox (s : State) (i : Nat) (x y : Mbox) :
    (s.setMbox i x).setMbox i y = s.setMbox i y := by simp [State.setMbox]

/-! ### Conditions and repetition -/

@[simp] theorem State.when_true (s : State) (f : State → State) : s.when true f = f s := rfl
@[simp] theorem State.when_false (s : State) (f : State → State) : s.when false f = s := rfl
@[simp] theorem State.each_nil {α : Type} (s : State) (f : State → α → State) : s.each [] f = s := rfl
@[simp] theorem State.each_cons {α : Type} (s : State) (a : α) (l : List α) (f : State → α → State) :
    s.each (a :: l) f = (f s a).each l f := rfl

/-- What every step of a repetition keeps, the repetition keeps. -/
theorem State.each_induct {α : Type} (P : State → Prop) (l : List α) (f : State → α → State)
    (hf : ∀ t a, P t → P (f t a)) (s : State) (h : P s) : P (s.each l f) := by
  induction l generalizing s with
  | nil => exact h
  | cons a l ih => exact ih _ (hf _ _ h)

theorem State.when_induct (P : State → Prop) (c : Bool) (f : State → State) (s : State) (h : P s)
    (hf : c = true → P s → P (f s)) : P (s.when c f) := by
  cases c
  · exact h
  · exact hf rfl h

@[simp] theorem done_true (s : State) : done true s = .next s := rfl
@[simp] theorem done_false (s : State) : done false s = .refused .illFormed := rfl

/-- A meaning answers a next state exactly where its operands are those of a command that exists. -/
theorem done_eq_next {ok : Bool} {s t : State} : done ok s = .next t ↔ ok = true ∧ s = t := by
  cases ok <;> simp [done]

end Sys2Proof.Machine
end

