-- ==== Sys2Proof/Laws/Regs.lean ====
section
/-! SUPPORT. Laws/Regs.lean: registers bit by bit: what a write of one field does to every bit of every register. -/

namespace Sys2Proof.Machine

theorem State.wr_wr (s : State) (a : Nat) (v w : W32) : (s.wr a v).wr a w = s.wr a w := by
  unfold State.wr
  simp only [Tbl.put_put]

theorem putBits_putBits (v lo w x y : Nat) : putBits (putBits v lo w x) lo w y = putBits v lo w y := by
  apply Nat.eq_of_testBit_eq
  intro i
  rw [putBits_testBit, putBits_testBit, putBits_testBit]
  split <;> simp_all

theorem putBits_mod (v lo w x : Nat) (h : lo + w ≤ 32) : putBits v lo w x % 2 ^ 32 = putBits (v % 2 ^ 32) lo w x := by
  apply Nat.eq_of_testBit_eq
  intro i
  rw [Nat.testBit_mod_two_pow, putBits_testBit, putBits_testBit, Nat.testBit_mod_two_pow]
  split <;> grind

/-- The later of two updates of a field stands. -/
theorem State.fset_fset (s : State) (f : Fd) (v w : Nat) (h : f.lo + f.w ≤ 32) : (s.fset f v).fset f w = s.fset f w := by
  show ((s.wr _ _).wr _ _) = s.wr _ _
  rw [State.wr_wr]
  congr 1
  unfold State.fset
  rw [State.rd_wr_same, BitVec.toNat_ofNat]
  apply BitVec.eq_of_toNat_eq
  rw [BitVec.toNat_ofNat, BitVec.toNat_ofNat, putBits_mod _ _ _ _ h, Nat.mod_mod, ← putBits_mod _ _ _ _ h, putBits_putBits]

/-- A bit of a register after a write of a field. -/
theorem State.rd_fset_bit (s : State) (f : Fd) (v off i : Nat) (hi : i < 32) :
    ((s.fset f v).rd off).getLsbD i =
      if off = f.off ∧ f.lo ≤ i ∧ i < f.lo + f.w then v.testBit (i - f.lo) else (s.rd off).getLsbD i := by
  unfold State.fset
  rw [State.rd_wr]
  by_cases h : off = f.off
  · subst h
    simp only [if_true, true_and, BitVec.getLsbD_ofNat, hi, decide_true, Bool.true_and, putBits_testBit]
    split <;> rfl
  · simp [h]

end Sys2Proof.Machine

namespace Sys2Proof

open Sys2Proof.Machine

theorem regsBut_refl (s : State) (l : List Fd) : regsBut s s l := fun _ _ _ => rfl

theorem regsBut_trans {s t u : State} {l : List Fd} (h : regsBut s t l) (k : regsBut t u l) : regsBut s u l :=
  fun off i hf => (k off i hf).trans (h off i hf)

theorem regsBut_mono {s t : State} {l m : List Fd} (h : regsBut s t l) (hl : ∀ f ∈ l, f ∈ m) : regsBut s t m :=
  fun off i hf => h off i fun f hm => hf f (hl f hm)

/-- States with the same register words. -/
theorem regsBut_of_regs {s t : State} (l : List Fd) (h : t.regs = s.regs) : regsBut s t l := by
  intro off i _
  unfold State.rd
  rw [h]

theorem regsBut_fset (s : State) (f : Fd) (v : Nat) (l : List Fd) (h : f ∈ l) : regsBut s (s.fset f v) l := by
  intro off i hf
  by_cases hi : i < 32
  · rw [State.rd_fset_bit _ _ _ _ _ hi, if_neg]
    rintro ⟨rfl, a, b⟩
    have := hf f h rfl
    omega
  · rw [BitVec.getLsbD_of_ge _ _ (by omega), BitVec.getLsbD_of_ge _ _ (by omega)]

theorem regsBut_wr (s : State) (a : Nat) (v : W32) (l : List Fd) (h : word a ∈ l) : regsBut s (s.wr a v) l := by
  intro off i hf
  by_cases hi : i < 32
  · rw [State.rd_wr_other]
    rintro rfl
    have := hf _ h rfl
    simp only [word] at this
    omega
  · rw [BitVec.getLsbD_of_ge _ _ (by omega), BitVec.getLsbD_of_ge _ _ (by omega)]

theorem regsBut_set64 (s : State) (a v : Nat) (l : List Fd) (h : word a ∈ l) (k : word (a + 4) ∈ l) :
    regsBut s (s.set64 a v) l := regsBut_trans (regsBut_wr _ _ _ _ h) (regsBut_wr _ _ _ _ k)

end Sys2Proof
end

