-- ==== Sys2Proof/Laws/Commands.lean ====
section
/-! SUPPORT. Laws/Commands.lean: a host command in a part that serves commands: from intake to its effect. -/

namespace Sys2Proof.Machine

theorem State.on_fset_same (s : State) (f : Fd) (v : Nat) (h : f.lo + f.w ≤ 32) : (s.fset f v).on f = (v % 2 ^ f.w == 1) := by
  unfold State.on
  rw [State.fget_fset_same _ _ _ h]

theorem withSch_self (t : State) (x : Sch) (h : t.sch = x) : ({ t with sch := x } : State) = t := by
  subst h
  rfl

theorem withSch_fset (t : State) (x : Sch) (f : Fd) (v : Nat) :
    ({ t with sch := x } : State).fset f v = { t.fset f v with sch := x } := rfl

theorem setHeld_held (s : State) (l : List Held) : (setHeld s l).sch.held = l := rfl

theorem setHeld_setHeld (s : State) (l m : List Held) : setHeld (setHeld s l) m = setHeld s m := by
  have h := State.fset_fset s SCH_STATUS_PEND_CMDS l.length m.length (by decide)
  unfold setHeld
  rw [withSch_fset, h]

theorem setHeld_nil {s : State} (h : s.sch.held = []) : setHeld s [] = noHeld s := by
  unfold setHeld noHeld
  apply withSch_self
  rw [State.fset_sch, ← h]

/-- A held command that does nothing at this tick stays, and with none held nothing happens. -/
theorem dues_none {s : State} (h : s.sch.held = []) : dueTick (dueEarly s) = s := by
  have : dueEarly s = s := by
    unfold dueEarly orderDue
    rw [h]
    rfl
  rw [this]
  unfold dueTick orderDue
  rw [h]
  rfl

theorem noHeld_eq (s : State) : noHeld s = s.fset SCH_STATUS_PEND_CMDS 0 := rfl

theorem pend_fits : SCH_STATUS_PEND_CMDS.lo + SCH_STATUS_PEND_CMDS.w ≤ 32 := by decide

theorem noHeld_sch (s : State) : (noHeld s).sch = s.sch := by rw [noHeld_eq, State.fset_sch]
theorem noHeld_hif (s : State) : (noHeld s).hif = s.hif := by rw [noHeld_eq, State.fset_hif]
theorem noHeld_pwr (s : State) : (noHeld s).pwr = s.pwr := by rw [noHeld_eq, State.fset_pwr]
theorem noHeld_mem (s : State) : (noHeld s).mem = s.mem := by rw [noHeld_eq, State.fset_mem]

theorem noHeld_idem (s : State) : noHeld (noHeld s) = noHeld s := by
  rw [noHeld_eq, noHeld_eq, State.fset_fset s SCH_STATUS_PEND_CMDS 0 0 pend_fits]

theorem setHeld_noHeld (s : State) (l : List Held) : setHeld (noHeld s) l = setHeld s l := by
  unfold setHeld noHeld
  rw [State.fset_fset _ _ _ _ (by decide), State.fset_sch]

theorem complete_eq {s : State} (h : Hdr) (st r : Nat) (ap : Bool) (lo n : Nat) (e : s.pwr.hifRst = false ∧ s.on HIF_CTRL_EN = true) :
    complete s h st r ap lo n = answered s h st r (if ap then some n else none) lo := by
  unfold complete answered
  rw [if_neg (by simp [e.1, e.2])]
  cases ap <;> rfl

theorem answered_fset (s : State) (h : Hdr) (st r : Nat) (ap : Option Nat) (lo : Nat) (f : Fd) (v : Nat) :
    (answered s h st r ap lo).fset f v = answered (s.fset f v) h st r ap lo := rfl

theorem answered_fget (s : State) (h : Hdr) (st r : Nat) (ap : Option Nat) (lo : Nat) (f : Fd) :
    (answered s h st r ap lo).fget f = s.fget f := rfl

theorem answered_count (s : State) (h : Hdr) (st r : Nat) (ap : Option Nat) (lo : Nat) (f : Fd) (d : Nat) :
    (answered s h st r ap lo).count f d = answered (s.count f d) h st r ap lo := rfl

theorem noHeld_answered (s : State) (h : Hdr) (st r : Nat) (ap : Option Nat) (lo : Nat) :
    noHeld (answered s h st r ap lo) = answered (noHeld s) h st r ap lo := by
  rw [noHeld_eq, noHeld_eq, answered_fset]

/-- Fields that PEND_CMDS is not part of. -/
theorem fget_noHeld (s : State) (f : Fd) (h : f.off ≠ SCH_STATUS_PEND_CMDS.off ∨
    (f.lo + f.w ≤ 32 ∧ (f.lo + f.w ≤ SCH_STATUS_PEND_CMDS.lo ∨ SCH_STATUS_PEND_CMDS.lo + SCH_STATUS_PEND_CMDS.w ≤ f.lo))) :
    (noHeld s).fget f = s.fget f := by
  rw [noHeld_eq, State.fget_fset_other s _ f 0 h]

theorem State.setSch_fget (s : State) (x : Sch) (f : Fd) : ({ s with sch := x } : State).fget f = s.fget f := rfl
theorem State.setSch_pwr (s : State) (x : Sch) : ({ s with sch := x } : State).pwr = s.pwr := rfl
theorem State.setSch_tmb (s : State) (x : Sch) : ({ s with sch := x } : State).tmb = s.tmb := rfl
theorem State.setSch_sch (s : State) (x : Sch) : ({ s with sch := x } : State).sch = x := rfl
theorem State.setSch_hif (s : State) (x : Sch) : ({ s with sch := x } : State).hif = s.hif := rfl
theorem State.setSch_get64 (s : State) (x : Sch) (a : Nat) : ({ s with sch := x } : State).get64 a = s.get64 a := rfl

theorem setHeld_fget (s : State) (l : List Held) (f : Fd) (h : f.off ≠ SCH_STATUS_PEND_CMDS.off ∨
    (f.lo + f.w ≤ 32 ∧ (f.lo + f.w ≤ SCH_STATUS_PEND_CMDS.lo ∨ SCH_STATUS_PEND_CMDS.lo + SCH_STATUS_PEND_CMDS.w ≤ f.lo))) :
    (setHeld s l).fget f = s.fget f := by
  unfold setHeld
  rw [State.setSch_fget, State.fget_fset_other s _ f _ h]

theorem setHeld_get64 (s : State) (l : List Held) (a : Nat) (h : SCH_STATUS_PEND_CMDS.off ≠ a ∧ SCH_STATUS_PEND_CMDS.off ≠ a + 4) :
    (setHeld s l).get64 a = s.get64 a := by
  unfold setHeld
  rw [State.setSch_get64, State.get64_fset_other _ _ _ _ h]

theorem setHeld_pwr (s : State) (l : List Held) : (setHeld s l).pwr = s.pwr := by
  unfold setHeld
  rw [State.setSch_pwr, State.fset_pwr]
theorem setHeld_hif (s : State) (l : List Held) : (setHeld s l).hif = s.hif := by
  unfold setHeld
  rw [State.setSch_hif, State.fset_hif]

theorem setHeld_n (s : State) (l : List Held) : (setHeld s l).n = s.n := by
  unfold State.n
  exact setHeld_get64 _ _ _ (by decide)
theorem setHeld_tlen (s : State) (l : List Held) : (setHeld s l).tlen = s.tlen := by
  unfold State.tlen
  rw [setHeld_fget _ _ _ (by decide)]

theorem atTickStart_iff (s : State) : atTickStart s = true ↔
    s.running = true ∧ powerState s = 0 ∧ s.tmb.c = s.sch.ck ∧ s.sch.ended = false ∧ s.sch.outDone = false := by
  unfold atTickStart
  simp only [Bool.and_eq_true, beq_iff_eq, Bool.not_eq_true']
  tauto

theorem setHeld_start (s : State) (l : List Held) : (setHeld s l).tmb = s.tmb ∧ (setHeld s l).sch.ck = s.sch.ck ∧
    (setHeld s l).sch.ended = s.sch.ended ∧ (setHeld s l).sch.outDone = s.sch.outDone := by
  unfold setHeld
  rw [State.setSch_tmb, State.setSch_sch, State.fset_tmb]
  exact ⟨rfl, rfl, rfl, rfl⟩

theorem serving_setHeld {s : State} (hs : Serving s) (l : List Held) :
    atTickStart (setHeld s l) = true ∧ (setHeld s l).pwr.hifRst = false ∧ (setHeld s l).on HIF_CTRL_EN = true := by
  obtain ⟨a, b, e, -, c, d⟩ := hs
  obtain ⟨h1, h2, h3, h4⟩ := setHeld_start s l
  rw [atTickStart_iff, h1, h2, h3, h4]
  unfold State.running State.on powerState at *
  refine ⟨⟨?_, ?_, e⟩, ?_, ?_⟩
  · rwa [setHeld_fget _ _ _ (by decide)]
  · rwa [setHeld_fget _ _ _ (by decide)]
  · rwa [setHeld_pwr]
  · rwa [setHeld_fget _ _ _ (by decide)]

theorem serving_noHeld {s : State} (hs : Serving s) : Serving (noHeld s) := by
  have h := serving_setHeld hs []
  rw [setHeld_nil hs.noneHeld] at h
  obtain ⟨h1, h2, h3⟩ := (atTickStart_iff _).1 h.1
  exact ⟨h1, h2, h3, by rw [noHeld_sch]; exact hs.noneHeld, h.2⟩

theorem joinNow_none {s : State} (h : s.sch.held = []) (o : HostOp) : joinNow s o = s := by
  unfold joinNow
  split
  · rw [h]; rfl
  · rfl

/-- Only a SWAP_PROGRAM begins to join regions when it is scheduled. -/
theorem joinNow_other (s : State) {o : HostOp} (h : ∀ a m, o ≠ .swapProgram a m) : joinNow s o = s := by
  unfold joinNow
  split
  · exact absurd rfl (h _ _)
  · rfl

/-- What a command is when it is scheduled. -/
def asHeld (h : Hdr) (o : HostOp) : Held := { hdr := h, op := o, nx := h.execAt.toNat }

/-- From intake to scheduling: a command of a table that is not applied when taken in. -/
theorem hostCommand_scheduled {s : State} (hs : Serving s) {h : Hdr} {o : HostOp} (hc : commandOk h o = true)
    (ht : cmdClass o ≠ .takenIn) (hv : s.nValid = true ∨ h.execAt = asap) :
    hostCommand s h o = .next (joinNow (dueTick (dueEarly (scheduleOne (noHeld s) (asHeld h o)))) o) := by
  have h1 : takeIn s h o = setHeld s [asHeld h o] := by
    unfold takeIn
    rw [if_neg (by simp [hc]), if_neg ht, if_neg (by grind), hs.noneHeld]
    rfl
  unfold hostCommand
  rw [if_neg (by rw [hs.noneHeld]; simp), done_true]
  dsimp only
  rw [h1, if_pos (serving_setHeld hs _).1]
  refine congrArg (fun t => Host.Outcome.next (joinNow (dueTick (dueEarly t)) o)) ?_
  unfold schedule
  rw [setHeld_held]
  simp only [asHeld, List.filter_cons, Bool.not_false, if_true, List.filter_nil, Bool.false_eq_true, if_false]
  rw [setHeld_setHeld, setHeld_nil hs.noneHeld, State.each_cons, State.each_nil]

/-- A command that ends before it is scheduled, or in its scheduling: nothing is held, and nothing else takes effect. -/
theorem hostCommand_ended {s : State} (hs : Serving s) {h : Hdr} {o : HostOp} (hc : commandOk h o = true)
    (ht : cmdClass o ≠ .takenIn) (hv : s.nValid = true ∨ h.execAt = asap) {t : State}
    (e : scheduleOne (noHeld s) (asHeld h o) = t) (k : t.sch.held = []) : hostCommand s h o = .next t := by
  rw [hostCommand_scheduled hs hc ht hv, e, dues_none k, joinNow_none k]

/-- A command that is taken in and ends there. -/
theorem hostCommand_taken {s : State} (hs : Serving s) {h : Hdr} {o : HostOp} {t : State} (e : takeIn s h o = t)
    (k : t.sch.held = []) (hr : atTickStart t = true) : hostCommand s h o = .next (noHeld t) := by
  unfold hostCommand
  rw [if_neg (by rw [hs.noneHeld]; simp), done_true]
  dsimp only
  rw [e, if_pos hr]
  have : schedule t = noHeld t := by
    unfold schedule
    rw [k, List.filter_nil, List.filter_nil, State.each_nil, setHeld_nil k]
  have k' : (noHeld t).sch.held = [] := by rw [noHeld_sch]; exact k
  rw [this, dues_none k', joinNow_none k']

/-- A command that is no command of a table is UNKNOWN. -/
theorem hostCommand_unknown {s : State} (hs : Serving s) {h : Hdr} {o : HostOp} (hc : commandOk h o = false) :
    hostCommand s h o = .next (answered (noHeld s) h 8 0 none) := by
  have e : takeIn s h o = answered s h 8 0 none := by
    unfold takeIn
    rw [if_pos (by simp [hc]), complete_eq _ _ _ _ _ _ hs.enabled]
    rfl
  rw [hostCommand_taken hs e hs.noneHeld ((atTickStart_iff _).2 ⟨hs.running, hs.awake, hs.atStart⟩), noHeld_answered]

/-- At the instant of a tick start n stands at the tick's first sample. -/
theorem nNow_atStart {s : State} (h : s.tmb.c = s.sch.ck) : s.nNow = s.n := by
  unfold State.nNow
  split
  · rfl
  · simp [h]

/-- A command applied when taken in. -/
theorem hostCommand_applied {s : State} (hs : Serving s) {h : Hdr} {o : HostOp} (hc : commandOk h o = true)
    (ht : cmdClass o = .takenIn) {t : State} {r : Result} (e : applyNow s o = (t, r)) (k : t.sch.held = [])
    (hr : atTickStart t = true) (he : t.pwr.hifRst = false ∧ t.on HIF_CTRL_EN = true) :
    hostCommand s h o = .next (answered (noHeld t) h r.status r.reason (if r.applied = true then some t.n else none)) := by
  have e : takeIn s h o = answered t h r.status r.reason (if r.applied = true then some t.n else none) := by
    unfold takeIn
    rw [if_neg (by simp [hc]), if_pos ht]
    dsimp only
    rw [e]
    unfold finishCmd
    rw [if_neg (by simp), complete_eq _ _ _ _ _ _ he, nNow_atStart ((atTickStart_iff t).1 hr).2.2.1]
  rw [hostCommand_taken hs e k ?_, noHeld_answered]
  exact hr

/-- n_x of a command scheduled as soon as possible. -/
def asapNx (u : State) (o : HostOp) : Nat :=
  match o with
  | .setTick code => seamOf u code.toNat u.n
  | o => scheduleLimit u o

/-- Scheduling as soon as possible. -/
theorem scheduleOne_asap (u : State) {h : Hdr} (o : HostOp) (hx : h.execAt = asap) :
    scheduleOne u (asHeld h o) =
      (let r := schedCheck u o (scheduleLimit u o)
       if r.2.ok = false then finishCmd r.1 h false r.2 0
       else setHeld r.1 (r.1.sch.held ++ [{ hdr := h, op := o, nx := asapNx u o, sched := true, words := heldWords r.1 o }])) := by
  unfold scheduleOne asHeld
  simp only [hx, bne_self_eq_false, Bool.false_and, ne_eq, not_true_eq_false, false_and, if_false, true_or, if_true,
    Bool.false_eq_true, Bool.not_eq_true]
  cases o <;> rfl

/-- A command refused by its target when it is scheduled. -/
theorem hostCommand_refused {s : State} (hs : Serving s) {h : Hdr} {o : HostOp} (hc : commandOk h o = true)
    (ht : cmdClass o ≠ .takenIn) (hx : h.execAt = asap) {t : State} {r : Result}
    (e : schedCheck (noHeld s) o (scheduleLimit (noHeld s) o) = (t, r)) (hr : r.ok = false) (k : t.sch.held = [])
    (he : t.pwr.hifRst = false ∧ t.on HIF_CTRL_EN = true) :
    hostCommand s h o = .next (answered t h r.status r.reason none) := by
  have q : scheduleOne (noHeld s) (asHeld h o) = answered t h r.status r.reason none := by
    rw [scheduleOne_asap _ _ hx, e]
    dsimp only
    rw [if_pos hr]
    unfold finishCmd
    rw [if_neg (by simp), complete_eq _ _ _ _ _ _ he, Result.applied, hr]
    rfl
  exact hostCommand_ended hs hc ht (.inr hx) q k

/-- What the one held command `x` leaves when its turn comes: it is answered where its sample is the tick's first, and held as
planned to its sample otherwise (R29). -/
def tookEffect (r : State) (x : Held) : State :=
  let e := effect (setHeld r []) x
  if tickExact x.op ∨ isMix x.op ∨ x.nx ≤ r.n then
    finishCmd e.1 x.hdr x.late e.2 (if tickExact x.op then r.n else max r.n x.nx)
  else setHeld e.1 (e.1.sch.held ++ [{ x with planned := some e.2 }])

/-- The one held command takes effect. -/
theorem takeEffect_one (r : State) (x : Held) (ho : x.op ≠ .twinSwap) :
    takeEffect (setHeld r [x]) x = tookEffect r x := by
  unfold takeEffect tookEffect
  rw [if_neg (by rw [setHeld_held]; simp)]
  dsimp only
  rw [if_neg ho, setHeld_held, List.erase_cons_head, setHeld_setHeld, setHeld_n]

theorem finishCmd_held (s : State) (h : Hdr) (late : Bool) (r : Result) (n : Nat) :
    (finishCmd s h late r n).sch.held = s.sch.held := by
  have e (st rs : Nat) (ap : Bool) (lo m : Nat) : (complete s h st rs ap lo m).sch = s.sch := by
    unfold complete
    split <;> rfl
  unfold finishCmd
  split
  · rw [State.count_sch, e]
  · rw [e]

theorem orderDue_one (s : State) (x : Held) : orderDue s [x] = [x] := rfl
theorem orderDue_none (s : State) : orderDue s [] = [] := rfl

/-- A command that takes effect before the commits of its tick. -/
theorem dues_early (r : State) (x : Held) (hs : x.sched = true) (he : early x.op = true) (hn : x.nx ≤ r.n)
    (ho : x.op ≠ .twinSwap) (k : (effect (setHeld r []) x).1.sch.held = []) :
    dueTick (dueEarly (setHeld r [x])) = tookEffect r x := by
  have e1 : dueEarly (setHeld r [x]) = tookEffect r x := by
    unfold dueEarly
    rw [setHeld_held, List.filter_cons, setHeld_n, if_pos (by simp [hs, he, hn]), List.filter_nil, orderDue_one, State.each_cons,
      State.each_nil, takeEffect_one _ _ ho]
  have e2 : (tookEffect r x).sch.held = [] := by
    unfold tookEffect
    dsimp only
    rw [if_pos (.inr (.inr hn)), finishCmd_held]
    exact k
  rw [e1]
  unfold dueTick
  rw [e2, List.filter_nil, orderDue_none, State.each_nil]

theorem dueEarly_late (r : State) (x : Held) (he : early x.op = false) : dueEarly (setHeld r [x]) = setHeld r [x] := by
  unfold dueEarly
  rw [setHeld_held, List.filter_cons, if_neg (by simp [he]), List.filter_nil, orderDue_none, State.each_nil]

/-- A command that takes effect after the commits of its tick. -/
theorem dues_late (r : State) (x : Held) (hs : x.sched = true) (he : early x.op = false) (hp : x.planned = none)
    (hn : if tickExact x.op ∨ isMix x.op then x.nx ≤ r.n else x.nx < r.n + r.tlen) (ho : x.op ≠ .twinSwap) :
    dueTick (dueEarly (setHeld r [x])) = tookEffect r x := by
  rw [dueEarly_late _ _ he]
  unfold dueTick
  rw [setHeld_held, List.filter_cons, if_pos, List.filter_nil, orderDue_one, State.each_cons, State.each_nil,
    takeEffect_one _ _ ho]
  · rw [setHeld_n, setHeld_tlen]
    split at hn <;> simp_all

/-- A command whose time has not come stays held. -/
theorem dues_wait (r : State) (x : Held) (hn : r.n + r.tlen ≤ x.nx) (ht : 0 < r.tlen) :
    dueTick (dueEarly (setHeld r [x])) = setHeld r [x] := by
  have e1 : dueEarly (setHeld r [x]) = setHeld r [x] := by
    unfold dueEarly
    rw [setHeld_held, List.filter_cons, setHeld_n, if_neg (by simp; omega), List.filter_nil, orderDue_none, State.each_nil]
  rw [e1]
  unfold dueTick
  rw [setHeld_held, List.filter_cons, if_neg, List.filter_nil, orderDue_none, State.each_nil]
  rw [setHeld_n, setHeld_tlen]
  have h1 : ¬ x.nx ≤ r.n := by omega
  have h2 : ¬ x.nx < r.n + r.tlen := by omega
  split <;> simp [h1, h2]

theorem State.tlen_pos (s : State) : 0 < s.tlen := by
  unfold State.tlen
  positivity

/-- A command that its target accepts, executed as soon as possible. -/
theorem hostCommand_accepted {s : State} (hs : Serving s) {h : Hdr} {o : HostOp} (hc : commandOk h o = true)
    (ht : cmdClass o ≠ .takenIn) (hx : h.execAt = asap) {t : State}
    (e : schedCheck (noHeld s) o (scheduleLimit (noHeld s) o) = (t, stOk)) (k : t.sch.held = []) :
    hostCommand s h o = .next (joinNow (dueTick (dueEarly (setHeld t
      [{ hdr := h, op := o, nx := asapNx (noHeld s) o, sched := true, words := heldWords t o }]))) o) := by
  rw [hostCommand_scheduled hs hc ht (.inr hx), scheduleOne_asap _ _ hx, e]
  dsimp only
  rw [if_neg (by decide), k]
  rfl

end Sys2Proof.Machine
end

