-- ==== Sys2Proof/Laws/Issue.lean ====
section
/-! SUPPORT. Laws/Issue.lean: what the issue of a bundle does at a core that stands `Ready`. -/

namespace Sys2Proof.Machine

theorem Core.loopBack_idle {c : Core} (h : c.loopDue = false) : c.loopBack = c := by
  simp [Core.loopBack, h]

theorem Core.age_none {c : Core} (h : c.flights = []) (g : Flight → Flight) : { c with flights := c.flights.map g } = c := by
  cases c; simp_all

theorem fetch_plain {s : State} {cl j : Nat} {c : Core} (h : c.loops = []) :
    ∃ b, fetch s cl j c = (c, b, true) := by
  simp [fetch, h]

/-- No result is old enough to enter the register file. -/
theorem Core.fold_young {c : Core} (h : ∀ f ∈ c.flights, f.age < 4) : c.fold 4 = c := by
  have h1 : (c.flights.filter fun f => decide (4 ≤ f.age)) = [] := by
    simp only [List.filter_eq_nil_iff, decide_eq_true_eq, not_le]
    exact h
  have h2 : (c.flights.filter fun f => !decide (4 ≤ f.age)) = c.flights := by
    simp only [List.filter_eq_self, Bool.not_eq_true', decide_eq_false_iff_not, not_le]
    exact h
  unfold Core.fold
  simp only [h1, h2, List.filter_nil, List.foldl_nil, List.foldl_fixed, List.any_nil, Bool.not_false, List.filter_true]

theorem landStores_none {s : State} {cl j : Nat} (h : (s.core cl j).flights = []) :
    landStores s cl j = s.setCore cl j (s.core cl j) := by
  unfold landStores
  simp only [h, List.filter_nil, State.each_nil]
  congr 1
  generalize s.core cl j = c at h
  cases c
  simp_all

@[simp] theorem doStores_nil (s : State) : doStores s [] = s := rfl


@[simp] theorem markWord_cores (s : State) (w : Nat) (b : Bool) : (markWord s w b).cores = s.cores := by
  unfold markWord
  dsimp only
  split_ifs <;> rfl

@[simp] theorem storeBytes_cores (s : State) (a : Nat) (l : List Byte) : (storeBytes s a l).cores = s.cores :=
  State.each_induct (fun t => t.cores = s.cores) _ _ (fun t w h => by simpa using h) _ rfl

@[simp] theorem doStores_cores (s : State) (l : List (Nat × W32)) : (doStores s l).cores = s.cores := by
  unfold doStores
  split
  · rfl
  · split
    · simp
    · exact State.each_induct (fun t => t.cores = s.cores) _ _ (fun t w h => by simpa [store32] using h) _ rfl

theorem setCore_fset (s : State) (cl j : Nat) (x : Core) (f : Fd) (v : Nat) :
    (s.setCore cl j x).fset f v = (s.fset f v).setCore cl j x := rfl

theorem markWord_setCore (s : State) (cl j : Nat) (x : Core) (w : Nat) (b : Bool) :
    markWord (s.setCore cl j x) w b = (markWord s w b).setCore cl j x := by
  unfold markWord
  cases b
  · rfl
  · simp only [not_true_eq_false, if_false]
    have h1 : ∀ f : Fd, ({ s.setCore cl j x with mtx := { (s.setCore cl j x).mtx with
        ue := (s.setCore cl j x).mtx.ue.filter (· ≠ w), ce := (s.setCore cl j x).mtx.ce.filter (· ≠ w) } } : State).on f =
        ({ s with mtx := { s.mtx with ue := s.mtx.ue.filter (· ≠ w), ce := s.mtx.ce.filter (· ≠ w) } } : State).on f :=
      fun _ => rfl
    have h2 : ∀ f : Fd, ({ s.setCore cl j x with mtx := { (s.setCore cl j x).mtx with
        ue := (s.setCore cl j x).mtx.ue.filter (· ≠ w), ce := (s.setCore cl j x).mtx.ce.filter (· ≠ w) } } : State).fget f =
        ({ s with mtx := { s.mtx with ue := s.mtx.ue.filter (· ≠ w), ce := s.mtx.ce.filter (· ≠ w) } } : State).fget f :=
      fun _ => rfl
    rw [h1, h1, h2]
    split
    · split <;> rfl
    · rfl

theorem each_setCore {α : Type} (l : List α) (f : State → α → State) (cl j : Nat) (x : Core)
    (hf : ∀ s a, f (s.setCore cl j x) a = (f s a).setCore cl j x) (s : State) :
    (s.setCore cl j x).each l f = (s.each l f).setCore cl j x := by
  induction l generalizing s with
  | nil => rfl
  | cons e l ih => rw [State.each_cons, hf, ih, State.each_cons]

theorem storeBytes_setCore (s : State) (cl j : Nat) (x : Core) (a : Nat) (l : List Byte) :
    storeBytes (s.setCore cl j x) a l = (storeBytes s a l).setCore cl j x := by
  unfold storeBytes
  exact each_setCore _ _ cl j x (fun t w => markWord_setCore t cl j x w _) { s with mem := Memory.wrN s.mem a l }

theorem doStores_setCore (s : State) (cl j : Nat) (x : Core) (l : List (Nat × W32)) :
    doStores (s.setCore cl j x) l = (doStores s l).setCore cl j x := by
  unfold doStores
  split
  · rfl
  · split
    · exact storeBytes_setCore ..
    · exact each_setCore _ _ cl j x (fun t w => storeBytes_setCore t cl j x _ _) s

theorem doStores_core (s : State) (l : List (Nat × W32)) (cl j : Nat) : (doStores s l).core cl j = s.core cl j := by
  simp [State.core]

/-- An operation of a memory slot depends on the cores only by the old words that its own core holds. -/
theorem mSlot_setCore (s : State) (cl j : Nat) (x c : Core) (w : Place) (bus : Bus) (p : Pred) (o : MOp)
    (h : (s.setCore cl j x).core w.cl w.j = s.core w.cl w.j) :
    mSlot (s.setCore cl j x) c w bus p o = mSlot s c w bus p o := by
  have h1 : busRead (s.setCore cl j x) w bus = busRead s w bus := by
    funext a
    unfold busRead
    rw [h]
    rfl
  have h2 : access (s.setCore cl j x) w bus = access s w bus := rfl
  unfold mSlot
  rw [h1, h2]

theorem yieldStores_none (e : Eff) : yieldStores e {} = e := by
  have h : (yieldStores e {}).flights = e.flights :=
    List.filter_eq_self.2 fun f _ => by dsimp only; split <;> rfl
  cases e
  simp only [yieldStores] at h
  simp only [yieldStores, h]

theorem empty_yields (y : Eff) : yieldStores {} y = {} := rfl

theorem fetchExcs_none {s : State} {w : Place} {c : Core} {b : Bool} (h : s.mtx.ue = []) (hl : c.loops = []) :
    fetchExcs s w c b = [] := by
  simp [fetchExcs, State.hasUE, h, hl]

theorem hasUE_none {s : State} (h : s.mtx.ue = []) (a n : Nat) : s.hasUE a n = false := by
  simp [State.hasUE, h]

/-- Where a `Ready` core stands. -/
def readyPlace (s : State) (a : At) : Place :=
  ⟨a.cl, a.core, (s.core a.cl a.core).pc.toNat, false, s.on (HRT_CORE_CTRL_BRK_HALT a.cl a.core)⟩

def cPart (s : State) (a : At) (d : Dec) : Eff :=
  (d.c.map fun e => cSlot (s.core a.cl a.core) (readyPlace s a) e.1 e.2).getD {}
def yPart (s : State) (a : At) (d : Dec) : Eff :=
  (d.y.map fun e => mSlot s (s.core a.cl a.core) (readyPlace s a) .y e.1 e.2).getD {}
def xPart (s : State) (a : At) (d : Dec) : Eff :=
  yieldStores ((d.x.map fun e => mSlot s (s.core a.cl a.core) (readyPlace s a) .x e.1 e.2).getD {}) (yPart s a d)
def vPart (s : State) (a : At) (d : Dec) : Eff :=
  (d.v.map fun e => vSlot (s.core a.cl a.core) e.1 e.2).getD {}
/-- The four slots together. -/
def allParts (s : State) (a : At) (d : Dec) : Eff := (((cPart s a d).merge (xPart s a d)).merge (yPart s a d)).merge (vPart s a d)

/-- The sticky-bit results of a slot on their way. -/
def lateBit (cls : PClass) (b : Bool) (d : Dst) : List Flight := if b then [⟨0, cls, d, 0⟩] else []

/-- The core once the results of a bundle without control effect stand in it. -/
def wroteParts (s : State) (a : At) (d : Dec) : Core :=
  let e := allParts s a d
  let ev := vPart s a d
  let c := e.regs.foldl (fun c r => c.writeNow r.1 r.2) (s.core a.cl a.core)
  let vcls : PClass := if ev.flights.any (fun f => f.cls == .valu) then .valu else .ext
  let c := { c with
    flights := c.flights ++ e.flights ++ lateBit vcls ev.sat .sat ++ lateBit .mac ev.aov .aov ++
      lateBit .ext ((xPart s a d).sat || (yPart s a d).sat) .sat }
  if (cPart s a d).sat then { c with st := c.st ||| 0x10#32 } else c

theorem issue_legal {s : State} {a : At} (h : Ready s a) (d : Dec) (hl : illegalSlots d = 0)
    (he : (allParts s a d).excs = []) (hy : ∀ f ∈ (wroteParts s a d).flights, f.age < 4) :
    issue s a d =
      let e := allParts s a d
      let pc := (s.core a.cl a.core).pc.toNat
      let t := (doStores (doStores (s.setCore a.cl a.core (s.core a.cl a.core)) (xPart s a d).stores) (yPart s a d).stores).setCore
        a.cl a.core (wroteParts s a d)
      let t := t.when e.sat (·.fset (HRT_CORE_STATUS_SAT_SEEN a.cl a.core) 1)
      let t := t.when e.aov (·.fset (HRT_CORE_STATUS_AOV_SEEN a.cl a.core) 1)
      finishIssue (afterIssue t a.cl a.core pc e) a.cl a.core pc false e := by
  obtain ⟨b, hb⟩ := fetch_plain (s := s) (cl := a.cl) (j := a.core) (c := s.core a.cl a.core) h.noLoop.1
  have hst : ¬ (s.coreState a.cl a.core ≠ 2 ∨ s.fget CLK_PWR_STATUS_STATE = 1) := by
    simpa [State.coreState, h.running] using h.clocked
  unfold issue
  rw [if_neg hst]
  simp only [Core.loopBack_idle h.noLoop.2, hb]
  unfold issueBundle
  simp only [State.core_setCore_same, Core.loopBack_idle h.noLoop.2]
  rw [Core.age_none h.settled]
  simp only [State.setCore_setCore]
  have hm : ∀ (bus : Bus) (p : Pred) (o : MOp),
      mSlot (s.setCore a.cl a.core (s.core a.cl a.core)) (s.core a.cl a.core) (readyPlace s a) bus p o =
        mSlot s (s.core a.cl a.core) (readyPlace s a) bus p o := fun bus p o =>
    mSlot_setCore s a.cl a.core _ _ (readyPlace s a) bus p o (State.core_setCore_same ..)
  have hw : (⟨a.cl, a.core, (s.core a.cl a.core).pc.toNat, decide ((s.core a.cl a.core).turns ≠ []),
      (s.setCore a.cl a.core (s.core a.cl a.core)).on (HRT_CORE_CTRL_BRK_HALT a.cl a.core)⟩ : Place) = readyPlace s a := by
    rw [h.noTurn]; rfl
  rw [hw]
  simp only [hm, hl, ne_eq, not_true_eq_false, if_false]
  rw [show (Option.map (fun e => cSlot (s.core a.cl a.core) (readyPlace s a) e.1 e.2) d.c).getD {} = cPart s a d from rfl,
    show (Option.map (fun e => mSlot s (s.core a.cl a.core) (readyPlace s a) Bus.y e.1 e.2) d.y).getD {} = yPart s a d from rfl,
    show yieldStores ((Option.map (fun e => mSlot s (s.core a.cl a.core) (readyPlace s a) Bus.x e.1 e.2) d.x).getD {})
      (yPart s a d) = xPart s a d from rfl,
    show (Option.map (fun e => vSlot (s.core a.cl a.core) e.1 e.2) d.v).getD {} = vPart s a d from rfl,
    show (((cPart s a d).merge (xPart s a d)).merge (yPart s a d)).merge (vPart s a d) = allParts s a d from rfl]
  rw [fetchExcs_none (s := s.setCore a.cl a.core _) h.sound.1 h.noLoop.1, List.nil_append]
  rw [he, if_neg (by simp)]
  have hce : (s.setCore a.cl a.core (s.core a.cl a.core)).each (allParts s a d).loads (fun s l =>
      s.each ((words64 l.1 l.2).filter fun x => s.mtx.ce.contains x) fun s x => noteCE s x a.cl 1) =
      s.setCore a.cl a.core (s.core a.cl a.core) := by
    refine State.each_induct (fun t => t = s.setCore a.cl a.core (s.core a.cl a.core)) _ _ (fun t l ht => ?_) _ rfl
    subst ht
    simp [h.sound.2]
  rw [hce, landStores_none (by simpa using h.settled)]
  simp only [State.setCore_setCore, State.core_setCore_same, doStores_core]
  change finishIssue (afterIssue ((((doStores (doStores (s.setCore a.cl a.core (s.core a.cl a.core)) (xPart s a d).stores)
    (yPart s a d).stores).setCore a.cl a.core ((wroteParts s a d).fold 4)).when _ _).when _ _) _ _ _ _) _ _ _ _ _ = _
  rw [Core.fold_young hy]
  simp only [h.noTurn, not_true_eq_false, decide_false]

theorem Core.setBase_control (c : Core) (code : Nat) (v : W32) :
    (c.setBase code v).loops = c.loops ∧ (c.setBase code v).turns = c.turns ∧ (c.setBase code v).loopDue = c.loopDue ∧
      (c.setBase code v).flights = c.flights ∧ (c.setBase code v).pc = c.pc := by
  unfold Core.setBase
  iterate 12
    refine iteInduction (motive := fun d : Core => d.loops = c.loops ∧ d.turns = c.turns ∧ d.loopDue = c.loopDue ∧
      d.flights = c.flights ∧ d.pc = c.pc) (fun _ => ⟨rfl, rfl, rfl, rfl, rfl⟩) fun _ => ?_
  exact ⟨rfl, rfl, rfl, rfl, rfl⟩

theorem Core.writeNow_settled {c : Core} (h : c.flights = []) (code : Nat) (v : W32) :
    c.writeNow code v = if code = 0x36 then c.setBase code (stWrite c.st v) else c.setBase code v := by
  unfold Core.writeNow
  simp only [h, List.filter_nil]
  have : ({ c with flights := [] } : Core) = c := by cases c; simp_all
  rw [this]

theorem Core.writesNow_control {c : Core} (h : c.flights = []) (l : List (Nat × W32)) :
    (l.foldl (fun c r => c.writeNow r.1 r.2) c).loops = c.loops ∧ (l.foldl (fun c r => c.writeNow r.1 r.2) c).turns = c.turns ∧
      (l.foldl (fun c r => c.writeNow r.1 r.2) c).loopDue = c.loopDue ∧
      (l.foldl (fun c r => c.writeNow r.1 r.2) c).flights = [] ∧
      (l.foldl (fun c r => c.writeNow r.1 r.2) c).pc = c.pc := by
  induction l generalizing c with
  | nil => exact ⟨rfl, rfl, rfl, h, rfl⟩
  | cons e l ih =>
    have hs : ∀ v, (c.setBase e.1 v).flights = [] := fun v => (Core.setBase_control c e.1 v).2.2.2.1.trans h
    simp only [List.foldl_cons, Core.writeNow_settled h]
    split_ifs
    · obtain ⟨a1, a2, a3, a4, a5⟩ := ih (hs (stWrite c.st e.2))
      obtain ⟨b1, b2, b3, _, b5⟩ := Core.setBase_control c e.1 (stWrite c.st e.2)
      exact ⟨a1.trans b1, a2.trans b2, a3.trans b3, a4, a5.trans b5⟩
    · obtain ⟨a1, a2, a3, a4, a5⟩ := ih (hs e.2)
      obtain ⟨b1, b2, b3, _, b5⟩ := Core.setBase_control c e.1 e.2
      exact ⟨a1.trans b1, a2.trans b2, a3.trans b3, a4, a5.trans b5⟩

/-- The end of a bundle without control effect at a core without repeat level and delay slot. -/
theorem finishIssue_plain {t : State} {cl j a : Nat} {e : Eff} {delay : Bool} (hc : e.ctl = .none)
    (hl : (t.core cl j).loops = []) (ht : (t.core cl j).turns = []) (ha : a = (t.core cl j).pc.toNat)
    (hd : (t.core cl j).loopDue = false) :
    finishIssue (afterIssue t cl j a e) cl j a delay e = t.setCore cl j (passed (t.core cl j)) := by
  have h1 : afterIssue t cl j a e = t.setCore cl j (passed (t.core cl j)) := by
    unfold afterIssue
    simp only [hc, hl, ht, List.map_nil, List.getLast?_nil]
    congr 1
    subst ha
    generalize t.core cl j = c at *
    cases c
    simp_all [passed, BitVec.ofNat_add]
  rw [h1]
  unfold finishIssue
  simp only [hc, State.core_setCore_same, passed, ht, List.filter_nil, State.setCore_setCore, takeTurn, State.each_nil]

/-- The marks of a saturation and of an accumulator overflow in HRT_CORE_STATUS. -/
def seen (s : State) (a : At) (e : Eff) : State :=
  (s.when e.sat (·.fset (HRT_CORE_STATUS_SAT_SEEN a.cl a.core) 1)).when e.aov
    (·.fset (HRT_CORE_STATUS_AOV_SEEN a.cl a.core) 1)

theorem seen_setCore (s : State) (a : At) (e : Eff) (cl j : Nat) (x : Core) :
    seen (s.setCore cl j x) a e = (seen s a e).setCore cl j x := by
  unfold seen
  cases e.sat <;> cases e.aov <;> rfl

theorem when_fset_core (s : State) (b : Bool) (f : Fd) (v cl j : Nat) :
    (s.when b (·.fset f v)).core cl j = s.core cl j := by cases b <;> rfl

/-- A legal bundle without exception and control effect. -/
theorem issue_plain {s : State} {a : At} (h : Ready s a) (d : Dec) (hl : illegalSlots d = 0)
    (he : (allParts s a d).excs = []) (hc : (allParts s a d).ctl = .none)
    (hy : ∀ f ∈ (wroteParts s a d).flights, f.age < 4) :
    issue s a d = (seen ((doStores (doStores (s.setCore a.cl a.core (s.core a.cl a.core)) (xPart s a d).stores)
      (yPart s a d).stores).setCore a.cl a.core (wroteParts s a d)) a (allParts s a d)).setCore a.cl a.core
        (passed (wroteParts s a d)) := by
  rw [issue_legal h d hl he hy]
  dsimp only
  have h0 := Core.writesNow_control h.settled (allParts s a d).regs
  have h1 : (wroteParts s a d).loops = [] ∧ (wroteParts s a d).turns = [] ∧ (wroteParts s a d).loopDue = false := by
    unfold wroteParts
    dsimp only
    split <;> exact ⟨h0.1.trans h.noLoop.1, h0.2.1.trans h.noTurn, h0.2.2.1.trans h.noLoop.2⟩
  have h2 : ∀ t : State, (seen (t.setCore a.cl a.core (wroteParts s a d)) a (allParts s a d)).core a.cl a.core =
      wroteParts s a d := fun t => by
    unfold seen
    rw [when_fset_core, when_fset_core, State.core_setCore_same]
  change finishIssue (afterIssue (seen _ _ _) _ _ _ _) _ _ _ _ _ = _
  rw [finishIssue_plain hc (by rw [h2]; exact h1.1) (by rw [h2]; exact h1.2.1) ?_ (by rw [h2]; exact h1.2.2), h2]
  rw [h2]
  have h3 : (wroteParts s a d).pc = (s.core a.cl a.core).pc := by
    unfold wroteParts
    dsimp only
    split <;> exact h0.2.2.2.2
  rw [h3]

/-! ## One operation alone in its bundle -/

theorem decodeBundle_nop : decodeBundle ⟨0, 0, 0, 0⟩ =
    ⟨some ({}, .nop), some ({}, .nop), some ({}, .nop), some ({}, .nop)⟩ := by decide

theorem withC_alone {a : At} (h : a.others = ⟨0, 0, 0, 0⟩) (p : Pred) (o : COp) :
    withC a p o = ⟨some (p, o), some ({}, .nop), some ({}, .nop), some ({}, .nop)⟩ := by
  unfold withC
  rw [h, decodeBundle_nop]

theorem withV_alone {a : At} (h : a.others = ⟨0, 0, 0, 0⟩) (p : Pred) (o : VOp) :
    withV a p o = ⟨some ({}, .nop), some ({}, .nop), some ({}, .nop), some (p, o)⟩ := by
  unfold withV
  rw [h, decodeBundle_nop]

theorem Eff.merge_empty (e : Eff) : e.merge {} = e := by
  cases e with
  | mk regs flights stores sat aov ctl excs loads =>
    simp only [Eff.merge, List.append_nil, Bool.or_false]
    cases ctl <;> rfl

theorem Eff.empty_merge (e : Eff) : ({} : Eff).merge e = e := by
  simp [Eff.merge]

theorem cSlot_nop (c : Core) (w : Place) : cSlot c w {} .nop = {} := by
  unfold cSlot
  exact ite_self _

theorem legal_nop : legalC .nop = true ∧ legalM .nop = true ∧ legalV .nop = true := ⟨rfl, rfl, rfl⟩

theorem predOk_none : predOk ⟨false, false, 0#2⟩ = true := rfl

theorem legal_C {p : Pred} {o : COp} (hp : predOk p = true) (hl : legalC o = true) :
    illegalSlots ⟨some (p, o), some ({}, .nop), some ({}, .nop), some ({}, .nop)⟩ = 0 := by
  simp [illegalSlots, hp, hl, legal_nop, writesM, writesV, predOk_none]

theorem legal_V {p : Pred} {o : VOp} (hp : predOk p = true) (hl : legalV o = true) :
    illegalSlots ⟨some ({}, .nop), some ({}, .nop), some ({}, .nop), some (p, o)⟩ = 0 := by
  simp [illegalSlots, hp, hl, legal_nop, writesM, writesC, predOk_none]

/-- A legal C-slot operation without exception and control effect. -/
theorem issue_C {s : State} {a : At} (h : Ready s a) {p : Pred} {o : COp} (hp : predOk p = true)
    (hl : legalC o = true) {e : Eff} (hs : cSlot (s.core a.cl a.core) (readyPlace s a) p o = e)
    (he : e.excs = []) (hc : e.ctl = .none) (hy : ∀ f ∈ e.flights, f.age < 4) (ha : e.aov = false) :
    issue s a (withC a p o) =
      let c := e.regs.foldl (fun c r => c.writeNow r.1 r.2) (s.core a.cl a.core)
      (s.when e.sat (·.fset (HRT_CORE_STATUS_SAT_SEEN a.cl a.core) 1)).setCore a.cl a.core
        (passed { c with flights := e.flights, st := if e.sat then c.st ||| 0x10#32 else c.st }) := by
  have hall : allParts s a (withC a p o) = e := by
    rw [withC_alone h.alone]
    simp only [allParts, cPart, xPart, yPart, vPart, Option.map_some, Option.getD_some, hs, mSlot, vSlot, Eff.merge_empty, yieldStores_none]
  have hw : wroteParts s a (withC a p o) =
      let c := e.regs.foldl (fun c r => c.writeNow r.1 r.2) (s.core a.cl a.core)
      { c with flights := e.flights, st := if e.sat then c.st ||| 0x10#32 else c.st } := by
    have h4 := (Core.writesNow_control h.settled e.regs).2.2.2.1
    unfold wroteParts
    rw [hall, withC_alone h.alone]
    simp only [cPart, xPart, yPart, vPart, Option.map_some, Option.getD_some, hs, mSlot, vSlot, lateBit, h4, yieldStores_none]
    cases e.sat <;> simp
  rw [issue_plain h _ (by rw [withC_alone h.alone]; exact legal_C hp hl) (by rw [hall]; exact he) (by rw [hall]; exact hc)
    (by rw [hw]; exact hy), hw, hall]
  simp only [withC_alone h.alone, xPart, yPart, Option.map_some, Option.getD_some, mSlot, doStores_nil, yieldStores_none]
  rw [State.setCore_setCore, seen_setCore, State.setCore_setCore]
  simp only [seen, ha, State.when_false]

theorem withM_alone {a : At} (h : a.others = ⟨0, 0, 0, 0⟩) (bus : Bus) (p : Pred) (o : MOp) :
    withM a bus p o = match bus with
      | .x => ⟨some ({}, .nop), some (p, o), some ({}, .nop), some ({}, .nop)⟩
      | .y => ⟨some ({}, .nop), some ({}, .nop), some (p, o), some ({}, .nop)⟩ := by
  unfold withM
  simp only [h, decodeBundle_nop]
  all_goals (cases bus <;> rfl)

theorem legal_M {p : Pred} {o : MOp} (bus : Bus) (hp : predOk p = true) (hl : legalM o = true) :
    illegalSlots (match bus with
      | .x => ⟨some ({}, .nop), some (p, o), some ({}, .nop), some ({}, .nop)⟩
      | .y => ⟨some ({}, .nop), some ({}, .nop), some (p, o), some ({}, .nop)⟩) = 0 := by
  cases bus <;> simp [illegalSlots, hp, hl, legal_nop, writesM, writesC, writesV, predOk_none]

/-- A legal X-slot or Y-slot operation without exception. -/
theorem issue_M {s : State} {a : At} (h : Ready s a) {bus : Bus} {p : Pred} {o : MOp} (hp : predOk p = true)
    (hl : legalM o = true) {e : Eff} (hs : mSlot s (s.core a.cl a.core) (readyPlace s a) bus p o = e)
    (he : e.excs = []) (hc : e.ctl = .none) (hy : ∀ f ∈ e.flights, f.age < 4) (ha : e.aov = false) :
    issue s a (withM a bus p o) =
      let c := e.regs.foldl (fun c r => c.writeNow r.1 r.2) (s.core a.cl a.core)
      ((doStores s e.stores).when e.sat (·.fset (HRT_CORE_STATUS_SAT_SEEN a.cl a.core) 1)).setCore a.cl a.core
        (passed { c with flights := e.flights ++ lateBit .ext e.sat .sat }) := by
  have hall : allParts s a (withM a bus p o) = e := by
    rw [withM_alone h.alone]
    cases bus <;> simp only [allParts, cPart, xPart, yPart, vPart, Option.map_some, Option.getD_some, hs, vSlot, cSlot_nop,
      Eff.merge_empty, Eff.empty_merge] <;> simp only [mSlot, Eff.merge_empty, Eff.empty_merge, yieldStores_none, empty_yields]
  have h4 := (Core.writesNow_control h.settled e.regs).2.2.2.1
  have hw : wroteParts s a (withM a bus p o) =
      let c := e.regs.foldl (fun c r => c.writeNow r.1 r.2) (s.core a.cl a.core)
      { c with flights := e.flights ++ lateBit .ext e.sat .sat } := by
    unfold wroteParts
    rw [hall, withM_alone h.alone]
    cases bus <;> simp only [cPart, xPart, yPart, vPart, Option.map_some, Option.getD_some, hs, vSlot, cSlot_nop, h4] <;>
      simp [mSlot, lateBit, yieldStores_none, empty_yields]
  have hst : ∀ t : State, doStores (doStores t (xPart s a (withM a bus p o)).stores) (yPart s a (withM a bus p o)).stores =
      doStores t e.stores := fun t => by
    rw [withM_alone h.alone]
    cases bus <;> simp only [xPart, yPart, Option.map_some, Option.getD_some, hs] <;> simp [mSlot, yieldStores_none, empty_yields]
  rw [issue_plain h _ (by rw [withM_alone h.alone]; exact legal_M bus hp hl) (by rw [hall]; exact he)
    (by rw [hall]; exact hc) ?_, hw, hall, hst]
  · rw [doStores_setCore, State.setCore_setCore, seen_setCore, State.setCore_setCore]
    simp only [seen, ha, State.when_false]
  · rw [hw]
    intro f hf
    rcases List.mem_append.1 hf with hf | hf
    · exact hy f hf
    · unfold lateBit at hf
      split at hf
      · simp at hf
        simp [hf]
      · simp at hf

/-- A legal V-slot operation. -/
theorem issue_V {s : State} {a : At} (h : Ready s a) {p : Pred} {o : VOp} (hp : predOk p = true)
    (hl : legalV o = true) {e : Eff} (hs : vSlot (s.core a.cl a.core) p o = e) (hr : e.regs = [])
    (he : e.excs = []) (hc : e.ctl = .none) (hy : ∀ f ∈ e.flights, f.age < 4) :
    issue s a (withV a p o) =
      let vcls : PClass := if e.flights.any (fun f => f.cls == .valu) then .valu else .ext
      (seen s a e).setCore a.cl a.core (passed { s.core a.cl a.core with
        flights := e.flights ++ lateBit vcls e.sat .sat ++ lateBit .mac e.aov .aov }) := by
  have hall : allParts s a (withV a p o) = e := by
    rw [withV_alone h.alone]
    simp only [allParts, cPart, xPart, yPart, vPart, Option.map_some, Option.getD_some, hs, mSlot, cSlot_nop,
      yieldStores_none, Eff.merge_empty, Eff.empty_merge]
  have hw : wroteParts s a (withV a p o) = { s.core a.cl a.core with
      flights := e.flights ++ lateBit (if e.flights.any (fun f => f.cls == .valu) then .valu else .ext) e.sat .sat ++
        lateBit .mac e.aov .aov } := by
    unfold wroteParts
    rw [hall, withV_alone h.alone]
    simp only [cPart, xPart, yPart, vPart, Option.map_some, Option.getD_some, hs, mSlot, cSlot_nop, hr, List.foldl_nil,
      h.settled, yieldStores_none]
    simp [lateBit]
  rw [issue_plain h _ (by rw [withV_alone h.alone]; exact legal_V hp hl) (by rw [hall]; exact he)
    (by rw [hall]; exact hc) ?_, hw, hall]
  · simp only [withV_alone h.alone, xPart, yPart, Option.map_some, Option.getD_some, mSlot, doStores_nil, yieldStores_none]
    rw [State.setCore_setCore, seen_setCore, State.setCore_setCore]
  · rw [hw]
    intro f hf
    simp only [List.mem_append, lateBit] at hf
    rcases hf with (hf | hf) | hf
    · exact hy f hf
    all_goals
      split at hf
      · simp at hf
        simp [hf]
      · simp at hf

end Sys2Proof.Machine
end

