-- ==== Sys2Proof/Laws/PerInstr.lean ====
section
/-! SUPPORT. Laws/PerInstr.lean: the per-instruction family Place: an operation of a slot is well formed exactly when its
core exists, whatever its fields hold; so no form of an operation is shut out by its operands. -/

namespace Sys2Proof.Laws.Place

/-- The core that an operation of a slot runs on; none for every other command. -/
def placeOf : Instr → Option At
  | .slotNop a => some a
  | .add a _ _ _ _ => some a
  | .sub a _ _ _ _ => some a
  | .adds a _ _ _ _ => some a
  | .subs a _ _ _ _ => some a
  | .andS a _ _ _ _ => some a
  | .orS a _ _ _ _ => some a
  | .xorS a _ _ _ _ => some a
  | .shl a _ _ _ _ => some a
  | .shr a _ _ _ _ => some a
  | .sar a _ _ _ _ => some a
  | .minS a _ _ _ _ => some a
  | .maxS a _ _ _ _ => some a
  | .cmp a _ _ _ => some a
  | .mull a _ _ _ _ => some a
  | .addi a _ _ _ _ => some a
  | .cmpi a _ _ _ => some a
  | .andi a _ _ _ _ => some a
  | .shli a _ _ _ _ => some a
  | .shri a _ _ _ _ => some a
  | .sari a _ _ _ _ => some a
  | .movi a _ _ _ => some a
  | .movhi a _ _ _ => some a
  | .movr a _ _ _ => some a
  | .neg a _ _ _ => some a
  | .abs a _ _ _ => some a
  | .notS a _ _ _ => some a
  | .nrm a _ _ _ => some a
  | .rcps a _ _ _ => some a
  | .divsU a _ _ _ _ => some a
  | .divsS a _ _ _ _ => some a
  | .cmpp a _ _ _ _ _ => some a
  | .pand a _ _ _ _ => some a
  | .por a _ _ _ _ => some a
  | .pxor a _ _ _ _ => some a
  | .pnot a _ _ _ => some a
  | .pseti a _ _ _ => some a
  | .br a _ _ _ => some a
  | .bri a _ _ _ => some a
  | .call a _ _ => some a
  | .ret a _ => some a
  | .rte a _ => some a
  | .endTask a _ => some a
  | .rep a _ _ _ _ => some a
  | .irep a _ _ _ _ => some a
  | .waite a _ _ => some a
  | .xsig a _ _ => some a
  | .brk a _ => some a
  | .trap a _ => some a
  | .ldW a _ _ _ => some a
  | .ldD a _ _ _ => some a
  | .ldV a _ _ _ => some a
  | .ldbW a _ _ _ => some a
  | .ldbD a _ _ _ => some a
  | .stW a _ _ _ => some a
  | .stD a _ _ _ => some a
  | .stV a _ _ _ => some a
  | .strV a _ _ _ _ _ _ _ => some a
  | .addp a _ _ _ => some a
  | .mul a _ _ _ _ => some a
  | .mac a _ _ _ _ => some a
  | .msu a _ _ _ _ => some a
  | .cmul a _ _ _ _ => some a
  | .cmac a _ _ _ _ => some a
  | .cmsu a _ _ _ _ => some a
  | .cmulj a _ _ _ _ => some a
  | .cmacj a _ _ _ _ => some a
  | .cmsuj a _ _ _ _ => some a
  | .bfly a _ _ _ _ _ => some a
  | .ext a _ _ _ _ _ => some a
  | .accld a _ _ _ _ => some a
  | .accz a _ _ => some a
  | .accadd a _ _ _ => some a
  | .vadd a _ _ _ _ _ => some a
  | .vsub a _ _ _ _ _ => some a
  | .vneg a _ _ _ _ => some a
  | .vabs a _ _ _ _ => some a
  | .vmin a _ _ _ _ => some a
  | .vmax a _ _ _ _ => some a
  | .vand a _ _ _ _ => some a
  | .vor a _ _ _ _ => some a
  | .vxor a _ _ _ _ => some a
  | .vshl a _ _ _ _ _ => some a
  | .vsar a _ _ _ _ _ => some a
  | .vshr a _ _ _ _ => some a
  | .vmov a _ _ _ => some a
  | .vsel a _ _ _ _ _ => some a
  | .vbrd a _ _ _ => some a
  | .vget a _ _ _ _ => some a
  | .vperm a _ _ _ _ _ => some a
  | .vcmp a _ _ _ _ _ => some a
  | _ => none

def Statement (i : Instr) : Prop := ∀ a, placeOf i = some a → wellFormed i = atOk a

theorem hostNop (h : Hdr) : Statement (.hostNop h) := fun _ h => by cases h
theorem setTick (h : Hdr) (code : Byte) : Statement (.setTick h code) := fun _ h => by cases h
theorem slotCfg (h : Hdr) (first count : BitVec 16) (src : W64) : Statement (.slotCfg h first count src) := fun _ h => by cases h
theorem loadImage (h : Hdr) (hearth : Byte) (addr : W64) (len : W32) : Statement (.loadImage h hearth addr len) := fun _ h => by cases h
theorem swapProgram (h : Hdr) (hearth mode : Byte) : Statement (.swapProgram h hearth mode) := fun _ h => by cases h
theorem discardImage (h : Hdr) (hearth : Byte) : Statement (.discardImage h hearth) := fun _ h => by cases h
theorem unloadProgram (h : Hdr) (hearth : Byte) : Statement (.unloadProgram h hearth) := fun _ h => by cases h
theorem paramWrite (h : Hdr) (hearth block : Byte) (ofs count : W32) (src : W64) : Statement (.paramWrite h hearth block ofs count src) := fun _ h => by cases h
theorem paramSwap (h : Hdr) (hearth : Byte) (mask : BitVec 16) : Statement (.paramSwap h hearth mask) := fun _ h => by cases h
theorem mixWrite (h : Hdr) (region flags : Byte) (first count : W32) (src : W64) : Statement (.mixWrite h region flags first count src) := fun _ h => by cases h
theorem mixSwap (h : Hdr) : Statement (.mixSwap h) := fun _ h => by cases h
theorem mixDamp (h : Hdr) (target : Byte) (index : W32) (gain : BitVec 16) (inv shape : Byte) (len : W32) : Statement (.mixDamp h target index gain inv shape len) := fun _ h => by cases h
theorem portStart (h : Hdr) (port : Byte) : Statement (.portStart h port) := fun _ h => by cases h
theorem portStop (h : Hdr) (port : Byte) : Statement (.portStop h port) := fun _ h => by cases h
theorem portMute (h : Hdr) (port ch mute : Byte) : Statement (.portMute h port ch mute) := fun _ h => by cases h
theorem decFreeze (h : Hdr) (chain : BitVec 16) (freeze : Byte) : Statement (.decFreeze h chain freeze) := fun _ h => by cases h
theorem flueEnable (h : Hdr) (flue : Byte) : Statement (.flueEnable h flue) := fun _ h => by cases h
theorem flueDisable (h : Hdr) (flue : Byte) : Statement (.flueDisable h flue) := fun _ h => by cases h
theorem flueClear (h : Hdr) (flue : Byte) : Statement (.flueClear h flue) := fun _ h => by cases h
theorem streamWrite (h : Hdr) (dir : Byte) (stream : BitVec 16) (src : W64) : Statement (.streamWrite h dir stream src) := fun _ h => by cases h
theorem streamStart (h : Hdr) (dir : Byte) (stream : BitVec 16) : Statement (.streamStart h dir stream) := fun _ h => by cases h
theorem streamStop (h : Hdr) (dir : Byte) (stream : BitVec 16) : Statement (.streamStop h dir stream) := fun _ h => by cases h
theorem streamStats (h : Hdr) (dir flags : Byte) (first count : BitVec 16) (dst : W64) : Statement (.streamStats h dir flags first count dst) := fun _ h => by cases h
theorem twinSwap (h : Hdr) : Statement (.twinSwap h) := fun _ h => by cases h
theorem slotNop (a : At) : Statement (.slotNop a) := fun _ h => by cases h; rfl
theorem add (a : At) (p : Pred) (sd sa sb : BitVec 4) : Statement (.add a p sd sa sb) := fun _ h => by cases h; rfl
theorem sub (a : At) (p : Pred) (sd sa sb : BitVec 4) : Statement (.sub a p sd sa sb) := fun _ h => by cases h; rfl
theorem adds (a : At) (p : Pred) (sd sa sb : BitVec 4) : Statement (.adds a p sd sa sb) := fun _ h => by cases h; rfl
theorem subs (a : At) (p : Pred) (sd sa sb : BitVec 4) : Statement (.subs a p sd sa sb) := fun _ h => by cases h; rfl
theorem andS (a : At) (p : Pred) (sd sa sb : BitVec 4) : Statement (.andS a p sd sa sb) := fun _ h => by cases h; rfl
theorem orS (a : At) (p : Pred) (sd sa sb : BitVec 4) : Statement (.orS a p sd sa sb) := fun _ h => by cases h; rfl
theorem xorS (a : At) (p : Pred) (sd sa sb : BitVec 4) : Statement (.xorS a p sd sa sb) := fun _ h => by cases h; rfl
theorem shl (a : At) (p : Pred) (sd sa sb : BitVec 4) : Statement (.shl a p sd sa sb) := fun _ h => by cases h; rfl
theorem shr (a : At) (p : Pred) (sd sa sb : BitVec 4) : Statement (.shr a p sd sa sb) := fun _ h => by cases h; rfl
theorem sar (a : At) (p : Pred) (sd sa sb : BitVec 4) : Statement (.sar a p sd sa sb) := fun _ h => by cases h; rfl
theorem minS (a : At) (p : Pred) (sd sa sb : BitVec 4) : Statement (.minS a p sd sa sb) := fun _ h => by cases h; rfl
theorem maxS (a : At) (p : Pred) (sd sa sb : BitVec 4) : Statement (.maxS a p sd sa sb) := fun _ h => by cases h; rfl
theorem cmp (a : At) (p : Pred) (sa sb : BitVec 4) : Statement (.cmp a p sa sb) := fun _ h => by cases h; rfl
theorem mull (a : At) (p : Pred) (sd sa sb : BitVec 4) : Statement (.mull a p sd sa sb) := fun _ h => by cases h; rfl
theorem addi (a : At) (p : Pred) (sd sa : BitVec 4) (imm : BitVec 14) : Statement (.addi a p sd sa imm) := fun _ h => by cases h; rfl
theorem cmpi (a : At) (p : Pred) (sa : BitVec 4) (imm : BitVec 14) : Statement (.cmpi a p sa imm) := fun _ h => by cases h; rfl
theorem andi (a : At) (p : Pred) (sd sa : BitVec 4) (imm : BitVec 14) : Statement (.andi a p sd sa imm) := fun _ h => by cases h; rfl
theorem shli (a : At) (p : Pred) (sd sa : BitVec 4) (imm : BitVec 5) : Statement (.shli a p sd sa imm) := fun _ h => by cases h; rfl
theorem shri (a : At) (p : Pred) (sd sa : BitVec 4) (imm : BitVec 5) : Statement (.shri a p sd sa imm) := fun _ h => by cases h; rfl
theorem sari (a : At) (p : Pred) (sd sa : BitVec 4) (imm : BitVec 5) : Statement (.sari a p sd sa imm) := fun _ h => by cases h; rfl
theorem movi (a : At) (p : Pred) (sd : BitVec 4) (imm : BitVec 16) : Statement (.movi a p sd imm) := fun _ h => by cases h; rfl
theorem movhi (a : At) (p : Pred) (sd : BitVec 4) (imm : BitVec 16) : Statement (.movhi a p sd imm) := fun _ h => by cases h; rfl
theorem movr (a : At) (p : Pred) (dst src : BitVec 6) : Statement (.movr a p dst src) := fun _ h => by cases h; rfl
theorem neg (a : At) (p : Pred) (sd sa : BitVec 4) : Statement (.neg a p sd sa) := fun _ h => by cases h; rfl
theorem abs (a : At) (p : Pred) (sd sa : BitVec 4) : Statement (.abs a p sd sa) := fun _ h => by cases h; rfl
theorem notS (a : At) (p : Pred) (sd sa : BitVec 4) : Statement (.notS a p sd sa) := fun _ h => by cases h; rfl
theorem nrm (a : At) (p : Pred) (sd sa : BitVec 4) : Statement (.nrm a p sd sa) := fun _ h => by cases h; rfl
theorem rcps (a : At) (p : Pred) (sd sa : BitVec 4) : Statement (.rcps a p sd sa) := fun _ h => by cases h; rfl
theorem divsU (a : At) (p : Pred) (sqr sq sv : BitVec 4) : Statement (.divsU a p sqr sq sv) := fun _ h => by cases h; rfl
theorem divsS (a : At) (p : Pred) (sqr sq sv : BitVec 4) : Statement (.divsS a p sqr sq sv) := fun _ h => by cases h; rfl
theorem cmpp (a : At) (p : Pred) (pd : BitVec 2) (cc sa sb : BitVec 4) : Statement (.cmpp a p pd cc sa sb) := fun _ h => by cases h; rfl
theorem pand (a : At) (p : Pred) (pd pa pb : BitVec 2) : Statement (.pand a p pd pa pb) := fun _ h => by cases h; rfl
theorem por (a : At) (p : Pred) (pd pa pb : BitVec 2) : Statement (.por a p pd pa pb) := fun _ h => by cases h; rfl
theorem pxor (a : At) (p : Pred) (pd pa pb : BitVec 2) : Statement (.pxor a p pd pa pb) := fun _ h => by cases h; rfl
theorem pnot (a : At) (p : Pred) (pd pa : BitVec 2) : Statement (.pnot a p pd pa) := fun _ h => by cases h; rfl
theorem pseti (a : At) (p : Pred) (pd : BitVec 2) (imm : BitVec 16) : Statement (.pseti a p pd imm) := fun _ h => by cases h; rfl
theorem br (a : At) (p : Pred) (cond : BitVec 4) (target : BitVec 12) : Statement (.br a p cond target) := fun _ h => by cases h; rfl
theorem bri (a : At) (p : Pred) (cond sa : BitVec 4) : Statement (.bri a p cond sa) := fun _ h => by cases h; rfl
theorem call (a : At) (p : Pred) (target : BitVec 12) : Statement (.call a p target) := fun _ h => by cases h; rfl
theorem ret (a : At) (p : Pred) : Statement (.ret a p) := fun _ h => by cases h; rfl
theorem rte (a : At) (p : Pred) : Statement (.rte a p) := fun _ h => by cases h; rfl
theorem endTask (a : At) (p : Pred) : Statement (.endTask a p) := fun _ h => by cases h; rfl
theorem rep (a : At) (p : Pred) (len : BitVec 10) (byReg : Bool) (cnt : BitVec 10) : Statement (.rep a p len byReg cnt) := fun _ h => by cases h; rfl
theorem irep (a : At) (p : Pred) (len : BitVec 10) (byReg : Bool) (cnt : BitVec 10) : Statement (.irep a p len byReg cnt) := fun _ h => by cases h; rfl
theorem waite (a : At) (p : Pred) (mask : BitVec 16) : Statement (.waite a p mask) := fun _ h => by cases h; rfl
theorem xsig (a : At) (p : Pred) (core : BitVec 3) : Statement (.xsig a p core) := fun _ h => by cases h; rfl
theorem brk (a : At) (p : Pred) : Statement (.brk a p) := fun _ h => by cases h; rfl
theorem trap (a : At) (p : Pred) : Statement (.trap a p) := fun _ h => by cases h; rfl
theorem ldW (a : At) (p : Pred) (bus : Bus) (m : MemF) : Statement (.ldW a p bus m) := fun _ h => by cases h; rfl
theorem ldD (a : At) (p : Pred) (bus : Bus) (m : MemF) : Statement (.ldD a p bus m) := fun _ h => by cases h; rfl
theorem ldV (a : At) (p : Pred) (bus : Bus) (m : MemF) : Statement (.ldV a p bus m) := fun _ h => by cases h; rfl
theorem ldbW (a : At) (p : Pred) (bus : Bus) (m : MemF) : Statement (.ldbW a p bus m) := fun _ h => by cases h; rfl
theorem ldbD (a : At) (p : Pred) (bus : Bus) (m : MemF) : Statement (.ldbD a p bus m) := fun _ h => by cases h; rfl
theorem stW (a : At) (p : Pred) (bus : Bus) (m : MemF) : Statement (.stW a p bus m) := fun _ h => by cases h; rfl
theorem stD (a : At) (p : Pred) (bus : Bus) (m : MemF) : Statement (.stD a p bus m) := fun _ h => by cases h; rfl
theorem stV (a : At) (p : Pred) (bus : Bus) (m : MemF) : Statement (.stV a p bus m) := fun _ h => by cases h; rfl
theorem strV (a : At) (p : Pred) (bus : Bus) (acc : BitVec 2) (sh : BitVec 5) (sat : Bool) (ptr kr : BitVec 3) : Statement (.strV a p bus acc sh sat ptr kr) := fun _ h => by cases h; rfl
theorem addp (a : At) (p : Pred) (bus : Bus) (m : MemF) : Statement (.addp a p bus m) := fun _ h => by cases h; rfl
theorem mul (a : At) (p : Pred) (acc : BitVec 2) (va vb : BitVec 4) : Statement (.mul a p acc va vb) := fun _ h => by cases h; rfl
theorem mac (a : At) (p : Pred) (acc : BitVec 2) (va vb : BitVec 4) : Statement (.mac a p acc va vb) := fun _ h => by cases h; rfl
theorem msu (a : At) (p : Pred) (acc : BitVec 2) (va vb : BitVec 4) : Statement (.msu a p acc va vb) := fun _ h => by cases h; rfl
theorem cmul (a : At) (p : Pred) (acc : BitVec 2) (va vb : BitVec 4) : Statement (.cmul a p acc va vb) := fun _ h => by cases h; rfl
theorem cmac (a : At) (p : Pred) (acc : BitVec 2) (va vb : BitVec 4) : Statement (.cmac a p acc va vb) := fun _ h => by cases h; rfl
theorem cmsu (a : At) (p : Pred) (acc : BitVec 2) (va vb : BitVec 4) : Statement (.cmsu a p acc va vb) := fun _ h => by cases h; rfl
theorem cmulj (a : At) (p : Pred) (acc : BitVec 2) (va vb : BitVec 4) : Statement (.cmulj a p acc va vb) := fun _ h => by cases h; rfl
theorem cmacj (a : At) (p : Pred) (acc : BitVec 2) (va vb : BitVec 4) : Statement (.cmacj a p acc va vb) := fun _ h => by cases h; rfl
theorem cmsuj (a : At) (p : Pred) (acc : BitVec 2) (va vb : BitVec 4) : Statement (.cmsuj a p acc va vb) := fun _ h => by cases h; rfl
theorem bfly (a : At) (p : Pred) (pair : Bool) (va vb vw : BitVec 4) : Statement (.bfly a p pair va vb vw) := fun _ h => by cases h; rfl
theorem ext (a : At) (p : Pred) (vd : BitVec 4) (acc : BitVec 2) (sh : BitVec 5) (sat : Bool) : Statement (.ext a p vd acc sh sat) := fun _ h => by cases h; rfl
theorem accld (a : At) (p : Pred) (acc : BitVec 2) (va : BitVec 4) (sh : BitVec 5) : Statement (.accld a p acc va sh) := fun _ h => by cases h; rfl
theorem accz (a : At) (p : Pred) (acc : BitVec 2) : Statement (.accz a p acc) := fun _ h => by cases h; rfl
theorem accadd (a : At) (p : Pred) (accd accs : BitVec 2) : Statement (.accadd a p accd accs) := fun _ h => by cases h; rfl
theorem vadd (a : At) (p : Pred) (vd va vb : BitVec 4) (sat : Bool) : Statement (.vadd a p vd va vb sat) := fun _ h => by cases h; rfl
theorem vsub (a : At) (p : Pred) (vd va vb : BitVec 4) (sat : Bool) : Statement (.vsub a p vd va vb sat) := fun _ h => by cases h; rfl
theorem vneg (a : At) (p : Pred) (vd va : BitVec 4) (sat : Bool) : Statement (.vneg a p vd va sat) := fun _ h => by cases h; rfl
theorem vabs (a : At) (p : Pred) (vd va : BitVec 4) (sat : Bool) : Statement (.vabs a p vd va sat) := fun _ h => by cases h; rfl
theorem vmin (a : At) (p : Pred) (vd va vb : BitVec 4) : Statement (.vmin a p vd va vb) := fun _ h => by cases h; rfl
theorem vmax (a : At) (p : Pred) (vd va vb : BitVec 4) : Statement (.vmax a p vd va vb) := fun _ h => by cases h; rfl
theorem vand (a : At) (p : Pred) (vd va vb : BitVec 4) : Statement (.vand a p vd va vb) := fun _ h => by cases h; rfl
theorem vor (a : At) (p : Pred) (vd va vb : BitVec 4) : Statement (.vor a p vd va vb) := fun _ h => by cases h; rfl
theorem vxor (a : At) (p : Pred) (vd va vb : BitVec 4) : Statement (.vxor a p vd va vb) := fun _ h => by cases h; rfl
theorem vshl (a : At) (p : Pred) (vd va : BitVec 4) (sat : Bool) (imm : BitVec 5) : Statement (.vshl a p vd va sat imm) := fun _ h => by cases h; rfl
theorem vsar (a : At) (p : Pred) (vd va : BitVec 4) (sat : Bool) (imm : BitVec 5) : Statement (.vsar a p vd va sat imm) := fun _ h => by cases h; rfl
theorem vshr (a : At) (p : Pred) (vd va : BitVec 4) (imm : BitVec 5) : Statement (.vshr a p vd va imm) := fun _ h => by cases h; rfl
theorem vmov (a : At) (p : Pred) (vd va : BitVec 4) : Statement (.vmov a p vd va) := fun _ h => by cases h; rfl
theorem vsel (a : At) (p : Pred) (vd va vb : BitVec 4) (psel : BitVec 2) : Statement (.vsel a p vd va vb psel) := fun _ h => by cases h; rfl
theorem vbrd (a : At) (p : Pred) (vd sa : BitVec 4) : Statement (.vbrd a p vd sa) := fun _ h => by cases h; rfl
theorem vget (a : At) (p : Pred) (sd va e : BitVec 4) : Statement (.vget a p sd va e) := fun _ h => by cases h; rfl
theorem vperm (a : At) (p : Pred) (vd va vb pat : BitVec 4) : Statement (.vperm a p vd va vb pat) := fun _ h => by cases h; rfl
theorem vcmp (a : At) (p : Pred) (pd : BitVec 2) (cc va vb : BitVec 4) : Statement (.vcmp a p pd cc va vb) := fun _ h => by cases h; rfl
theorem eventTaken (cl core : Nat) : Statement (.eventTaken cl core) := fun _ h => by cases h
theorem repLoopBack (cl core : Nat) : Statement (.repLoopBack cl core) := fun _ h => by cases h
theorem halt (cl core : Nat) : Statement (.halt cl core) := fun _ h => by cases h
theorem haltAccepted (cl core : Nat) : Statement (.haltAccepted cl core) := fun _ h => by cases h
theorem resume (cl core : Nat) : Statement (.resume cl core) := fun _ h => by cases h
theorem step (cl core : Nat) : Statement (.step cl core) := fun _ h => by cases h
theorem memInit (cl : Nat) : Statement (.memInit cl) := fun _ h => by cases h
theorem nValidRise (c : Nat) : Statement (.nValidRise c) := fun _ h => by cases h
theorem engineStart (c : Nat) : Statement (.engineStart c) := fun _ h => by cases h
theorem tickStart (c : Nat) : Statement (.tickStart c) := fun _ h => by cases h
theorem tstart (cl core task : Nat) : Statement (.tstart cl core task) := fun _ h => by cases h
theorem budget (cl core task : Nat) : Statement (.budget cl core task) := fun _ h => by cases h
theorem outputPhase : Statement (.outputPhase) := fun _ h => by cases h
theorem tickEnd (c : Nat) : Statement (.tickEnd c) := fun _ h => by cases h
theorem doorbellFetch : Statement (.doorbellFetch) := fun _ h => by cases h
theorem nudge (off : Nat) (val : W32) : Statement (.nudge off val) := fun _ h => by cases h
theorem meterFrame : Statement (.meterFrame) := fun _ h => by cases h
theorem gridInstant : Statement (.gridInstant) := fun _ h => by cases h
theorem hifEnable (val : W32) : Statement (.hifEnable val) := fun _ h => by cases h
theorem hifDisable (val : W32) : Statement (.hifDisable val) := fun _ h => by cases h
theorem freeStart : Statement (.freeStart) := fun _ h => by cases h
theorem run : Statement (.run) := fun _ h => by cases h
theorem registerWrite (ag : Agent) (off : Nat) (val : W32) : Statement (.registerWrite ag off val) := fun _ h => by cases h
theorem badAccess (ag : Agent) (off size : Nat) (write : Bool) : Statement (.badAccess ag off size write) := fun _ h => by cases h
theorem loRead (ag : Agent) (off : Nat) : Statement (.loRead ag off) := fun _ h => by cases h
theorem rcRead (ag : Agent) (off : Nat) : Statement (.rcRead ag off) := fun _ h => by cases h
theorem peakClr : Statement (.peakClr) := fun _ h => by cases h
theorem mixValidationDone : Statement (.mixValidationDone) := fun _ h => by cases h
theorem rampEnd (bus : Bool) (index : Nat) : Statement (.rampEnd bus index) := fun _ h => by cases h
theorem leadinStart (port : Nat) : Statement (.leadinStart port) := fun _ h => by cases h
theorem portFrameReceive (port : Nat) (words : List (Nat × W32)) : Statement (.portFrameReceive port words) := fun _ h => by cases h
theorem slip (port : Nat) (full : Bool) : Statement (.slip port full) := fun _ h => by cases h
theorem glitch (port : Nat) (missing : Bool) : Statement (.glitch port missing) := fun _ h => by cases h
theorem clockLost (port : Nat) : Statement (.clockLost port) := fun _ h => by cases h
theorem clockRecovered (port : Nat) (rate : Nat) : Statement (.clockRecovered port rate) := fun _ h => by cases h
theorem aesErr (port ch : Nat) : Statement (.aesErr port ch) := fun _ h => by cases h
theorem csBlock (port sub : Nat) (bytes : List Byte) (c phase : Nat) : Statement (.csBlock port sub bytes c phase) := fun _ h => by cases h
theorem asrcLock (port : Nat) (ratio : W32) : Statement (.asrcLock port ratio) := fun _ h => by cases h
theorem acqFail (port : Nat) : Statement (.acqFail port) := fun _ h => by cases h
theorem trackErr (port : Nat) : Statement (.trackErr port) := fun _ h => by cases h
theorem muteRampEnd (asrc : Nat) : Statement (.muteRampEnd asrc) := fun _ h => by cases h
theorem holdExpiry (asrc : Nat) : Statement (.holdExpiry asrc) := fun _ h => by cases h
theorem syncMatch (port ch : Nat) (found : NaFind) : Statement (.syncMatch port ch found) := fun _ h => by cases h
theorem naRelease (port ch : Nat) : Statement (.naRelease port ch) := fun _ h => by cases h
theorem unsettledEnd (chain : Nat) : Statement (.unsettledEnd chain) := fun _ h => by cases h
theorem loopSample (group : Nat) (grs : BitVec 64) (bits : List (BitVec 64 × BitVec 64)) : Statement (.loopSample group grs bits) := fun _ h => by cases h
theorem switchingPeriod (flue : Nat) : Statement (.switchingPeriod flue) := fun _ h => by cases h
theorem rampUpEnd (flue : Nat) : Statement (.rampUpEnd flue) := fun _ h => by cases h
theorem rampDownEnd (flue : Nat) : Statement (.rampDownEnd flue) := fun _ h => by cases h
theorem stoppingEnd (flue : Nat) : Statement (.stoppingEnd flue) := fun _ h => by cases h
theorem trip (flue : Nat) (ball : GBall) : Statement (.trip flue ball) := fun _ h => by cases h
theorem tripRateShutdown (flue : Nat) : Statement (.tripRateShutdown flue) := fun _ h => by cases h
theorem retry (flue : Nat) : Statement (.retry flue) := fun _ h => by cases h
theorem retrySuccess (flue : Nat) : Statement (.retrySuccess flue) := fun _ h => by cases h
theorem dcBlock (flue : Nat) : Statement (.dcBlock flue) := fun _ h => by cases h
theorem senseFault (flue : Nat) (onF : Bool) : Statement (.senseFault flue onF) := fun _ h => by cases h
theorem frameReceived (port : Nat) (bytes : List Byte) (line : LineErr) (c phase sub : Nat) : Statement (.frameReceived port bytes line c phase sub) := fun _ h => by cases h
theorem packetDue (stream : Nat) (c phase : Nat) : Statement (.packetDue stream c phase) := fun _ h => by cases h
theorem lateDrop (stream : Nat) (pathB : Bool) : Statement (.lateDrop stream pathB) := fun _ h => by cases h
theorem takePoint (stream : Nat) : Statement (.takePoint stream) := fun _ h => by cases h
theorem linkChange (port : Nat) (up : Bool) : Statement (.linkChange port up) := fun _ h => by cases h
theorem netCfgWrite (ag : Agent) (port : Nat) (val : W32) : Statement (.netCfgWrite ag port val) := fun _ h => by cases h
theorem lpiEntry (side : LpiSide) : Statement (.lpiEntry side) := fun _ h => by cases h
theorem caravanSend (c : Nat) : Statement (.caravanSend c) := fun _ h => by cases h
theorem caravanReceived (bytes : List Byte) (fcsOk : Bool) (c : Nat) : Statement (.caravanReceived bytes fcsOk c) := fun _ h => by cases h
theorem ringDown : Statement (.ringDown) := fun _ h => by cases h
theorem apply (ag : Agent) (dom : Nat) (val : W32) : Statement (.apply ag dom val) := fun _ h => by cases h
theorem cancel (ag : Agent) (dom : Nat) (val : W32) : Statement (.cancel ag dom val) := fun _ h => by cases h
theorem owner (ag : Agent) (dom : Nat) (val : W32) : Statement (.owner ag dom val) := fun _ h => by cases h
theorem domainUpdate (dom : Nat) : Statement (.domainUpdate dom) := fun _ h => by cases h
theorem go : Statement (.go) := fun _ h => by cases h
theorem ppsIn (c phase width : Nat) : Statement (.ppsIn c phase width) := fun _ h => by cases h
theorem ppsOut (c : Nat) : Statement (.ppsOut c) := fun _ h => by cases h
theorem wtr (cand : Nat) : Statement (.wtr cand) := fun _ h => by cases h
theorem dispute (cand : Nat) : Statement (.dispute cand) := fun _ h => by cases h
theorem historySecond (freqs : List (Nat × W32)) : Statement (.historySecond freqs) := fun _ h => by cases h
theorem lock : Statement (.lock) := fun _ h => by cases h
theorem mediaIndexSet (c : Nat) : Statement (.mediaIndexSet c) := fun _ h => by cases h
theorem histClr : Statement (.histClr) := fun _ h => by cases h
theorem suspClr : Statement (.suspClr) := fun _ h => by cases h
theorem dcoFfoWrite (val : W64) : Statement (.dcoFfoWrite val) := fun _ h => by cases h
theorem backgroundCopyDone (cl : Nat) : Statement (.backgroundCopyDone cl) := fun _ h => by cases h
theorem shadowSlotEnd : Statement (.shadowSlotEnd) := fun _ h => by cases h
theorem bistEnd (failed : List Nat) : Statement (.bistEnd failed) := fun _ h => by cases h
theorem targetedSelfTest (hearthFails : Bool) (emberFails : List Nat) : Statement (.targetedSelfTest hearthFails emberFails) := fun _ h => by cases h
theorem twinLinkUp (peerRun : Bool) : Statement (.twinLinkUp peerRun) := fun _ h => by cases h
theorem joinCopyDone (j : W64) : Statement (.joinCopyDone j) := fun _ h => by cases h
theorem joinTick : Statement (.joinTick) := fun _ h => by cases h
theorem settled : Statement (.settled) := fun _ h => by cases h
theorem joinFail : Statement (.joinFail) := fun _ h => by cases h
theorem disputeCleared : Statement (.disputeCleared) := fun _ h => by cases h
theorem tickRecord (r : TickRec) : Statement (.tickRecord r) := fun _ h => by cases h
theorem arrive (stream : Nat) (peer : List Nat) : Statement (.arrive stream peer) := fun _ h => by cases h
theorem handover (hc : W64) : Statement (.handover hc) := fun _ h => by cases h
theorem ack (hc : W64) : Statement (.ack hc) := fun _ h => by cases h
theorem handoverInstant : Statement (.handoverInstant) := fun _ h => by cases h
theorem wreset : Statement (.wreset) := fun _ h => by cases h
theorem join (items : List JoinItem) : Statement (.join items) := fun _ h => by cases h
theorem mbxFrame (mbox : Nat) (words : List W32) (epoch seq : BitVec 16) (code : Byte) (outcome : Nat) : Statement (.mbxFrame mbox words epoch seq code outcome) := fun _ h => by cases h
theorem peerLost (c : Nat) : Statement (.peerLost c) := fun _ h => by cases h
theorem detach : Statement (.detach) := fun _ h => by cases h
theorem rejoin : Statement (.rejoin) := fun _ h => by cases h
theorem clrDispute : Statement (.clrDispute) := fun _ h => by cases h
theorem send (sender mbox : Nat) (words : List W32) (len : Nat) (code : Byte) : Statement (.send sender mbox words len code) := fun _ h => by cases h
theorem taken (reader mbox : Nat) : Statement (.taken reader mbox) := fun _ h => by cases h
theorem timeout (mbox : Nat) : Statement (.timeout mbox) := fun _ h => by cases h
theorem flushed (mbox : Nat) : Statement (.flushed mbox) := fun _ h => by cases h
theorem sensorRead (req : Nat) : Statement (.sensorRead req) := fun _ h => by cases h
theorem logRead (req : Nat) : Statement (.logRead req) := fun _ h => by cases h
theorem logLevel (req : Nat) : Statement (.logLevel req) := fun _ h => by cases h
theorem updateStage (req : Nat) : Statement (.updateStage req) := fun _ h => by cases h
theorem updateActivate (req : Nat) : Statement (.updateActivate req) := fun _ h => by cases h
theorem bootStatus (req : Nat) : Statement (.bootStatus req) := fun _ h => by cases h
theorem health (req : Nat) : Statement (.health req) := fun _ h => by cases h
theorem ptpCfg (req : Nat) : Statement (.ptpCfg req) := fun _ h => by cases h
theorem replyDrop (req : Nat) : Statement (.replyDrop req) := fun _ h => by cases h
theorem matrixGrant (target : Nat) (reqs : List MtxReq) : Statement (.matrixGrant target reqs) := fun _ h => by cases h
theorem burstReset (master : Nat) : Statement (.burstReset master) := fun _ h => by cases h
theorem scrub (mem : Nat) : Statement (.scrub mem) := fun _ h => by cases h
theorem remap (ag : Agent) (val : W32) : Statement (.remap ag val) := fun _ h => by cases h
theorem eccInjArm (val : W32) : Statement (.eccInjArm val) := fun _ h => by cases h
theorem sourceEvent (src : Nat) (detail : W64) : Statement (.sourceEvent src detail) := fun _ h => by cases h
theorem windowClose (src : Nat) : Statement (.windowClose src) := fun _ h => by cases h
theorem escalation (src : Nat) : Statement (.escalation src) := fun _ h => by cases h
theorem ladderDecay (group : Nat) : Statement (.ladderDecay group) := fun _ h => by cases h
theorem ackSource (src : Nat) : Statement (.ackSource src) := fun _ h => by cases h
theorem recovery : Statement (.recovery) := fun _ h => by cases h
theorem recWindowClose : Statement (.recWindowClose) := fun _ h => by cases h
theorem paritySweep : Statement (.paritySweep) := fun _ h => by cases h
theorem forceSafe : Statement (.forceSafe) := fun _ h => by cases h
theorem unlatch : Statement (.unlatch) := fun _ h => by cases h
theorem thermalSample (readings : List (BitVec 16)) : Statement (.thermalSample readings) := fun _ h => by cases h
theorem resetW (ag : Agent) (key : BitVec 16) : Statement (.resetW ag key) := fun _ h => by cases h
theorem resetE (ag : Agent) (key : BitVec 16) : Statement (.resetE ag key) := fun _ h => by cases h
theorem resetU (ag : Agent) (key : BitVec 16) (uclass unit : Nat) : Statement (.resetU ag key uclass unit) := fun _ h => by cases h
theorem resetM (ag : Agent) (key : BitVec 16) : Statement (.resetM ag key) := fun _ h => by cases h
theorem rstNLow (ns : Nat) : Statement (.rstNLow ns) := fun _ h => by cases h
theorem powerOn : Statement (.powerOn) := fun _ h => by cases h
theorem supplyReset (supply : Nat) : Statement (.supplyReset supply) := fun _ h => by cases h
theorem supplyWarn (supply : Nat) : Statement (.supplyWarn supply) := fun _ h => by cases h
theorem supplyOk (supply us : Nat) : Statement (.supplyOk supply us) := fun _ h => by cases h
theorem resetRelease (ns : Nat) (twinId : Bool) (bootsel : BitVec 2) (failed : List Nat) : Statement (.resetRelease ns twinId bootsel failed) := fun _ h => by cases h
theorem clkLost (clk : Nat) : Statement (.clkLost clk) := fun _ h => by cases h
theorem clockQualified (clk : Nat) : Statement (.clockQualified clk) := fun _ h => by cases h
theorem pcieReset : Statement (.pcieReset) := fun _ h => by cases h
theorem mgtWdog : Statement (.mgtWdog) := fun _ h => by cases h
theorem reqRun : Statement (.reqRun) := fun _ h => by cases h
theorem reqQuiet : Statement (.reqQuiet) := fun _ h => by cases h
theorem reqKeep : Statement (.reqKeep) := fun _ h => by cases h
theorem quietGate : Statement (.quietGate) := fun _ h => by cases h
theorem domainPowerOn : Statement (.domainPowerOn) := fun _ h => by cases h
theorem pdEnWrite (word : Nat) (val : W32) : Statement (.pdEnWrite word val) := fun _ h => by cases h
theorem bootAttempt : Statement (.bootAttempt) := fun _ h => by cases h
theorem bootOk : Statement (.bootOk) := fun _ h => by cases h
theorem hostTmo : Statement (.hostTmo) := fun _ h => by cases h
theorem bootGo : Statement (.bootGo) := fun _ h => by cases h
theorem clrFail : Statement (.clrFail) := fun _ h => by cases h
theorem lifecycleAdvance (val : W32) : Statement (.lifecycleAdvance val) := fun _ h => by cases h
theorem newchal : Statement (.newchal) := fun _ h => by cases h
theorem debugRequest (val : W32) : Statement (.debugRequest val) := fun _ h => by cases h
theorem lockoutEnd : Statement (.lockoutEnd) := fun _ h => by cases h
theorem commit (val : BitVec 16) : Statement (.commit val) := fun _ h => by cases h
theorem samplePreload : Statement (.samplePreload) := fun _ h => by cases h
theorem idcode : Statement (.idcode) := fun _ h => by cases h
theorem bypass : Statement (.bypass) := fun _ h => by cases h
theorem extest : Statement (.extest) := fun _ h => by cases h
theorem wordClockEdge (wck : Nat) (present : Bool) (c phase : Nat) : Statement (.wordClockEdge wck present c phase) := fun _ h => by cases h
theorem frameFromManagement (port : Nat) (bytes : List Byte) (oneStep wantTs : Bool) (reqTs c phase : Nat) : Statement (.frameFromManagement port bytes oneStep wantTs reqTs c phase) := fun _ h => by cases h
theorem tickRecordLate : Statement (.tickRecordLate) := fun _ h => by cases h
theorem twinLaneChange (lane : Nat) (up : Bool) : Statement (.twinLaneChange lane up) := fun _ h => by cases h

end Sys2Proof.Laws.Place
end

