-- ==== Sys2Proof/Tests/Slice0.lean ====
section
/-! SUPPORT. Tests/Slice0.lean: the model's own tests. Each runs one step, or checks that ill-formed operands are refused, or
shows a state and operands that meet the hypotheses of a statement and its clauses (witness_…). The expected results come
from the rules and tables that the comments name. -/

namespace Sys2Proof.Tests

set_option maxRecDepth 100000
set_option Elab.async false

open Sys2Proof Sys2Proof.Machine

/-! ## States -/

/-- Every reset released, clocks good and domains on. -/
def calm : State :=
  let s : State := { State.reset with pwr := { State.reset.pwr with
    asserts := [], engineRst := false, mgmtRst := false, hifRst := false, twinRst := false, clusters := [], ports := [], nets := [] } }
  ((s.wr CLK_GOOD 0xFFFF).wr CLK_PD_ST0 0xFFFFFFFF).wr CLK_PD_ST1 0xF

/-- The engine runs, N is valid and stands at 4096 in tick 512 (TICK_LEN 8) at the instant at which that tick starts, and the rings are enabled. -/
def running : State :=
  let s := ((calm.fset SCH_STATUS_ENGINE_RUN 1).fset SCH_STATUS_N_VALID 1).set64 SCH_N 4096
  let s := (s.set64 SCH_K 512).fset HIF_CTRL_EN 1
  { s with sch := { s.sch with ended := false } }

/-- Core 0 of cluster 0 runs with these registers. -/
def at0 (c : Core) : State := (running.fset (HRT_CORE_STATUS_STATE 0 0) 2).setCore 0 0 c

def here : At := ⟨0, 0, ⟨0, 0, 0, 0⟩⟩
/-- Not predicated, and predicated on p0. -/
def always : Pred := ⟨false, false, 0⟩
def onP0 : Pred := ⟨true, false, 0⟩
/-- A predication that breaks R80. -/
def wrong : Pred := ⟨false, true, 0⟩

/-- The state after a step that answers one. -/
def after (o : Host.Outcome State Fault Refusal) : State := match o with
  | .next t => t
  | _ => State.reset

def isNext (o : Host.Outcome State Fault Refusal) : Bool := match o with
  | .next _ => true
  | _ => false

/-- Core 0 of cluster 0 after an operation. -/
def ends (c : Core) (i : Instr) : Core := (after (exec i (at0 c))).core 0 0
def sAfter (c : Core) (i : Instr) (r : Nat) : W32 := Tbl.get 0 (ends c i).s r

/-- The exception that an operation raises: state, code, slots and EXC_SEEN. -/
def excAfter (c : Core) (i : Instr) : Nat × Nat :=
  let t := after (exec i (at0 c))
  (t.fget (HRT_CORE_STATUS_STATE 0 0), (t.rd (HRT_CORE_EXC 0 0)).toNat % 65536)

/-! ## The Valuc -/

def one2 : Core := { s := [(0, 0x7FFFFFFF), (1, 1)] }

theorem ready : Ready (at0 one2) here :=
  ⟨⟨by decide +kernel, by decide +kernel, by decide +kernel, by decide +kernel, by decide +kernel, by decide +kernel,
    by decide +kernel⟩, by decide +kernel⟩
theorem lawful_always : lawful always := fun _ => ⟨rfl, rfl⟩
theorem lawful_onP0 : lawful onP0 := fun h => by cases h
theorem unlawful_wrong : ¬ lawful wrong := fun h => absurd (h rfl).1 (by decide)

theorem witness_ScalarTwoRegisters : Ready (at0 one2) here ∧ lawful always := ⟨ready, lawful_always⟩
theorem witness_ScalarOneRegister : Ready (at0 one2) here ∧ lawful onP0 := ⟨ready, lawful_onP0⟩
theorem witness_DivideStep : Ready (at0 one2) here ∧ lawful always ∧ (3 : W32) ≠ 0 := ⟨ready, lawful_always, by decide⟩
theorem witness_PredicatesAndConditions : Ready (at0 one2) here ∧ lawful always ∧ (7#4).toNat < 8 :=
  ⟨ready, lawful_always, by decide⟩
theorem witness_MoveRegister : Ready (at0 one2) here ∧ lawful always ∧ (0x39#6).toNat < 0x3A ∧ (0x3A#6).toNat ≤ 0x3A :=
  ⟨ready, lawful_always, by decide, by decide⟩
theorem witness_BranchClass : Ready (at0 one2) here ∧ lawful always ∧ (14#4) ≠ 15 := ⟨ready, lawful_always, by decide⟩
theorem witness_WaitAndSignal : Ready (at0 one2) here ∧ lawful always ∧ (1#16) ≠ 0 := ⟨ready, lawful_always, by decide⟩
theorem witness_TrapBreakAndIllegal : Ready (at0 one2) here ∧ lawful always ∧ ¬ lawful wrong :=
  ⟨ready, lawful_always, unlawful_wrong⟩
theorem witness_RepeatLevels : Ready (at0 one2) here ∧ lawful always ∧ (true = true → (15#10).toNat < 16) :=
  ⟨ready, lawful_always, fun _ => by decide⟩
def mem0 : MemF := ⟨0, 0, 1, 0⟩
theorem witness_Loads : Ready (at0 one2) here ∧ lawful always ∧ memOk mem0 = true := ⟨ready, lawful_always, by decide⟩
theorem witness_Stores : Ready (at0 one2) here ∧ lawful always ∧ memOk mem0 = true ∧
    (at0 one2).on MTX_ECC_INJ_ARM = false := ⟨ready, lawful_always, by decide, by decide +kernel⟩
theorem witness_AccessExceptions : Ready (at0 one2) here ∧ lawful always ∧ memOk mem0 = true :=
  ⟨ready, lawful_always, by decide⟩
theorem witness_Accumulators : Ready (at0 one2) here ∧ lawful always := ⟨ready, lawful_always⟩
theorem witness_VectorArithmetic : Ready (at0 one2) here ∧ lawful always := ⟨ready, lawful_always⟩
theorem witness_VectorMoves : Ready (at0 one2) here ∧ lawful always ∧ (7#4).toNat < 8 := ⟨ready, lawful_always, by decide⟩
theorem witness_ExtractionAndDistances : Ready (at0 one2) here ∧ lawful always ∧ -9 ≤ (0x17#5).toInt :=
  ⟨ready, lawful_always, by decide⟩
theorem witness_PointerSteps : (0x3FFFF < 2 ^ 18 ∧ 0 < 0xFFFF ∧ 0xFFFF < 2 ^ 16) ∧ 1 < 2 ∧ 2 ≤ 2 := by decide

/-- A core with one branch-class operation and `n` delay slots to go. -/
def turning (t : Turn) (n : Nat) : Core := { turns := [(t, n)], task := some 3, est := 5, shLc0 := 6, epc := 9 }
theorem witness_DelaySlots : Issuing (at0 (turning .endTask 1)) here ∧ (turning .endTask 1).turns = [(.endTask, 0 + 1)] :=
  ⟨⟨by decide +kernel, by decide +kernel, by decide +kernel, by decide +kernel, by decide +kernel, by decide +kernel,
    by decide +kernel⟩, rfl⟩

/-- R89: C is the carry out, V the signed overflow; R88: ADDS clips. -/
theorem test_add_wraps : (sAfter one2 (.add here always 2 0 1) 2, (ends one2 (.add here always 2 0 1)).st) =
    (0x80000000, 0x9#32) := by decide +kernel
theorem test_adds_clips : (sAfter one2 (.adds here always 2 0 1) 2, (ends one2 (.adds here always 2 0 1)).st) =
    (0x7FFFFFFF, 0x18#32) := by decide +kernel
theorem test_sub_no_borrow : (sAfter one2 (.sub here always 0 1 1) 0, (ends one2 (.sub here always 0 1 1)).st) = (0, 0x6#32) := by
  decide +kernel
/-- R89: the destination of a shift may be its source; C is the last bit out. -/
theorem test_sar_sign : (sAfter { s := [(0, 0x80000001)] } (.sari here always 0 0 1) 0,
    (ends { s := [(0, 0x80000001)] } (.sari here always 0 0 1)).st) = (0xC0000000, 0x5#32) := by decide +kernel
/-- Table 3.7: NRM of 1 is 30. -/
theorem test_nrm : sAfter one2 (.nrm here always 3 1) 3 = 30 := by decide +kernel
theorem test_movhi_keeps_low : sAfter { s := [(4, 0x1234)] } (.movhi here always 4 0x8000) 4 = 0x80001234 := by decide +kernel
/-- R80: a disabled operation writes nothing, and the core goes on. -/
theorem test_disabled : ends one2 (.add here onP0 2 0 1) = passed one2 := by decide +kernel
/-- R99: with a divisor of zero a step shifts a 1 into SQ. -/
theorem test_divs_by_zero : sAfter { s := [(1, 5)] } (.divsU here always 0 1 2) 1 = 11 := by decide +kernel
/-- R98: a predicate write is on its way for a bundle. -/
theorem test_pseti_in_flight : (ends one2 (.pseti here always 1 0x8001)).p = [] ∧
    ((ends one2 (.pseti here always 1 0x8001)).flights.map (·.val)).sum = 2 := by decide +kernel
theorem test_cmpp_signed : ((ends { s := [(0, 0xFFFFFFFF)] } (.cmpp here always 0 2 0 1)).flights.map (·.val)).sum = 16 := by
  decide +kernel
/-- Table 2.6: a write of ST leaves IH. -/
theorem test_movr_st : (ends { s := [(0, 0xFFFFFFFF)] } (.movr here always 0x36 0)).st = 0xFFFFFF7F := by decide +kernel
/-- R93: three delay slots. -/
theorem test_br_turn : (ends one2 (.br here always 0 0xFFF)).turns = [(.jump 4095, 3)] := by decide +kernel
theorem test_call_saves : (ends { pc := 0xFFE } (.call here always 3)).ra = 2 := by decide +kernel
theorem test_end_idles : (after (exec (.slotNop here) (at0 (turning .endTask 1)))).fget (HRT_CORE_STATUS_STATE 0 0) = 1 := by
  decide +kernel
theorem test_rte_restores : let c := ends (turning .rte 1) (.slotNop here)
    (c.st, c.lc0, c.pc) = (5, 6, 9) := by decide +kernel
theorem test_jump_turns : (ends (turning (.jump 7) 1) (.slotNop here)).pc = 7 ∧
    (ends (turning (.jump 4096) 1) (.slotNop here)).pc = 1 ∧ (ends (turning (.jump 7) 2) (.slotNop here)).turns = [(.jump 7, 1)] := by
  decide +kernel
/-- R95: a repeat count of 0 skips the body, 65,536 runs it, 65,537 raises REPRULE (Table 2.14, code 7). -/
theorem test_rep_counts : (ends { s := [(1, 0)] } (.rep here always 9 true 1)).pc = 11 ∧
    (ends { s := [(1, 65536)] } (.rep here always 9 true 1)).lc0 = 65536 ∧
    excAfter { s := [(1, 65537)] } (.rep here always 9 true 1) = (5, 7 + 16) := by decide +kernel
theorem test_loop_back : (Core.loopBack { loopDue := true, lc0 := 2, loops := [⟨5, 6, false, 2, false⟩] }).pc = 5 ∧
    (Core.loopBack { loopDue := true, lc0 := 1, loops := [⟨5, 6, false, 2, false⟩] }).loops = [] := by decide +kernel
/-- R63: WAITE waits, or takes the pending lines of its mask. -/
theorem test_waite : (after (exec (.waite here always 4) (at0 one2))).fget (HRT_CORE_STATUS_STATE 0 0) = 3 ∧
    (ends { events := 6 } (.waite here always 4)).events = 2 := by decide +kernel
theorem test_xsig : ((after (exec (.xsig here always 7) (at0 one2))).core 0 7).events = 0x40 := by decide +kernel
/-- Table 2.14: TRAP 9, BRK 8, ILLEGAL 1, with the slot bits C 1, X 2, Y 4, V 8. -/
theorem test_trap : excAfter one2 (.trap here always) = (5, 9 + 16) := by decide +kernel
theorem test_brk : excAfter one2 (.brk here always) = (5, 8 + 16) ∧
    (after (exec (.brk here always) ((at0 one2).fset (HRT_CORE_CTRL_BRK_HALT 0 0) 1))).fget (HRT_CORE_STATUS_STATE 0 0) = 4 := by
  decide +kernel
theorem test_illegal : excAfter one2 (.waite here always 0) = (5, 1 + 16) ∧ excAfter one2 (.br here always 15 0) = (5, 1 + 16) ∧
    excAfter one2 (.vmov here wrong 0 0) = (5, 1 + 128) ∧ excAfter one2 (.ldW here always .y ⟨0x34, 0, 0, 0⟩) = (5, 1 + 64) := by
  decide +kernel
/-- R48, Table 2.3: ALIGN 2 and BUS 3 where a pointer stands at the boundaries; the lines at 0xBFF0 and 0x1FFF0 are there. -/
def pointing (v : BitVec 18) : Core := { x := [(0, v)] }
def vec0 : MemF := ⟨0, 0, 1, 0⟩
theorem test_access_bounds :
    excAfter (pointing 0xBFF0) (.ldV here always .x vec0) = (2, 0) ∧
    excAfter (pointing 0xBFF1) (.ldV here always .x vec0) = (5, 2 + 32) ∧
    excAfter (pointing 0xC000) (.ldV here always .x vec0) = (5, 3 + 32) ∧
    excAfter (pointing 0x1FFF0) (.ldV here always .x vec0) = (2, 0) ∧
    excAfter (pointing 0x1FFF0) (.stV here always .x vec0) = (5, 3 + 32) ∧
    excAfter (pointing 0x20000) (.stV here always .x vec0) = (2, 0) := by decide +kernel
theorem test_word_bounds :
    excAfter (pointing 0xBFFF) (.ldW here always .x vec0) = (2, 0) ∧
    excAfter (pointing 0x1FFEF) (.ldW here always .x vec0) = (5, 3 + 32) ∧
    excAfter (pointing 0x1FFFF) (.stW here always .x vec0) = (5, 3 + 32) ∧
    excAfter (pointing 1) (.ldD here always .x vec0) = (5, 2 + 32) := by decide +kernel
/-- R47, Table 2.3: a store puts the word where its bus address stands; its load reads it back. -/
theorem test_store_load : let t := after (exec (.stW here always .x ⟨1, 0, 1, 0⟩) (at0 { x := [(0, 5)], s := [(1, 0xA1B2C3D4)] }))
    busWordAt t here .x 5 = 0xA1B2C3D4 := by decide +kernel
/-- R90: one correction at most; R91: reverse carry. -/
theorem test_pointer_steps : stepPtr 14 15 1 = 0 ∧ stepPtr 0 15 (-1) = 14 ∧ stepPtr 0x3FFFF 0 1 = 0 ∧
    (List.range 4).map (fun i => (fun p => stepReversed p 8 4)^[i] 0) = [0, 4, 2, 6] := by decide +kernel
/-- R51, R85: 0x80000000 squared and doubled in the complex product. -/
theorem test_cmul : let c : Core := { v := [(0, 0x80000000), (1, 0x80000000)] }
    ((ends c (.cmul here always 0 0 0)).flights.map (·.val)).take 2 = [0, BitVec.ofInt 72 (2 ^ 63)] := by decide +kernel
theorem test_mac_overflow : let c : Core := { acc := [(0, BitVec.ofInt 72 (2 ^ 71 - 1))], v := [(0, 1)] }
    (ends c (.mac here always 0 0 0)).flights.head?.map (·.val) = some (BitVec.ofInt 72 (-2 ^ 71)) ∧
    (after (exec (.mac here always 0 0 0) (at0 c))).on (HRT_CORE_STATUS_AOV_SEEN 0 0) = true := by decide +kernel
/-- R86: half rounds up, and SAT clips. -/
theorem test_ext_rounds : extractWord (BitVec.ofInt 72 (3 * 2 ^ 30)) 0 false = 2 ∧
    extractWord (BitVec.ofInt 72 (2 ^ 70)) 0 true = 0x7FFFFFFF := by decide +kernel
theorem test_vadd_clips : let c : Core := { v := [(0, 0x7FFFFFFF), (16, 1)] }
    (ends c (.vadd here always 2 0 1 true)).flights.head?.map (·.val) = some 0x7FFFFFFF#72 ∧
    (ends c (.vadd here always 2 0 1 false)).flights.head?.map (·.val) = some 0x80000000#72 := by decide +kernel
theorem test_vsar_rounds : let c : Core := { v := [(0, 3)] }
    (ends c (.vsar here always 2 0 true 1)).flights.head?.map (·.val) = some 2#72 := by decide +kernel
theorem test_vperm_rotate : let c : Core := { v := [(0, 7), (1, 8)] }
    ((ends c (.vperm here always 2 0 1 5)).flights.map (·.val)).getLast? = some 7#72 := by decide +kernel
/-- R98: VGET writes its scalar register four bundles on. -/
theorem test_vget_in_flight : (ends { v := [(3, 9)] } (.vget here always 1 0 3)).flights.map (·.val) = [9#72] := by decide +kernel
/-- Tables 3.1, 3.5 to 3.9: words written out bit by bit. -/
theorem test_decode_add : decodeCOp 0b000001_1_0_01_0011_0101_0110_0000000000#32 = some (.add 3 5 6) ∧
    slotPred 0b000001_1_0_01_0011_0101_0110_0000000000#32 = ⟨true, false, 1⟩ := by decide +kernel
theorem test_decode_br : decodeCOp 0b110000_0_0_00_0111_000000_101010101010#32 = some (.br 7 0xAAA) := by decide +kernel
theorem test_decode_ld : decodeMOp 0b000001_0_0_00_110001_101_01_00000000011#32 = some (.ldW ⟨0x31, 5, 1, 3⟩) := by decide +kernel
theorem test_decode_mac : decodeVOp 0b000001_0_0_00_10_01_0011_0100_0000000000#32 = some (.mac .real .add 2 3 4) := by decide +kernel
theorem test_decode_reserved : decodeCOp 0b000001_0_0_00_0011_0101_0110_0000000001#32 = none ∧
    decodeMOp 0b010000_0_0_00_0000000000000000000000#32 = none := by decide +kernel
theorem witness_SlotWordsDiffer : slotPred 0x04000000#32 = slotPred 0x04000000#32 ∧ decodeCOp 0x04000000#32 = some (.add 0 0 0) := by
  decide +kernel

/-! ## Host commands (Table 13.5: OK 0, LATE 1, FAR 2, ABORTED 3, NOT_RUNNING 4, CONFLICT 5, INVALID 6, IDLE 7, UNKNOWN 8,
HOSTERR 9) -/

/-- Status and reason of the completion that a command brings at once; 99 where it waits. -/
def cpl (i : Instr) (s : State) : Nat × Nat := match (after (exec i s)).hif.cpls.getLast? with
  | some e => (e.status, e.reason)
  | none => (99, 0)

def now : Hdr := {}
def when' (n : Nat) (late : Bool) : Hdr := { execAt := BitVec.ofNat 64 n, late := late }

theorem serving : Serving running := ⟨by decide +kernel, by decide +kernel, ⟨rfl, rfl, rfl⟩, rfl, by decide +kernel⟩
theorem witness_CommandTiming : Serving running := serving
theorem witness_UnknownCommands : Serving running := serving
theorem witness_TickLength : Serving running ∧ now.execAt = asap ∧ (3#8).toNat ≤ 3 := ⟨serving, rfl, by decide⟩
theorem witness_SlotRouting : Serving running ∧ now.execAt = asap ∧ 1 ≤ (8192#16).toNat ∧ (8192#16).toNat ≤ 8192 :=
  ⟨serving, rfl, by decide, by decide⟩
theorem witness_ImagesComeAndGo : Serving running ∧ now.execAt = asap := ⟨serving, rfl⟩
theorem witness_ProgramsSwap : Serving running ∧ now.execAt = asap := ⟨serving, rfl⟩
theorem witness_MixCommands : Serving running ∧ now.execAt = asap ∧ (3#8).toNat ≤ 3 ∧ (1#8).toNat ≤ 1 ∧
    (0x100000#32).toNat ≤ 2 ^ 20 := ⟨serving, rfl, by decide, by decide, by decide⟩
theorem witness_PortCommands : Serving running ∧ now.execAt = asap ∧ (1#8).toNat ≤ 1 := ⟨serving, rfl, by decide⟩
theorem witness_FlueCommands : Serving running ∧ now.execAt = asap := ⟨serving, rfl⟩
theorem witness_StreamCommands : Serving running ∧ now.execAt = asap ∧ (1#8).toNat ≤ 1 := ⟨serving, rfl, by decide⟩

/-- R25 to R29: at its tick start a NOP for n or for now takes effect, one for a later sample waits, of the past it is late; the span
ends at n + 2^31. -/
theorem test_nop_timing :
    cpl (.hostNop now) running = (0, 0) ∧ cpl (.hostNop (when' 4096 false)) running = (0, 0) ∧
    cpl (.hostNop (when' 4103 false)) running = (99, 0) ∧ cpl (.hostNop (when' 4104 false)) running = (99, 0) ∧
    cpl (.hostNop (when' 4095 false)) running = (1, 0) ∧ cpl (.hostNop (when' (4096 + 2 ^ 31) false)) running = (99, 0) ∧
    cpl (.hostNop (when' (4097 + 2 ^ 31) false)) running = (2, 0) ∧
    cpl (.hostNop (when' 5000 false)) (running.fset SCH_STATUS_N_VALID 0) = (4, 0) := by decide +kernel
theorem test_nop_late : (after (exec (.hostNop (when' 1 true)) running)).rd SCH_LATE_CNT = 1 := by decide +kernel
/-- R343: values that no code defines. -/
theorem test_unknown :
    cpl (.setTick now 4) running = (8, 0) ∧ cpl (.slotCfg now 0 0 0) running = (8, 0) ∧ cpl (.slotCfg now 0 8193 0) running = (8, 0) ∧
    cpl (.swapProgram now 0 2) running = (8, 0) ∧ cpl (.paramSwap now 0 0) running = (8, 0) ∧
    cpl (.mixWrite now 4 0 0 0 0) running = (8, 0) ∧ cpl (.mixDamp now 0 0 0 0 0 0x100001) running = (8, 0) ∧
    cpl (.portMute now 0 0 2) running = (8, 0) ∧ cpl (.decFreeze now 0 2) running = (8, 0) ∧
    cpl (.streamStats now 0 2 0 0 0) running = (8, 0) ∧ cpl (.loadImage (when' 5000 false) 0 0 0) running = (8, 0) := by decide +kernel
/-- R36: at a multiple of the longer tick the change takes place now, else at the next one. -/
def midTick : State := running.set64 SCH_N 4104
theorem test_set_tick : (after (exec (.setTick now 3) running)).tlen = 32 ∧ cpl (.setTick now 3) running = (0, 0) ∧
    (after (exec (.setTick now 3) midTick)).get64 SCH_SEAM_N = 4128 ∧ (after (exec (.setTick now 3) midTick)).tlen = 8 := by
  decide +kernel

/-- Hearth 0 in cluster 0 runs an image of 32-sample ticks with one parameter block. -/
def block0 : Param := ⟨0, 0x1000, 0x20000, 0x20100, 8, false⟩
def withImage : State :=
  ((setRole running 0 0 0).fset (HRT_IMG_STATE_STATE 0) 5).setCluster 0 { image := some { id := 77, tMask := 2, params := [block0] } }
theorem test_set_tick_refused : cpl (.setTick now 3) withImage = (5, 0) ∧ cpl (.setTick now 1) withImage = (0, 0) := by decide +kernel
/-- R33: eight slots past the end conflict; R8: only the defined fields are written. -/
def hostWord (a v : Nat) (s : State) : State := { s with hostMem := Memory.wr32 s.hostMem a (BitVec.ofNat 32 v) }
theorem test_slot_cfg : cpl (.slotCfg now 8191 2 64) running = (5, 0) ∧
    cpl (.slotCfg now 0 1 64) { running with hif := { running.hif with bad := [(64, 65)] } } = (9, 0) ∧
    (after (exec (.slotCfg now 2 1 64) (hostWord 64 0xFFFFFFFF running))).rd (SCH_SLOT_CFG 2) = 0x0FFF000F := by decide +kernel
/-- R105, Table 4.6: hearth numbers end at 23; an image of the wrong size is REJECTED with reason FORMAT. -/
theorem test_load_image : cpl (.loadImage now 24 0 0) running = (6, 0) ∧ cpl (.loadImage now 5 0 0) running = (5, 0) ∧
    cpl (.loadImage now 0 0 16) (setRole running 0 0 0) = (6, 1) ∧
    (after (exec (.loadImage now 0 0 16) (setRole running 0 0 0))).imgState 0 = 6 := by decide +kernel
theorem test_unload : cpl (.unloadProgram now 0) withImage = (0, 0) ∧
    (after (exec (.unloadProgram now 0) withImage)).imgState 0 = 0 ∧ cpl (.unloadProgram now 3) withImage = (0, 0) := by decide +kernel
def staged : State :=
  ((setRole withImage 1 2 0x1F).fset (HRT_IMG_STATE_STATE 1) 2).fset (HRT_IMG_STATE_LH 1) 0 |>.setCluster 1 { image := some { id := 78 } }
theorem test_discard : cpl (.discardImage now 0) staged = (0, 0) ∧ (after (exec (.discardImage now 0) staged)).role 1 = roleEmber := by
  decide +kernel
/-- R117: a swap that keeps the hearth running takes four ticks; a cold one changes the carrier at once. -/
theorem test_swap : cpl (.swapProgram now 0 0) staged = (99, 0) ∧ cpl (.swapProgram now 0 0) withImage = (7, 0) ∧
    cpl (.swapProgram now 0 1) staged = (0, 0) ∧ (after (exec (.swapProgram now 0 1) staged)).carrier 0 = some 1 ∧
    (after (exec (.swapProgram now 0 1) staged)).role 0 = roleEmber := by decide +kernel
/-- R113, R118: the bank that does not act, up to its last word. -/
theorem test_param_write : cpl (.paramWrite now 0 0 7 2 0) withImage = (5, 0) ∧ cpl (.paramWrite now 0 0 7 1 0) withImage = (0, 0) ∧
    cpl (.paramWrite now 0 1 0 1 0) withImage = (5, 0) := by decide +kernel
theorem test_param_swap : cpl (.paramSwap now 0 2) withImage = (5, 0) ∧
    (((after (exec (.paramSwap now 0 1) withImage)).cluster 0).image.map fun im => im.params.map (·.activeB)) = some [true] := by
  decide +kernel
/-- R142 to R147: the regions' last entries. -/
theorem test_mix_write : cpl (.mixWrite now 1 0 4095 1 0) running = (0, 0) ∧ cpl (.mixWrite now 1 0 4095 2 0) running = (5, 0) ∧
    cpl (.mixSwap now) running = (99, 0) ∧ cpl (.mixSwap now) (running.fset MIX_STATUS_SWAP_PEND 1) = (5, 0) := by decide +kernel
theorem test_mix_damp : cpl (.mixDamp now 0 262143 0x100 0 0 8) running = (0, 0) ∧ cpl (.mixDamp now 1 4096 0 0 0 0) running = (6, 0) := by
  decide +kernel
/-- R171 to R174: an AES3 port that makes its clock is ARMED; a TDM slave without a clock goes to LOST. -/
def aes0 : State := (running.fset (PRT_MODE_MODE 0) 2).fset (PRT_MODE_MODE 1) 1
theorem test_port_start : cpl (.portStart now 48) aes0 = (6, 0) ∧ cpl (.portStart now 2) aes0 = (6, 1) ∧
    (after (exec (.portStart now 0) aes0)).pst 0 = stArmed ∧ (after (exec (.portStart now 1) aes0)).pst 1 = stLost := by decide +kernel
theorem test_port_stop : cpl (.portStop now 0) aes0 = (0, 0) ∧
    (after (exec (.portStop now 0) (aes0.fset (PRT_STATUS_STATE 0) stArmed))).pst 0 = stOff ∧
    ((after (exec (.portStop now 0) (aes0.fset (PRT_STATUS_STATE 0) stRun))).port 0).stopN = some 4096 := by decide +kernel
/-- Channel 0 of port 0 goes through sample-rate converter 5. -/
def viaAsrc : State := aes0.wr (PRT_CH_MAP 0 0) (BitVec.ofNat 32 (2 ^ 13 + 2 ^ 14 + 5 * 2 ^ 16))
theorem test_port_mute : cpl (.portMute now 0 127 1) aes0 = (5, 0) ∧ cpl (.portMute now 0 128 1) aes0 = (6, 0) ∧
    ((after (exec (.portMute now 0 0 1) viaAsrc)).asrcCh 5).muted = true := by decide +kernel
theorem test_dec_freeze : cpl (.decFreeze now 192 1) running = (6, 0) ∧ cpl (.decFreeze now 191 1) running = (0, 0) ∧
    cpl (.decFreeze now 95 1) (running.fset (PRT_MODE_MODE 47) 4) = (5, 0) := by decide +kernel
/-- R212, R215, R216. -/
def flue0 : State := ((running.fset (PRT_MODE_MODE 0) 4).fset (SCH_SLOT_CFG_DOMAIN 0) 2).fset (FL_LIMIT_MOD_MAX 0) 0
theorem test_flue_enable : cpl (.flueEnable now 48) flue0 = (6, 0) ∧ cpl (.flueEnable now 1) flue0 = (6, 1) ∧
    (after (exec (.flueEnable now 0) flue0)).fst 0 = fArmed ∧ cpl (.flueEnable now 0) (flue0.fset FLT_STATUS_STATE 1) = (5, 0) := by
  decide +kernel
def flueIn (st : Nat) : State := flue0.fset (FL_STATUS_STATE 0) st
theorem test_flue_disable : cpl (.flueDisable now 0) (flueIn fLatched) = (5, 0) ∧
    ((after (exec (.flueDisable now 0) (flueIn fRun))).flue 0).offN = some 4096 ∧
    ((after (exec (.flueDisable now 0) (flueIn fWait))).flue 0).offN = some 4096 ∧
    ((after (exec (.flueDisable now 0) (flueIn fArmed))).flue 0).offN = some 4096 := by
  decide +kernel
theorem test_flue_clear : (after (exec (.flueClear now 0) (flueIn fLatched))).fst 0 = fOff ∧
    cpl (.flueClear now 0) (flueIn fRun) = (0, 0) := by decide +kernel
/-- R251, R256: transmit stream 3 carries two channels of domain 0, one sample a packet, on port 0 in mode 1. -/
def stream3 : State :=
  let a := txDescAddr 3
  let s := running.fset (NET_CFG_MODE 0) 1
  { s with mem := Memory.wrN s.mem a [3, 0, 2, 0, 1, 0, 0, 0, 0, 0, 9, 0, 0, 0, 0, 0, 14] }
theorem test_stream_start : cpl (.streamStart now 1 1024) stream3 = (6, 0) ∧ cpl (.streamStart now 1 2) stream3 = (6, 1) ∧
    cpl (.streamStart now 1 3) stream3 = (0, 0) ∧ ((after (exec (.streamStart now 1 3) stream3)).txs 3).state = 2 := by decide +kernel
theorem test_stream_stop : cpl (.streamStop now 1 3) stream3 = (0, 0) ∧
    ((after (exec (.streamStop now 1 3) (stream3.setTxs 3 { state := 2 }))).txs 3).stopN = some 4096 ∧
    ((after (exec (.streamStop now 1 3) (stream3.setTxs 3 { state := 1 }))).txs 3).state = 0 := by decide +kernel
theorem test_stream_write : cpl (.streamWrite now 1 3 0) (stream3.setTxs 3 { state := 2 }) = (5, 0) ∧
    Memory.rd (after (exec (.streamWrite now 0 1023 0) (hostWord 92 0xAB000000 running))).mem (netBase + 96 * 1023 + 95) = 0xAB := by
  decide +kernel
theorem test_stream_stats : cpl (.streamStats now 0 0 1023 2 0) running = (6, 0) ∧ cpl (.streamStats now 0 0 1023 1 0) running = (0, 0) := by
  decide +kernel
def lead : State := ((running.fset TWN_CFG_EN 1).fset TWN_STATUS_PAIR 3)
theorem test_twin_swap : cpl (.twinSwap now) running = (5, 0) ∧ cpl (.twinSwap now) lead = (99, 0) ∧
    ((after (exec (.twinSwap now) lead)).twin.handover.map (·.h)) = some (3072 * 5462) := by decide +kernel

/-! ## Cores, clusters, tasks and registers -/

def nxt (i : Instr) (s : State) : State := after (exec i s)

/-- Core 0 of cluster 0 in a state of Table 2.11. -/
def inState (st : Nat) (c : Core) : State := (running.fset (HRT_CORE_STATUS_STATE 0 0) st).setCore 0 0 c

/-- Events 1 and 3 pend and are enabled (R63), with interrupts on. -/
def eventful : Core := { st := 0x000A0040, events := 10, pc := 100, waitPc := 60 }
theorem witness_CoreEvents : 25 < 26 ∧ 7 < 8 ∧ ((inState 2 eventful).core 25 7).flights = [] ∧
    ((inState 2 eventful).core 0 0).loops = [] ∧ ((inState 2 eventful).core 0 0).loopDue = false := by decide +kernel
/-- R66: the lowest event is taken, at vector 4e; a core in WAIT returns to its WAITE. -/
theorem test_event_taken :
    let t := (nxt (.eventTaken 0 0) (inState 2 eventful)).core 0 0
    let u := (nxt (.eventTaken 0 0) (inState 3 { eventful with waitMask := 2 })).core 0 0
    (t.pc, t.epc, t.events, t.st) = (4, 100, 8, 0x000A0080) ∧ (u.pc, u.epc, u.events) = (12, 60, 2) := by decide +kernel
theorem test_event_waits : nxt (.eventTaken 0 0) (inState 4 eventful) = inState 4 eventful ∧
    nxt (.repLoopBack 0 0) (inState 2 { eventful with st := 0x000A00C0 }) = inState 2 { eventful with st := 0x000A00C0 } := by
  decide +kernel
/-- The last bundle of a body has been issued, in one repeat level and in two. -/
def looped (n : Nat) (two : Bool) : Core :=
  let l := (if two then [⟨1, 9, false, 0, false⟩] else []) ++ [⟨5, 6, false, 2, false⟩]
  { loopDue := true, lc0 := BitVec.ofNat 17 n, lc1 := BitVec.ofNat 17 n, loops := l }
theorem witness_RepeatLevels_tests : 25 < 26 ∧ 7 < 8 ∧ ((inState 2 (looped 2 false)).core 0 0).loopDue = true ∧
    ((inState 2 (looped 2 false)).core 0 0).loops = [⟨5, 6, false, 2, false⟩] ∧
    ((inState 2 (looped 2 true)).core 0 0).loops = [⟨1, 9, false, 0, false⟩, ⟨5, 6, false, 2, false⟩] ∧
    1 < ((inState 2 (looped 2 true)).core 0 0).lc1.toNat ∧ ((inState 2 (looped 1 true)).core 0 0).lc1.toNat ≤ 1 ∧
    ((inState 2 {}).core 0 0).loopDue = false := by decide +kernel
theorem test_rep_loop_back : ((nxt (.repLoopBack 0 0) (inState 2 (looped 2 false))).core 0 0).pc = 5 ∧
    ((nxt (.repLoopBack 0 0) (inState 2 (looped 1 true))).core 0 0).loops = [⟨1, 9, false, 0, false⟩] := by decide +kernel
/-- R73, R441: a halt needs debug level 2; the hearth of a LEAD is never halted. -/
def debugging (s : State) : State := s.fset SEC_DBG_STATUS_LEVEL 2
theorem test_halt : (nxt (.halt 0 0) (inState 2 {})).on (HRT_CORE_STATUS_HALT_REFUSED 0 0) = true ∧
    (nxt (.halt 0 0) (setRole (debugging (inState 2 {})) 0 roleHearth 0)).on (HRT_CORE_STATUS_HALT_REFUSED 0 0) = true ∧
    ((nxt (.halt 0 0) (setRole (debugging (inState 2 {})) 0 roleEmber 31)).core 0 0).haltReq = true := by decide +kernel
theorem test_halt_accepted : (nxt (.haltAccepted 0 0) (inState 2 { haltReq := true })).coreState 0 0 = 4 ∧
    ((nxt (.haltAccepted 0 0) (inState 3 { haltReq := true })).core 0 0).heldState = 3 ∧
    (nxt (.haltAccepted 0 0) (inState 2 {})).coreState 0 0 = 2 := by decide +kernel
theorem test_resume : (nxt (.resume 0 0) (inState 4 { heldState := 2 })).coreState 0 0 = 2 ∧
    (nxt (.resume 0 0) (inState 4 { heldState := 3, waitMask := 2, events := 2 })).coreState 0 0 = 2 ∧
    (nxt (.resume 0 0) ((inState 5 {}).fset (HRT_CORE_CTRL_HALT_ON_EXC 0 0) 1)).coreState 0 0 = 1 ∧
    (nxt (.resume 0 0) (inState 5 {})).coreState 0 0 = 5 := by decide +kernel
theorem test_step : ((nxt (.step 0 0) (inState 4 { heldState := 2, pc := 7 })).core 0 0).pc = 8 ∧
    (nxt (.step 0 0) (inState 4 { heldState := 2, pc := 7 })).coreState 0 0 = 4 ∧
    ((nxt (.step 0 0) (inState 4 { heldState := 1, pc := 7 })).core 0 0).pc = 7 := by decide +kernel

/-- Hearth 0 runs in cluster 0 with task 15 on core 7. -/
def task15 : Task := ⟨7, 15, 0x20, 0, 100⟩
def tasked (st : Nat) (c : Core) : State :=
  (((setRole running 0 roleHearth 0).fset (HRT_IMG_STATE_STATE 0) 5).fset (HRT_CORE_STATUS_STATE 0 7) st).setCore 0 7 c |>.setCluster 0
    { image := some { id := 1, tasks := [task15] } }
theorem witness_TasksAndZeroing : 0 < 26 ∧ 7 < 8 ∧ 15 < 16 ∧ taskOf (tasked 1 {}) 0 7 15 = some task15 ∧
    taskOf (tasked 1 {}) 0 7 14 = none := by decide +kernel
theorem test_mem_init : (nxt (.memInit 25) { calm with pwr := { calm.pwr with zeroing := [25] } }).pwr.zeroing = [] ∧
    Memory.rd (nxt (.memInit 25) { calm with
      pwr := { calm.pwr with zeroing := [25] }, mem := [(clusterBase 25, 1), (clusterBase 26 - 1, 2)] }).mem (clusterBase 26 - 1) = 0 ∧
    nxt (.memInit 25) calm = calm := by decide +kernel
/-- R106: a task starts on an idle core, stops the one that runs, and is missed by a halted core. -/
theorem test_tstart : (nxt (.tstart 0 7 15) (tasked 1 {})).coreState 0 7 = 2 ∧
    ((nxt (.tstart 0 7 15) (tasked 1 {})).core 0 7).pc = 0x20 ∧
    (nxt (.tstart 0 7 15) (tasked 2 {})).fget (HRT_TASK_STAT_STOPPED 0 7) = 1 ∧
    (nxt (.tstart 0 7 15) (tasked 4 {})).fget (HRT_TASK_STAT_MISSED 0 7) = 1 ∧
    (nxt (.tstart 0 7 15) (tasked 4 {})).coreState 0 7 = 4 := by decide +kernel
theorem test_budget : (nxt (.budget 0 7 15) (tasked 2 { task := some 15, ranThisTick := true })).fget (HRT_TASK_STAT_OVERRUN 0 7) = 1 ∧
    ((nxt (.budget 0 7 15) (tasked 2 { task := some 15, ranThisTick := true })).core 0 7).events = 16 ∧
    nxt (.budget 0 7 15) (tasked 2 { task := some 14, ranThisTick := true }) = tasked 2 { task := some 14, ranThisTick := true } := by
  decide +kernel

theorem witness_RegisterAccesses : blockDown calm GLB_SCRATCH = false ∧ GLB_SCRATCH < 2 ^ 24 ∧ GLB_SCRATCH % 4 = 0 ∧
    regAt 0xFFFFFC = none ∧ blockDown calm 0xFFFFFC = false ∧ blockDown calm (MBX_MSG 224 15) = false ∧
    blockDown calm (PRT_LEADIN 47) = false ∧ blockDown State.reset GLB_SCRATCH = true := by decide +kernel
theorem test_write_scratch : (nxt (.registerWrite .host GLB_SCRATCH 0x12345678) calm).rd GLB_SCRATCH = 0x12345678 ∧
    nxt (.registerWrite .host GLB_SCRATCH 1) State.reset = State.reset := by decide +kernel
theorem test_no_register : (nxt (.registerWrite .mgmt 0xFFFFFC 1) calm).fget (FLT_SRC_CNT_COUNT 2) = 1 ∧
    (nxt (.loRead .host 0xFFFFFC) { calm with readData := 9 }).readData = 0 := by decide +kernel
theorem test_locked : (nxt (.registerWrite .host (PRT_LEADIN 0) 9) (calm.fset (PRT_STATUS_STATE 0) stRun)).rd (PRT_LEADIN 0) = 0 ∧
    (nxt (.registerWrite .host (PRT_LEADIN 0) 0xFFFF0009) calm).rd (PRT_LEADIN 0) = 9 := by decide +kernel
theorem test_bad_access : (nxt (.badAccess .host 2 4 true) calm).fget (FLT_SRC_CNT_COUNT 2) = 1 ∧
    (nxt (.badAccess .host 4 8 false) { calm with readData := 9 }).readData = 0 := by decide +kernel
/-- R4: reading the low word latches the high word. -/
def counting : State := { calm with tmb := { calm.tmb with c := 0x7_00000009 } }
theorem test_pair_read : (nxt (.loRead .host TMB_CNT) counting).readData = 9 ∧
    (nxt (.loRead .host (TMB_CNT + 4)) { nxt (.loRead .host TMB_CNT) counting with tmb := {} }).readData = 7 := by decide +kernel
/-- R5: a count that a read clears. -/
theorem test_rc_read : (nxt (.rcRead .host (DEC_CNT 191)) (calm.wr (DEC_CNT 191) 5)).readData = 5 ∧
    (nxt (.rcRead .host (DEC_CNT 191)) (calm.wr (DEC_CNT 191) 5)).rd (DEC_CNT 191) = 0 := by decide +kernel
theorem test_peak_clr : (nxt .peakClr ((calm.fset MIX_RAMP_USE_PEAK 9).fset MIX_RAMP_USE_CUR 4)).fget MIX_RAMP_USE_PEAK = 4 ∧
    nxt .peakClr State.reset = State.reset := by decide +kernel

/-! ## Starting, ticks, rings, and counts that end -/

theorem witness_Starting : 2 ^ 64 - 1 < 2 ^ 64 ∧ State.reset.pwr.engineRst = true ∧ calm.pwr.engineRst = false ∧
    calm.loop = lFree ∧ calm.nValid = false ∧ calm.pwr.hifRst = false ∧ calm.on HIF_CTRL_EN = false ∧
    (advance (calm.fset SCH_CTRL_RUN 1) 5).on SCH_CTRL_RUN = true := by decide +kernel
theorem test_free_start : (nxt .freeStart calm).sch.freePend = true ∧ nxt .freeStart State.reset = State.reset ∧
    (nxt .freeStart (calm.fset REF_STATUS_LOOP lLocked)).fget (FLT_SRC_CNT_COUNT 2) = 1 := by decide +kernel
theorem test_run : (nxt .run calm).on SCH_CTRL_RUN = true ∧ (nxt .run running).fget (FLT_SRC_CNT_COUNT 2) = 1 := by decide +kernel
theorem test_n_valid_rise : (nxt (.nValidRise 7) (nxt .freeStart calm)).nValid = true ∧
    (nxt (.nValidRise 7) (nxt .freeStart calm)).fget TMB_MEDIA_STATUS_ANCHOR = 2 ∧ (nxt (.nValidRise 7) calm).nValid = false := by
  decide +kernel
/-- R39: the engine starts at a multiple of T. -/
def armed0 : State := (((calm.fset CLK_PWR_STATUS_STATE 1).fset SCH_CTRL_RUN 1).fset SCH_STATUS_N_VALID 1).set64 SCH_N 13
theorem test_engine_start : (nxt (.engineStart 9) armed0).running = true ∧ (nxt (.engineStart 9) armed0).n = 16 ∧
    (nxt (.engineStart 9) armed0).k = 2 ∧ (nxt (.engineStart 9) calm).running = false := by decide +kernel
/-- R336: a ring of 16 entries at a 4 KiB boundary, as Table 13.1 allows. -/
def ringsSet : State := ((List.range 5).foldl (fun u r => (u.set64 (HIF_RING_BASE r) 0x1000).fset (HIF_RING_SIZE_SIZE r) 16) calm)
theorem test_hif_enable : hifRun (nxt (.hifEnable 1) ringsSet) = true ∧ hifRun (nxt (.hifEnable 1) calm) = false ∧
    (nxt (.hifEnable 1) calm).on HIF_STATUS_CFG_ERR = true := by decide +kernel
theorem test_hif_disable : hifRun (nxt (.hifDisable 0) (nxt (.hifEnable 1) ringsSet)) = false ∧
    nxt (.hifDisable 0) State.reset = State.reset := by decide +kernel

def timedAt (c : Nat) : State := { running with tmb := { running.tmb with c := c } }
def over0 : State := { running with sch := { running.sch with ended := true } }
theorem witness_Ticks : 4096 < 2 ^ 64 ∧ 0 < 2 ^ 16 ∧ (advance (tickEnd over0) 4096).running = true ∧
    (advance (tickEnd calm) 4096).running = false ∧ (advance running 9).sch.ended = false ∧ running.sch.outDone = false ∧
    powerState (advance running 9) ≠ 1 ∧ powerState (advance (running.fset CLK_PWR_STATUS_STATE 1) 9) = 1 ∧
    hifRun calm = false ∧ good calm 5 = true ∧ good State.reset 5 = false := by decide +kernel
/-- In QUIET the ticks go on. -/
def quiet0 : State := running.fset CLK_PWR_STATUS_STATE 1
theorem test_tick_start : (nxt (.tickStart 4096) quiet0).n = 4104 ∧ (nxt (.tickStart 4096) quiet0).k = 513 ∧
    (nxt (.tickStart 4096) ((calm.fset SCH_STATUS_N_VALID 1).set64 SCH_N 4096)).n = 4104 := by decide +kernel
theorem test_output_phase : (nxt .outputPhase running).sch.outDone = true ∧ nxt .outputPhase calm = calm := by decide +kernel
def midway : State := { running with sch := { running.sch with ended := false } }
theorem test_tick_end : (nxt (.tickEnd 9) midway).sch.ended = true ∧ (nxt (.tickEnd 9) calm).tmb.c = 9 := by decide +kernel
/-- R339, R341, R343: an entry of zeros but EXEC_AT is a NOP that waits its turn; the doorbell block gives the tail. -/
def served : State :=
  let t := hostWord 0x800 1 ((nxt (.hifEnable 1) ringsSet).set64 HIF_DB_ADDR 0x800)
  hostWord 0x1008 0xFFFFFFFF (hostWord 0x100C 0xFFFFFFFF t)
theorem test_doorbell_fetch : (nxt .doorbellFetch served).hif.cmdHead = 1 ∧ ((nxt .doorbellFetch served).sch.held.map (·.op)) = [.nop] ∧
    nxt .doorbellFetch calm = calm := by decide +kernel
theorem test_nudge : (nxt (.nudge 0xFFFF 0) served).hif.cmdHead = 1 ∧ (nxt (.nudge 0 0) (hostWord 0x800 17 served)).hif.cmdHead = 0 := by
  decide +kernel
/-- R347: a frame with the metering ring full is dropped and its sequence number used. -/
def metering : State :=
  let t := nxt (.hifEnable 1) ringsSet
  { (t.fset HIF_MTR_CFG_EVERY 1).fset HIF_MTR_CFG_POINTS 1 with hif := { t.hif with mtrTicks := 1 } }
theorem test_meter_frame : (nxt .meterFrame metering).hif.mtrTail = 1 ∧ (nxt .meterFrame metering).hif.mtrSeq = 1 ∧
    (nxt .meterFrame { metering with hif := { metering.hif with mtrTail := 16 } }).fget HIF_CNT0_MTR_DROP = 1 ∧
    nxt .meterFrame calm = calm := by decide +kernel
/-- R461: grid instants stand at the multiples of 50,000 counts. -/
theorem test_grid_instant : (nxt .gridInstant calm).tmb.c = 50000 ∧ (nxt .gridInstant counting).tmb.c % 50000 = 0 ∧
    nxt .gridInstant State.reset = State.reset := by decide +kernel

theorem witness_CommandTiming_clauses : (running.sch.held.length < 4096 ∧ now.execAt = asap ∧ (timedAt 1).tmb.c ≠ (timedAt 1).sch.ck) ∧
    4096 ≤ { running with sch := { running.sch with held := List.replicate 4096 { hdr := now, op := .nop } } }.sch.held.length ∧
    (0xFFFF < 2 ^ 16 ∧ hifRun calm = false ∧ hifRun served = true ∧ served.on TWN_CFG_EN = false ∧
      served.hostBad (served.get64 HIF_DB_ADDR) 64 = false ∧ served.hostBad 0x1000 64 = false ∧
      Memory.rd32 served.hostMem 0x800 = served.hif.cmdHead + 1 ∧
      intakeStop { served with hif := { served.hif with tailOk := true, cplHead := 0 } } none = 0 ∧
      (List.range 64).all (fun j => Memory.rd served.hostMem (0x1000 + j) == if 8 ≤ j ∧ j < 16 then 0xFF else 0) = true) := by
  decide +kernel
theorem witness_Starting_meters : meterDue calm = false ∧ meterDue metering = true ∧
    ringCount metering.hif.mtrTail metering.hif.mtrHead < ringSize metering rMtr ∧
    metering.hostBad 0x1000 (meterBytes metering (phaseBit 0 16)).length = false ∧
    ringSize metering rMtr ≤ ringCount 16 metering.hif.mtrHead := by decide +kernel

/-- Damper x ramps from 0 to 256 over 8 samples. -/
def ramping (key step : Nat) : State :=
  let u := calm.fset MIX_RAMP_USE_CUR 1
  u.setDamper key ⟨0, some ⟨0, 256, 8, false, step, 0⟩⟩
theorem witness_CountedEnds : (4095 < if true = true then 4096 else 262144) ∧ (262143 < if false = true then 4096 else 262144) ∧
    511 < 512 ∧ 191 < 192 ∧ (ramping 266239 7).damper 266239 = ⟨0, some ⟨0, 256, 8, false, 7, 0⟩⟩ ∧
    calm.on MIX_STATUS_VALIDATING = false := by decide +kernel
theorem test_mix_validation : nxt .mixValidationDone running = running := by decide +kernel
theorem test_ramp_end : (nxt (.rampEnd true 4095) (ramping 266239 7)).damper 266239 = ⟨256, none⟩ ∧
    (nxt (.rampEnd true 4095) (ramping 266239 7)).fget MIX_RAMP_USE_CUR = 0 ∧
    nxt (.rampEnd true 4095) (ramping 266239 6) = ramping 266239 6 := by decide +kernel
def fading (up : Bool) (k : Nat) : State := (calm.setAsrc 511 { ramp := some (up, k, 32), after := 5 }).fset (ASR_CH_STATUS_STATE 511) 2
theorem test_mute_ramp_end : (nxt (.muteRampEnd 511) (fading true 31)).fget (ASR_CH_STATUS_STATE 511) = 3 ∧
    (nxt (.muteRampEnd 511) (fading false 31)).fget (ASR_CH_STATUS_STATE 511) = 5 ∧
    nxt (.muteRampEnd 511) (fading true 30) = fading true 30 := by decide +kernel
def unsettled (n : Nat) : State := (calm.fset (DEC_CH_STATUS_REMAIN 191) n).fset (DEC_CH_STATUS_UNSETTLED 191) 1
theorem test_unsettled_end : (nxt (.unsettledEnd 191) (unsettled 1)).on (DEC_CH_STATUS_UNSETTLED 191) = false ∧
    nxt (.unsettledEnd 191) (unsettled 2) = unsettled 2 := by decide +kernel

/-! ## Ports, flues, timebase, reference and network -/

/-- Port 0 in a mode of Table 6.2 and a state of Table 6.3. -/
def port0 (mode st : Nat) : State := (running.fset (PRT_MODE_MODE 0) mode).fset (PRT_STATUS_STATE 0) st
def frames (n : Nat) (s : State) : State := s.setPort 0 { s.port 0 with fifo := List.replicate n [] }
/-- `n` frames missed, and `n` frames to come that belong to the time before the port ran. -/
def missed (n : Nat) : State := (port0 1 3).setPort 0 { (port0 1 3).port 0 with miss := n }
def soon (n : Nat) : State := (port0 1 3).setPort 0 { (port0 1 3).port 0 with early := n }
theorem witness_ClockEvents : 47 < 48 ∧ 2 ^ 32 - 1 < 2 ^ 32 ∧ 1 < 2 ∧ 2 ^ 64 - 1 < 2 ^ 64 ∧ 2 ^ 17 - 1 < 2 ^ 17 ∧
    (List.replicate 24 (0 : Byte)).length = 24 ∧ [(127, (5 : W32))].all (fun e => decide (e.1 < 128)) = true ∧
    (port0 1 3).monitors 0 = true ∧ (port0 2 1).drives 0 = true ∧ rateLimits (port0 1 4) 0 8000 = true ∧
    rateLimits (port0 1 4) 0 7999 = false ∧ (port0 1 3).mode 0 = 1 ∧ (port0 1 3).on (PRT_MODE_NA_EN 0) = true ∧
    ((port0 1 3).fset (PRT_MODE_NA_EN 0) 0).on (PRT_MODE_NA_EN 0) = false ∧ (port0 3 3).mode 0 = 3 ∧
    ((port0 1 3).port 0).early = 0 ∧ ((soon 1).port 0).early = 1 ∧ ((missed 3).port 0).miss = 3 ∧
    ((port0 1 4).fset (PRT_STATUS_CLK_OK 0) 1).on (PRT_STATUS_CLK_OK 0) = true ∧ (port0 1 4).on (PRT_STATUS_CLK_OK 0) = false ∧
    (port0 2 3).mode 0 = 2 ∧ (0 : Byte).getLsbD 0 = false ∧ (∀ e ∈ chainChans (port0 1 3) 0, e.idx < 192) := by decide +kernel
theorem test_leadin_start : (nxt (.leadinStart 0) (port0 2 1)).pst 0 = 2 ∧ nxt (.leadinStart 0) (port0 1 1) = port0 1 1 := by
  decide +kernel
/-- R161, R184: four frames wait in ARMED and LOST; all are taken in RUN. -/
theorem test_port_frame : ((nxt (.portFrameReceive 0 [(0, 5)]) (frames 4 (port0 1 1))).port 0).fifo.length = 4 ∧
    ((nxt (.portFrameReceive 0 [(0, 5)]) (frames 4 (port0 1 3))).port 0).fifo.length = 5 ∧
    nxt (.portFrameReceive 0 [(0, 5)]) (port0 1 2) = port0 1 2 ∧
    ((nxt (.portFrameReceive 0 [(0, 5)]) (soon 1)).port 0).early = 0 := by decide +kernel
theorem test_slip : (nxt (.slip 0 true) (port0 1 3)).fget (PRT_CNT1_SLIP 0) = 1 ∧
    ((nxt (.slip 0 true) (port0 1 3)).port 0).fade = some (0, 0) ∧ nxt (.slip 0 true) (port0 1 4) = port0 1 4 := by decide +kernel
/-- R182: the fourth missing frame in a row is a lost clock. -/
theorem test_glitch : (nxt (.glitch 0 true) (missed 2)).fget (PRT_CNT0_GLITCH 0) = 1 ∧
    (nxt (.glitch 0 true) (missed 2)).pst 0 = 3 ∧ (nxt (.glitch 0 true) (missed 3)).pst 0 = 4 := by decide +kernel
theorem test_clock_lost : (nxt (.clockLost 0) ((port0 1 3).wr (PRT_RATE 0) 48000)).pst 0 = 4 ∧
    (nxt (.clockLost 0) ((port0 1 3).wr (PRT_RATE 0) 48000)).rd (PRT_RATE 0) = 0 ∧
    (nxt (.clockLost 0) (port0 1 4)) = port0 1 4 := by decide +kernel
theorem test_clock_recovered : (nxt (.clockRecovered 0 8000) (port0 1 4)).pst 0 = 3 ∧
    (nxt (.clockRecovered 0 8000) (port0 1 4)).rd (PRT_RATE 0) = 8000 ∧
    (nxt (.clockRecovered 0 7999) (port0 1 4)).pst 0 = 4 ∧
    (nxt (.clockRecovered 0 7999) (port0 1 4)).on (PRT_STATUS_RATE_ERR 0) = true := by decide +kernel
theorem test_aes_err : (nxt (.aesErr 0 1) (port0 2 3)).fget (PRT_CNT1_AES_ERR 0) = 1 ∧ nxt (.aesErr 0 1) (port0 2 4) = port0 2 4 := by
  decide +kernel
/-- R166: byte 4i + k of the block is byte k of word i. -/
def block24 : List Byte := 0 :: (List.range 23).map fun (i : Nat) => BitVec.ofNat 8 (i + 1)
theorem test_cs_block : (nxt (.csBlock 0 1 block24 9 0) (port0 2 3)).rd (PRT_CS_RX 0 1 5) = 0x17161514 ∧
    (nxt (.csBlock 0 1 (1 :: block24.drop 1) 9 0) (port0 2 3)).fget (PRT_CNT1_AES_ERR 0) = 1 := by decide +kernel

/-- Channel 0 of port 0 goes through converter 5, which is in a state of Table 6.5. -/
def conv (st : Nat) : State :=
  ((port0 2 3).wr (PRT_CH_MAP 0 0) (BitVec.ofNat 32 (2 ^ 13 + 2 ^ 14 + 5 * 2 ^ 16))).fset (ASR_CH_STATUS_STATE 5) st
def watching (n : Nat) : State :=
  let s := (((port0 2 3).fset (PRT_MODE_NA_EN 0) 1).wr (PRT_CH_MAP 0 0) 0x2000)
  s.setPort 0 { s.port 0 with rel := [(0, n)] }
def tdmWatch (n : Nat) : State := (watching n).fset (PRT_MODE_MODE 0) 1
theorem witness_LocksAndMutes : 47 < 48 ∧ 127 < 128 ∧ 511 < 512 ∧
    ((asrcChans (conv 1) 0).filter fun e => (conv 1).fget (ASR_CH_STATUS_STATE e.idx) == 1) ≠ [] ∧
    (naChans (watching 1) 0).contains 0 = true ∧ (naChans (watching 1) 0).contains 2 = false ∧ (watching 1).pst 0 = 3 ∧
    (watching 1).mode 0 = 2 ∧ (tdmWatch 1).mode 0 = 1 ∧ (naChans (tdmWatch 1) 0).contains 0 = true ∧
    ((asrcChans (conv 6) 0).filter fun e => decide (1 ≤ (conv 6).fget (ASR_CH_STATUS_STATE e.idx) ∧
      (conv 6).fget (ASR_CH_STATUS_STATE e.idx) ≤ 5)) = [] ∧ ((conv 2).asrcCh 5).muted = false ∧ ((conv 2).asrcCh 5).ramp = none ∧
    muteLen ((conv 1).fset (ASR_CH_CFG_MUTE_LEN 5) 0) 5 = 0 ∧ Tbl.get 0 ((watching 4096).port 0).rel 0 = 4096 ∧
    ((rxChans (watching 1) 0).find? fun e => e.c == 0).isSome = true ∧
    ((rxChans (watching 1) 0).find? fun e => e.c == 9) = none := by decide +kernel
theorem test_asrc_lock : (nxt (.asrcLock 0 0x1000) (conv 1)).rd (ASR_GRP_RATIO 0) = 0x1000 ∧
    (nxt (.asrcLock 0 0x1000) ((conv 1).fset (ASR_CH_CFG_MUTE_LEN 5) 0)).fget (ASR_CH_STATUS_STATE 5) = 3 ∧
    (nxt (.asrcLock 0 0x1000) ((conv 1).fset (ASR_CH_CFG_MUTE_LEN 5) 32)).fget (ASR_CH_STATUS_STATE 5) = 2 ∧
    (nxt (.asrcLock 0 0x1000) (conv 3)).rd (ASR_GRP_RATIO 0) = 0x1000 ∧
    nxt (.asrcLock 0 0x1000) (conv 6) = conv 6 := by decide +kernel
theorem test_acq_fail : (nxt (.acqFail 0) (conv 1)).on (ASR_CH_STATUS_ACQ_FAIL 5) = true ∧ nxt (.acqFail 0) (conv 3) = conv 3 := by
  decide +kernel
theorem test_track_err : (nxt (.trackErr 0) (conv 3)).fget (ASR_CH_STATUS_STATE 5) = 4 ∧
    (nxt (.trackErr 0) (conv 3)).on (ASR_CH_STATUS_TRACK_ERR 5) = true ∧ nxt (.trackErr 0) (conv 2) = conv 2 := by decide +kernel
theorem test_hold_expiry : (nxt (.holdExpiry 5) (conv 6)).fget (ASR_CH_STATUS_STATE 5) = 7 ∧
    nxt (.holdExpiry 5) (conv 7) = conv 7 := by decide +kernel
/-- R180: a preamble in one slot mutes that channel, a pair of them both; the channel status of an AES3 port mutes too. -/
theorem test_sync_match : (nxt (.syncMatch 0 0 ⟨false, false⟩) (watching 1)).on (naBit 0 0) = true ∧
    (nxt (.syncMatch 0 0 ⟨true, false⟩) (watching 1)).on (naBit 0 0) = true ∧
    (nxt (.syncMatch 0 2 ⟨false, false⟩) (watching 1)).on (naBit 0 2) = false ∧
    (nxt (.syncMatch 0 0 ⟨false, true⟩) (watching 1)).on (naBit 0 0) = true ∧
    nxt (.syncMatch 0 0 ⟨false, true⟩) (tdmWatch 1) = tdmWatch 1 := by decide +kernel
theorem test_na_release : (nxt (.naRelease 0 0) ((watching 4096).fset (naBit 0 0) 1)).on (naBit 0 0) = false ∧
    (nxt (.naRelease 0 0) ((watching 4095).fset (naBit 0 0) 1)).on (naBit 0 0) = true := by decide +kernel

/-- Flue 0 in a state of Table 8.6. -/
def flueAt (st : Nat) (f : Flue) : State := ((running.fset (PRT_MODE_MODE 0) 4).fset (FL_STATUS_STATE 0) st).setFlue 0 f
theorem witness_FlueEvents : 47 < 48 ∧ 5 < 6 ∧ 8191 < 8192 ∧ (List.replicate 8 ((0 : W64), (0 : W64))).length = 8 := by decide
/-- A flue in RUN with a disable due, and one with a full DC block that none fails. -/
def disabling : State := flueAt 3 { offN := some 0 }
theorem witness_boundary : ((disabling.flue 0).offN = some 0 ∧ 4096 * 0 ≤ (disabling.flue 0).q * per disabling 0) ∧
    ((disabling.on (FL_PROT_DC_EN 0) = false ∨ (disabling.flue 0).dcN < 1536) ∧ senseDue disabling 0 = false ∧
      shutdownDue disabling 0 = false) ∧
    (senseDue (flueAt 3 {}) 0 = false ∧ shutdownDue (flueAt 3 {}) 0 = false ∧ rampUpDue (flueAt 3 {}) 0 = false ∧
      rampDownDue (flueAt 3 {}) 0 = false ∧ stoppingDue (flueAt 3 {}) 0 = false ∧ retryDue (flueAt 3 {}) 0 = false ∧
      successDue (flueAt 3 {}) 0 = false) ∧
    (flueAt 3 { edges := (4, 9, 3, 8) }).fst 0 = 3 := by decide +kernel
/-- R212, R213: a disable takes RUN to RAMP_DOWN at its boundary; R205: a gate is off where its leg is not high, and all are off
in OFF. -/
theorem test_boundary : (nxt (.switchingPeriod 0) (disabling.fset (FL_CFG_RAMP 0) 1)).fst 0 = 4 ∧
    (nxt (.switchingPeriod 0) (flueAt 6 { offN := some 0, waitLeft := 9 })).fst 0 = 0 ∧
    (gateLevels ((flueAt 3 { edges := (4, 9, 3, 8) }).fset (FL_CFG_DT 0) 1) 0 5).1 = false ∧
    (gateLevels ((flueAt 3 { edges := (4, 9, 3, 8) }).fset (FL_CFG_DT 0) 1) 0 4).1 = true ∧
    gateLevels (flueAt 0 {}) 0 5 = (true, true, true, true) := by decide +kernel
def ramp1 (st n : Nat) : State := (flueAt st { periods := n }).fset (FL_CFG_RAMP 0) 1
/-- R213: a ramp of 1 ms lasts f_sw / 1,000 periods: 384 with the reset switching rate. -/
theorem test_ramp_up_end : (nxt (.rampUpEnd 0) (ramp1 2 (fsw (ramp1 2 0) 0 / 1000))).fst 0 = 3 ∧
    (nxt (.rampUpEnd 0) (ramp1 2 (fsw (ramp1 2 0) 0 / 1000 - 1))).fst 0 = 2 := by decide +kernel
theorem test_ramp_down_end : (nxt (.rampDownEnd 0) (ramp1 4 (fsw (ramp1 4 0) 0 / 1000))).fst 0 = 5 ∧
    (nxt (.rampDownEnd 0) (ramp1 4 0)).fst 0 = 4 := by decide +kernel
theorem test_stopping_end : (nxt (.stoppingEnd 0) (flueAt 5 { periods := 2, afterStop := 7 })).fst 0 = 7 ∧
    (nxt (.stoppingEnd 0) (flueAt 5 { periods := 1 })).fst 0 = 5 := by decide +kernel
/-- R220: eight eighths are blankedFlue from an edge where DT is 0 and BLANK 1. -/
def blankedFlue : State :=
  (((flueAt 3 { edges := (0, 100, 0, 0) }).fset (FL_CFG_DT 0) 0).fset (FL_CFG_BLANK 0) 1).fset (FL_CFG_TRIP_FILT 0) 2
def pol : Bool := blankedFlue.on (FL_CFG_TRIP_POL 0)
theorem test_trip : (nxt (.trip 0 ⟨8, pol, 3⟩) blankedFlue).fget (word (FL_TRIP_CNT 0)) = 1 ∧
    ((nxt (.trip 0 ⟨8, pol, 3⟩) blankedFlue).flue 0).edges = (0, 8, 0, 0) ∧ nxt (.trip 0 ⟨7, pol, 3⟩) blankedFlue = blankedFlue ∧
    nxt (.trip 0 ⟨8, pol, 2⟩) blankedFlue = blankedFlue ∧ nxt (.trip 0 ⟨8, !pol, 3⟩) blankedFlue = blankedFlue ∧
    nxt (.trip 0 ⟨8, pol, 9⟩) (flueAt 5 {}) = flueAt 5 {} := by decide +kernel
/-- R221, R222: four trips of T1 = 4 shut down; the flue waits, or latches with its retries used up. -/
def tripped (n : Nat) (w : W64) : State := ((flueAt 3 { window := w }).fset (FL_PROT_T1 0) 4).fset (FL_PROT_N_RETRY 0) n
theorem test_trip_rate : (nxt (.tripRateShutdown 0) (tripped 1 0xF)).fst 0 = 6 ∧ (nxt (.tripRateShutdown 0) (tripped 0 0xF)).fst 0 = 7 ∧
    (nxt (.tripRateShutdown 0) (tripped 1 7)).fst 0 = 3 := by decide +kernel
theorem test_retry : (nxt (.retry 0) (flueAt 6 { waitLeft := 0 })).fst 0 = 2 ∧
    (nxt (.retry 0) (flueAt 6 { waitLeft := 0 })).fget (FL_STATUS_RETRIES 0) = 1 ∧
    (nxt (.retry 0) (flueAt 6 { waitLeft := 1 })).fst 0 = 6 := by decide +kernel
def held (n : Nat) : State := (flueAt 3 { runPeriods := n }).fset (FL_STATUS_RETRIES 0) 2
theorem test_retry_success : (nxt (.retrySuccess 0) (held (2 * fsw (held 0) 0))).fget (FL_STATUS_RETRIES 0) = 0 ∧
    (nxt (.retrySuccess 0) (held (2 * fsw (held 0) 0 - 1))).fget (FL_STATUS_RETRIES 0) = 2 := by decide +kernel
/-- R223: the mean of a block must exceed the threshold. -/
def dcSum (x : Int) : State := ((flueAt 3 { dcSum := x, dcN := 1536 }).fset (FL_LIMIT_DC_THR 0) 1).fset (FL_PROT_DC_TIME 0) 1
theorem test_dc_block : (nxt (.dcBlock 0) (dcSum (-(1536 * 2 ^ 15 + 1)))).fst 0 = 5 ∧
    (nxt (.dcBlock 0) (dcSum (-(1536 * 2 ^ 15 + 1)))).fget (FL_STATUS_CAUSE 0) = 3 ∧
    (nxt (.dcBlock 0) (dcSum (1536 * 2 ^ 15))).fst 0 = 3 ∧ (nxt (.dcBlock 0) (dcSum (1536 * 2 ^ 15))).rd (FL_DC_MEAN 0) = 0x8000 := by
  decide +kernel
theorem test_sense_fault : (nxt (.senseFault 0 false) (flueAt 3 { runE := 4096 })).fst 0 = 5 ∧
    (nxt (.senseFault 0 false) (flueAt 3 { runE := 4096 })).fget (FL_STATUS_CAUSE 0) = 4 ∧
    (nxt (.senseFault 0 false) (flueAt 3 { runE := 4095, runF := 4095 })).fst 0 = 3 := by decide +kernel
/-- R218: the first sample sets the rail; each later one moves it by a 64th of the difference. -/
def loop0 (s : State) (g : W64) : State := nxt (.loopSample 0 g (List.replicate 8 (0, 0))) s
theorem test_loop_sample : (loop0 (flueAt 0 {}) 3).rd (FLU_GRP_RAIL 0) = 0x4000000 ∧
    (loop0 (loop0 (flueAt 0 {}) 3) 0).rd (FLU_GRP_RAIL 0) = 0x3F00000 ∧ ((loop0 calm 3).group 0).started = false := by decide +kernel
theorem test_switching_period : ((nxt (.switchingPeriod 0) (flueAt 3 {})).flue 0).periods = 1 ∧
    nxt (.switchingPeriod 0) calm = calm := by decide +kernel

theorem witness_TimebaseEvents : 2 < 3 ∧ 2 ^ 64 - 1 < 2 ^ 64 ∧ 2 ^ 17 - 1 < 2 ^ 17 ∧ blockDown calm (TMB_DOM_CTRL 2) = false ∧
    calm.on (TMB_DOM_CTRL_OWNER 0) = false ∧ (advance (calm.fset TMB_PPS_IN_CFG_EN 1) 7).on TMB_PPS_IN_CFG_EN = true := by decide +kernel
/-- At a multiple of 50,000 whose work is done, and at one whose work is not. -/
def onGrid (last : Nat) : State := { calm with tmb := { calm.tmb with c := 100000, lastGrid := last } }
theorem witness_grid : good calm 5 = true ∧ good State.reset 5 = false ∧ running.running = true ∧ calm.running = false ∧
    blockDown State.reset (TMB_DOM_CTRL 0) = true ∧ blockDown State.reset TMB_SNAP = true ∧ calm.sch.held = [] ∧
    (calm.dom 1).pend = none := by decide +kernel
theorem test_grid_next : (nxt .gridInstant (onGrid 50000)).tmb.c = 100000 ∧ (nxt .gridInstant (onGrid 100000)).tmb.c = 150000 := by
  decide +kernel
/-- R267, R268: management owns domains 0 and 1 after reset, the host domain 2. -/
theorem test_apply : (nxt (.apply .mgmt 0 0x12) calm).on (TMB_DOM_STATUS_PEND 0) = true ∧
    (nxt (.apply .host 0 0x12) calm).on (TMB_DOM_STATUS_REFUSED 0) = true ∧
    (nxt (.apply .host 2 0x12) calm).on (TMB_DOM_STATUS_PEND 2) = true := by decide +kernel
theorem test_cancel : (nxt (.cancel .mgmt 0 0x20) (nxt (.apply .mgmt 0 0x12) calm)).on (TMB_DOM_STATUS_PEND 0) = false ∧
    (nxt (.cancel .host 0 0x20) calm).on (TMB_DOM_STATUS_REFUSED 0) = true := by decide +kernel
theorem test_owner : (nxt (.owner .host 0 1) calm).on (TMB_DOM_CTRL_OWNER 0) = true ∧
    (nxt (.owner .mgmt 0 1) calm).on (TMB_DOM_CTRL_OWNER 0) = false ∧ (nxt (.owner .host 2 1) calm).on (TMB_DOM_CTRL_OWNER 2) = calm.on (TMB_DOM_CTRL_OWNER 2) := by
  decide +kernel
/-- R267: a SET to 5 s and 7 ns; the update takes place at the count after the write. -/
def toSet : State := nxt (.apply .mgmt 0 0x12) ((calm.set64 (TMB_DOM_SET_SEC 0) 5).fset (TMB_DOM_SET_NS_NS 0) 7)
theorem test_domain_update : (nxt (.domainUpdate 0) toSet).tmb.c = 1 ∧
    ((nxt (.domainUpdate 0) toSet).dom 0).base = (5000000007 * 65536) ∧ nxt (.domainUpdate 0) calm = calm := by decide +kernel
theorem witness_domainUpdate : (toSet.dom 0).pend = some ⟨1, none, some (5000000007 * 65536), none⟩ ∧ (toSet.dom 1).pend = none ∧
    (toSet.dom 2).pend = none ∧ good (toSet.fset CLK_GOOD_GOOD 0) 5 = false ∧ toSet.tmb.c < 1 ∧ toSet.sch.held = [] ∧
    toSet.ref.mediaSet = false := by decide +kernel
theorem test_go : (nxt .go (nxt (.domainUpdate 0) toSet)).get64 (TMB_DOM_SNAP_SEC 0) = 5 ∧
    (nxt .go (nxt (.domainUpdate 0) toSet)).rd (TMB_DOM_SNAP_NS 0) = 7 ∧ (nxt .go counting).get64 TMB_SNAP_CNT = 0x700000009 := by
  decide +kernel
/-- R282: a pulse is ignored within 0.5 s of the last one (250,000,000 counts), and where it is shorter than FILT × 10 ns. -/
def ppsLast (last : Nat) : State := { (calm.fset TMB_PPS_IN_CFG_EN 1).fset TMB_PPS_IN_CFG_FILT 1 with tmb := { calm.tmb with ppsInLast := some last } }
theorem test_pps_in : (nxt (.ppsIn 250000000 0 10) (ppsLast 0)).on TMB_PPS_IN_STATUS_NEW = true ∧
    (nxt (.ppsIn 250000000 0 10) (ppsLast 1)).fget TMB_PPS_IN_STATUS_IGN = 1 ∧
    (nxt (.ppsIn 250000000 0 9) (ppsLast 0)).fget TMB_PPS_IN_STATUS_IGN = 1 := by decide +kernel
def pulsing : State := ((calm.fset TMB_PPS_OUT_CFG_EN 1).fset TMB_PPS_OUT_CFG_SRC 0).setDom 0 { base := 65536000000000 }
theorem test_pps_out : (nxt (.ppsOut 9) pulsing).tmb.ppsOn = true ∧ (nxt (.ppsOut 9) pulsing).tmb.ppsLast = some 9 ∧
    (nxt (.ppsOut 9) calm).tmb.ppsOn = false := by decide +kernel

/-- Candidate 3 in a state of Table 11.2, with 11 free of any failure. -/
def linked : State := (calm.fset (NET_STATUS_LINK 1) 1).fset (REF_CAND_QIN_CLASS_SSM 3) 2
def cand3 (st : Nat) (s : State) : State := s.fset (REF_CAND_STATUS_STATE 3) st
theorem witness_ReferenceEvents : 14 < 15 ∧ 3 < 4 ∧ 2 ^ 64 - 1 < 2 ^ 64 ∧ 2 ^ 17 - 1 < 2 ^ 17 ∧
    [(14, (5 : W32))].all (fun e => decide (e.1 < 15)) = true ∧ ([(14, (5 : W32))].map (·.1)).Nodup ∧
    failReason linked 3 = none ∧ failReason calm 3 = some 1 ∧ blockDown calm REF_CTRL = false ∧
    calm.on REF_CTRL_OPEN = false ∧ (advance calm 7).cand 11 = {} := by decide +kernel
theorem test_media_index_set : (nxt (.mediaIndexSet 9) { linked with ref := { linked.ref with acqEdge := true } }).ref.mediaSet = true ∧
    (nxt (.mediaIndexSet 9) { linked with ref := { linked.ref with acqEdge := true } }).ref.mediaC = 9 ∧
    nxt (.mediaIndexSet 9) linked = linked := by decide +kernel
/-- R289: WTR_S seconds of 500,000,000 counts. -/
def waited (c : Nat) : State := let s := (cand3 2 linked).fset REF_SW_CFG_WTR_S 1
  { s with tmb := { s.tmb with c := c } }
theorem test_wtr : (nxt (.wtr 3) (waited 500000000)).fget (REF_CAND_STATUS_STATE 3) = 3 ∧
    nxt (.wtr 3) (waited 499999999) = waited 499999999 := by decide +kernel
/-- R300: without a history both candidates of a dispute are marked, with one the farther is out. -/
def disputing (hist : Nat) : State :=
  let s := (((linked.fset (NET_STATUS_LINK 0) 1).fset (REF_CAND_QIN_CLASS_SSM 2) 2).fset REF_STATUS_SEL 2).fset REF_STATUS_HIST_OK hist
  let s := (s.fset (REF_CAND_STATUS_STATE 2) 3).fset (REF_CAND_STATUS_STATE 3) 3
  (s.wr (REF_CAND_FREQ 3) 100).fset REF_DISP_CFG_DISP_S 1 |>.setCand 3 { dispS := 1 }
theorem test_dispute : (nxt (.dispute 3) (disputing 1)).fget (REF_CAND_STATUS_STATE 3) = 4 ∧
    (nxt (.dispute 3) (disputing 0)).on (REF_CAND_STATUS_DISPUTED 2) = true ∧
    (nxt (.dispute 3) (disputing 0)).fget (REF_CAND_STATUS_STATE 3) = 3 ∧ nxt (.dispute 3) linked = linked := by decide +kernel
/-- R298: a second whose every tick start was LOCKED joins the history. -/
def second (bad : Bool) (n : Nat) : State :=
  let s := linked.fset REF_STATUS_LOOP 2
  { s with ref := { s.ref with ySum := 60, yN := 3, yBad := bad, hist := List.replicate n 1 } }
theorem test_history_second : (nxt (.historySecond [(3, 5)]) (second false 59)).ref.hist.head? = some 20 ∧
    (nxt (.historySecond [(3, 5)]) (second false 59)).on REF_STATUS_HIST_OK = true ∧
    (nxt (.historySecond [(3, 5)]) (second true 59)).on REF_STATUS_HIST_OK = false ∧
    (nxt (.historySecond [(3, 5), (2, 6)]) (second true 59)).rd (REF_CAND_FREQ 3) = 5 := by decide +kernel
def acquiring (c : Nat) : State := let s := calm.fset REF_STATUS_LOOP 1
  { s with ref := { s.ref with lockAt := some 0 }, tmb := { s.tmb with c := c } }
theorem test_lock : (nxt .lock (acquiring 1000000000)).loop = 2 ∧ (nxt .lock (acquiring 999999999)).loop = 1 := by decide +kernel
theorem test_hist_clr : (nxt .histClr (second false 59)).ref.hist = [] ∧ nxt .histClr State.reset = State.reset := by decide +kernel
theorem test_susp_clr : (nxt .suspClr (cand3 4 linked)).fget (REF_CAND_STATUS_STATE 3) = 2 ∧
    (nxt .suspClr (cand3 3 linked)).fget (REF_CAND_STATUS_STATE 3) = 3 := by decide +kernel
/-- R294, R301: the write is clipped to 500 ppm. -/
theorem test_dco_ffo : (nxt (.dcoFfoWrite 0x7FFFFFFFFFFFFFFF) (calm.fset REF_CTRL_OPEN 1)).refY = 140737488355 ∧
    (nxt (.dcoFfoWrite 5) (calm.fset REF_CTRL_OPEN 1)).refY = 5 ∧ (nxt (.dcoFfoWrite 5) calm).refY = 0 := by decide +kernel
/-- R182, R291: an edge within a 16th of the period is in place; four missing periods lose the clock. -/
def wck (k : Cand) : State := (calm.fset (REF_CAND_AUX_RATE 11) 3).setCand 11 k
theorem test_word_clock_edge : ((nxt (.wordClockEdge 3 true 17 0) (wck { lastTs := some 0, period := 2 ^ 21, missing := 0 })).cand 11).missing = 0 ∧
    ((nxt (.wordClockEdge 3 true 18 0) (wck { lastTs := some 0, period := 2 ^ 21, missing := 0 })).cand 11).missing = 1 ∧
    ((nxt (.wordClockEdge 3 false 18 0) (wck { lastTs := some 0, period := 9, missing := 3 })).cand 11).missing = 4 ∧
    ((nxt (.wordClockEdge 3 true 16 0) (wck { lastTs := some 0, period := 2 ^ 21, missing := 4, inPlace := 15 })).cand 11).missing = 0 := by
  decide +kernel

theorem witness_wordClock : ((wck { lastTs := some 0, period := 2 ^ 21, missing := 3 }).cand 11).missing = 3 ∧
    (advance (wck { lastTs := some 0, period := 2 ^ 21, missing := 4, inPlace := 15 }) 16).cand 11 =
      { lastTs := some 0, period := 2 ^ 21, missing := 4, inPlace := 15 } ∧
    16 * (2 ^ 17 * 17 - 0) ≤ 17 * 2 ^ 21 ∧ 15 * 2 ^ 21 ≤ 16 * (2 ^ 17 * 15 - 0) ∧ ¬ 16 * (2 ^ 17 * 18 - 0) ≤ 17 * 2 ^ 21 := by decide +kernel
/-- R182, R291: an edge out of its place is ignored and counts as a missing period; the clock is lost at the fourth. -/
theorem test_edge_ignored : ((nxt (.wordClockEdge 3 true 18 0) (wck { lastTs := some 0, period := 2 ^ 21, missing := 3 })).cand 11).lastTs = none ∧
    ((nxt (.wordClockEdge 3 true 18 0) (wck { lastTs := some 0, period := 2 ^ 21, missing := 0 })).cand 11).lastTs = some 0 := by
  decide +kernel
/-- R287, R289: a status read shows the rank, and the state AVAILABLE of candidate 15. R303: the active edge of a word clock output
stands where its period of 8,192, 4,096 or 2,048 counts begins. -/
theorem test_candidate_15 : (readWord calm .host (REF_CAND_STATUS 15)).2.toNat % 8 = 3 := by decide +kernel
def wcko (rate : Nat) : State := (calm.fset REF_WCKO_CFG_EN1 1).fset REF_WCKO_CFG_RATE1 rate
theorem test_wcko : wckoLevel (wcko 2) 1 2048 = some (!(wcko 2).on REF_WCKO_CFG_POL1) ∧
    wckoLevel (wcko 2) 1 2047 = some ((wcko 2).on REF_WCKO_CFG_POL1) ∧ wckoLevel (wcko 3) 1 0 = none ∧
    wckoLevel calm 1 0 = none := by decide +kernel

/-- Port 0 in mode 1 with a link; a broadcast frame of 64 bytes with its FCS. -/
def online : State := (running.fset (NET_CFG_MODE 0) 1).fset (NET_STATUS_LINK 0) 1
def frame60 (type : List Byte) : List Byte := List.replicate 6 0xFF ++ [2, 0, 0, 0, 0, 1] ++ type ++ List.replicate 46 0
def got (bs : List Byte) (ok : Bool) : State := nxt (.frameReceived 0 bs { fcsOk := ok } 9 0 0) online
theorem witness_FramesAndLinks : 5 < 6 ∧ 2 ^ 64 - 1 < 2 ^ 64 ∧ 2 ^ 17 - 1 < 2 ^ 17 ∧ 65535 < 2 ^ 16 ∧ (advance online 9).link 0 = true ∧
    0 ∉ online.pwr.nets ∧ ethOf (frame60 [8, 6]) = ⟨2 ^ 48 - 1, 0x020000000001, none, 0x806, 14⟩ ∧
    ptpOf (ethOf (frame60 [0x88, 0xF7])) (frame60 [0x88, 0xF7]) = some 14 := by decide +kernel
def ring5 (master : Nat) : State :=
  let s := ((running.fset (NET_CFG_MODE 5) 2).fset (NET_STATUS_LINK 5) 1).fset NET_CV_CFG_EN 1
  ((s.fset NET_CV_CFG_MASTER master).fset NET_CV_SIZE_C 1).fset (NET_STATUS_LINK 4) 1
/-- An ARP request for the port's own address. -/
def arp : List Byte := frame60 [8, 6] |>.take 14 |>.append ([0, 1, 8, 0, 6, 4, 0, 1] ++ [2, 0, 0, 0, 0, 1] ++ [10, 0, 0, 1] ++
  List.replicate 6 0 ++ [10, 0, 0, 2] ++ List.replicate 18 0)
def answering : State := online.wr (NET_IPV4 0) 0x0A000002
theorem witness_frame_clauses : (resolveAnswer answering 0 (ethOf arp) arp).isSome = true ∧
    resolveAnswer online 0 (ethOf (frame60 [9, 9])) (frame60 [9, 9]) = none ∧ addressed online 0 (ethOf (frame60 [8, 6])) = true ∧
    vlanOk online 0 (ethOf (frame60 [8, 6])) = true ∧ matchStream online 0 (ethOf (frame60 [8, 6])) (frame60 [8, 6]) = none ∧
    mgmtFrame (ethOf (frame60 [8, 6])) (frame60 [8, 6]) = true ∧ mgmtFrame (ethOf (frame60 [9, 9])) (frame60 [9, 9]) = false ∧
    ((ring5 1).fset (NET_CFG_CONVOY 5) 1).convoyPort 5 = true := by decide +kernel
/-- R235, Table 9.2: a frame that finds no staging buffer is counted (32), with the PCS errors that came (29). -/
theorem test_no_buffer :
    (nxt (.frameReceived 0 (frame60 [8, 6]) { pcs := 2, full := true } 9 0 0) online).get64 (NET_STAT_RX 0 32) = 1 ∧
    (nxt (.frameReceived 0 (frame60 [8, 6]) { pcs := 2, full := true } 9 0 0) online).get64 (NET_STAT_RX 0 29) = 2 ∧
    ((nxt (.frameReceived 0 (frame60 [8, 6]) { pcs := 2, full := true } 9 0 0) online).net 0).toMgmt = [] := by decide +kernel
/-- R234: management answers an ARP request for NET_IPV4 (RFC 826: operation 2). -/
theorem test_arp : (((nxt (.frameReceived 0 arp {} 9 0 0) answering).net 0).sent.map fun f => f.take 22) =
    [[2, 0, 0, 0, 0, 1, 0, 0, 0, 0, 0, 0, 8, 6, 0, 1, 8, 0, 6, 4, 0, 2]] := by decide +kernel
/-- Table 9.2: FCS error 24, undersize 25; R234: ARP goes to management, other frames are dropped (14). -/
theorem test_frame_received : (got (frame60 [8, 6]) false).get64 (NET_STAT_RX 0 24) = 1 ∧
    (got ((frame60 [8, 6]).dropLast) true).get64 (NET_STAT_RX 0 25) = 1 ∧
    ((got (frame60 [8, 6]) true).net 0).toMgmt = [(9, frame60 [8, 6])] := by decide +kernel
theorem test_frame_dropped : (got (frame60 [9, 9]) true).get64 (NET_STAT_RX 0 14) = 1 ∧
    (got (frame60 [0x88, 8, 0, 1]) true).get64 (NET_STAT_RX 0 7) = 1 ∧
    (got (frame60 [0x88, 8, 0, 2]) true).get64 (NET_STAT_RX 0 7) = 0 ∧
    (nxt (.frameReceived 0 (frame60 [8, 6]) {} 9 0 0) running).get64 (NET_STAT_RX 0 1) = 0 := by decide +kernel
theorem test_link_change : (nxt (.linkChange 0 true) (calm.fset (NET_CFG_MODE 0) 1)).link 0 = true ∧
    (nxt (.linkChange 0 false) online).link 0 = false ∧ nxt (.linkChange 0 true) calm = calm := by decide +kernel
/-- R231: mode 3 exists on N4 and N5 only. -/
theorem test_net_cfg_write : netMode (nxt (.netCfgWrite .host 4 3) calm) 4 = 3 ∧ netMode (nxt (.netCfgWrite .host 0 3) calm) 0 = 0 ∧
    (nxt (.netCfgWrite .host 0 3) calm).fget (FLT_SRC_CNT_COUNT 2) = 1 ∧ (nxt (.netCfgWrite .host 0 1) online).link 0 = false := by
  decide +kernel
def drowsy : State := (online.fset (NET_EEE_EN 0) 1).fset (NET_EEE_TW_SYS 0) 1
theorem test_lpi_entry : bit ((nxt (.lpiEntry ⟨0, false⟩) drowsy).fget (NET_STATUS_LPI 0)) 1 = true ∧
    bit ((nxt (.lpiEntry ⟨0, true⟩) drowsy).fget (NET_STATUS_LPI 0)) 0 = true ∧ nxt (.lpiEntry ⟨0, true⟩) online = online ∧
    nxt (.lpiEntry ⟨0, false⟩) online = online := by
  decide +kernel
theorem test_frame_from_management :
    ((nxt (.frameFromManagement 0 (frame60 [8, 6]) false false 0 9 0) online).net 0).sent = [frame60 [8, 6]] ∧
    (nxt (.frameFromManagement 0 (frame60 [8, 6]) false false 0 9 0) calm).get64 (NET_STAT_TX 0 25) = 1 := by decide +kernel

/-- Transmit stream 3 running, with sample 4096 of its two channels read. -/
def sending (x : Stream) : State := (stream3.fset (NET_STATUS_LINK 0) 1).setTxs 3 x
def word1 : JbWord := ⟨true, 0x11223344, false⟩
/-- C stands at `c`. -/
def timed (c : Nat) (s : State) : State := { s with tmb := { s.tmb with c := c } }
def ready3 : Stream := { state := 2, nextI := 2048, tx := [(256 * 2048, word1), (256 * 2048 + 1, word1)] }
/-- R259, R261: a caravan that the master sends is one its ring accepts, and the next node sends it on with a hop more. -/
def caravan : List Byte := ((nxt (.caravanSend 9) (ring5 1)).net 4).sent.headD []
theorem witness_PacketsAndCaravans : 1023 < 1024 ∧ 2 ^ 64 - 1 < 2 ^ 64 ∧ 2 ^ 17 - 1 < 2 ^ 17 ∧
    packetComplete ready3 (txDesc stream3 3) 2048 = true ∧ beforeStop ready3 (txDesc stream3 3) = true ∧
    ringRuns (ring5 1) = true ∧ cvMaster (ring5 1) = true ∧ cvMaster (ring5 0) = false ∧
    ((sending ready3).txs 3).state = 2 ∧ (txDesc (sending ready3) 3).fmt ≠ 4 ∧ 1 ≤ (txDesc (sending ready3) 3).p ∧
    aheadOf (sending ready3) 3 = [] ∧ sendPaths (sending ready3) (txDesc (sending ready3) 3) ready3 = [(0, false)] ∧
    (timed 10416 (sending ready3)).reached (4096 * 4098) = true ∧ 4096 * 4106 < fclkNow (timed 52085 (sending ready3)) ∧
    (ring5 1).reached (4096 * 4096) = true ∧ (ring5 1).convoy.sentK = none ∧ (macChecks (ring5 1) 5 caravan true).2 = true ∧
    cvFits (ring5 1) caravan 14 = true ∧ cvLate (timed 78126 (ring5 1)) 512 = false ∧
    cvLate (timed 78127 (ring5 1)) 512 = true ∧ (runningRx (ring5 1)).filter (fun j => (rxDesc (ring5 1) j).fmt == 4) = [] := by decide +kernel
/-- R242, R243, R247: a sample at 48 kHz is two of the count n, and the packet of index 2048 leaves where index 2049 begins, at n + 2
(10,416 2/3 counts of C after the tick's start); T samples later (at 10 × 5,208 1/3 counts) it is late. -/
theorem test_packet_due : ((nxt (.packetDue 3 10416 0) (sending ready3)).txs 3).nextI = 2049 ∧
    ((nxt (.packetDue 3 10416 0) (sending ready3)).net 0).sent.length = 1 ∧
    nxt (.packetDue 3 10415 0) (sending ready3) = timed 10415 (sending ready3) ∧
    ((nxt (.packetDue 3 10416 0) (sending { ready3 with stopN := some 4096 })).net 0).sent = [] ∧
    ((nxt (.packetDue 3 10416 0) (sending { ready3 with tx := [] })).txs 3).nextI = 2048 ∧
    ((nxt (.packetDue 3 52085 0) (sending ready3)).txs 3).dup = 1 ∧
    ((nxt (.packetDue 3 52085 0) (sending ready3)).net 0).sent = [] := by decide +kernel
theorem test_late_drop : ((nxt (.lateDrop 3 false) (timed 52085 (sending ready3))).txs 3).dup = 1 ∧
    ((nxt (.lateDrop 3 false) (timed 52085 (sending ready3))).txs 3).nextI = 2049 ∧
    nxt (.lateDrop 3 false) (timed 52084 (sending ready3)) = timed 52084 (sending ready3) ∧
    nxt (.lateDrop 3 true) (timed 52085 (sending ready3)) = timed 52085 (sending ready3) := by decide +kernel
theorem test_take_point : nxt (.takePoint 3) calm = calm ∧ ((nxt (.takePoint 3) (running.setRxs 3 { state := 2 })).rxs 3).state = 2 := by
  decide +kernel
theorem test_caravan_send : ((nxt (.caravanSend 9) (ring5 1)).net 4).sent.length = 1 ∧
    (nxt (.caravanSend 9) (ring5 1)).fget NET_CV_CNT_LOST = 1 ∧ ((nxt (.caravanSend 9) (ring5 0)).net 4).sent = [] := by decide +kernel
theorem test_caravan_received : (nxt (.caravanReceived caravan true 9) (ring5 1)).on NET_CV_STATUS_RING = true ∧
    ((nxt (.caravanReceived caravan true 9) (ring5 0)).net 4).sent.map (fun f => f[29]?) = [some 1] ∧
    (nxt (.caravanReceived caravan true 78127) (ring5 1)).fget NET_CV_CNT_LATE = 1 ∧
    (nxt (.caravanReceived (frame60 [0x88, 0xB5]) true 9) (ring5 1)).get64 (NET_STAT_RX 5 33) = 1 := by decide +kernel
def silent (n : Nat) : State := { (ring5 1).fset NET_CV_STATUS_RING 1 with convoy := { silent := n } }
theorem test_ring_down : (nxt .ringDown (silent 4)).on NET_CV_STATUS_RING = false ∧ nxt .ringDown (silent 3) = silent 3 := by
  decide +kernel

/-! ## Embers, twins, mailboxes and the matrix -/

/-- Cluster 0 carries hearth 0; cluster 1 is an ember that joins it. -/
def joined1 : State :=
  let s := ((setRole (setRole running 0 roleHearth 0) 1 roleEmber 0).fset (HRT_IMG_STATE_STATE 0) 5)
  { s.setCluster 1 { joinAt := some 3 } with mem := [(clusterBase 0 + 0x47FFFF, 7)] }
def slotAt (phase tick : Nat) (role : Nat) : State :=
  let s := (setRole joined1 1 role 0).fset EMB_STATUS_PHASE phase
  let s := ((s.fset EMB_STATUS_SLOT_TICK tick).fset EMB_CFG_ROT_EN 1).fset EMB_CFG_ROT_TICKS 256
  { s.fset EMB_CFG_BIST_TICKS 4 with ember := { s.ember with slotOn := true } }
def testing (n : Nat) : State := { setRole joined1 1 roleTest 31 with ember := { tests := [⟨0, 0, [1], n⟩] } }
theorem witness_EmberEvents : 25 < 26 ∧ (∀ x ∈ [25], x < 26) ∧ joined1.carrier (joined1.lhOf 1) = some 0 ∧
    (joined1.cluster 1).joinAt ≠ none ∧ Memory.wf joined1.mem = true := by decide +kernel
theorem test_background_copy : Memory.rd (nxt (.backgroundCopyDone 1) joined1).mem (clusterBase 1 + 0x47FFFF) = 7 ∧
    nxt (.backgroundCopyDone 0) joined1 = joined1 := by decide +kernel
/-- R310: a slot has ROT_TICKS ticks, 256 at the least. -/
theorem test_shadow_slot_end : (nxt .shadowSlotEnd (slotAt 2 255 roleEmber)).ember.slotOn = false ∧
    (nxt .shadowSlotEnd (slotAt 2 254 roleEmber)).ember.slotOn = true := by decide +kernel
theorem test_bist_end : (nxt (.bistEnd [1]) (slotAt 0 3 roleTest)).role 1 = roleRetired ∧
    (nxt (.bistEnd []) (slotAt 0 3 roleTest)).fget (EMB_HLTH_BIST_PASS 1) = 1 ∧
    (nxt (.bistEnd [1]) (slotAt 0 2 roleTest)).role 1 = roleTest := by decide +kernel
/-- R312: an ember that fails is retired; where none fails the verdict is open. -/
theorem test_targeted : (nxt (.targetedSelfTest false [1]) (testing 64)).role 1 = roleRetired ∧
    (nxt (.targetedSelfTest false []) (testing 64)).fget EMB_CNT_UNDECIDED = 1 ∧
    (nxt (.targetedSelfTest false [1]) (testing 63)).role 1 = roleTest := by decide +kernel

/-- Two chips whose pair is in a state of Table 12.6; role 0 leads. -/
def paired (pair role : Nat) (t : Twin) : State :=
  let s := ((running.fset TWN_CFG_EN 1).fset TWN_STATUS_PAIR pair).fset TWN_STATUS_ROLE role
  { s.fset TWN_STATUS_LANE_UP 3 with twin := t }
theorem witness_PairForms : 1 < 2 ∧ 2 ^ 64 - 1 < 2 ^ 64 ∧ blockDown (paired 3 0 {}) TWN_CTRL = false := by decide +kernel
theorem witness_join_item : PRT_MODE 47 % 4 = 0 ∧ PRT_MODE 47 / 0x10000 ≠ 5 ∧ PRT_MODE 47 / 0x10000 ≠ 6 ∧ PRT_MODE 47 / 0x10000 ≠ 0xE ∧
    (calm.wr (PRT_MODE 47) 4).mode 47 = 4 ∧ calm.mode 47 ≠ 4 := by decide +kernel
/-- R202, R228: a port that a JOIN puts in mode FLUE has its sense chains. -/
theorem test_join_flue : (joinItem calm (.reg (PRT_MODE 47) 4)).on (DEC_CH_STATUS_RUN 95) = true := by decide +kernel
theorem test_twin_link_up : (nxt (.twinLinkUp false) (paired 0 1 {})).pair = 1 ∧
    (nxt (.twinLinkUp false) (paired 0 1 {})).fget TWN_STATUS_ROLE = 0 ∧
    (nxt (.twinLinkUp true) ((paired 0 0 {}).fset SCH_STATUS_ENGINE_RUN 0)).fget TWN_STATUS_ROLE = 1 ∧
    (nxt (.twinLinkUp false) (paired 3 1 {})).pair = 3 := by decide +kernel
/-- R318: the join tick is at least two ticks ahead. -/
theorem test_join_copy_done : (nxt (.joinCopyDone 514) (paired 1 0 {})).twin.joinTick = some 514 ∧
    (nxt (.joinCopyDone 513) (paired 1 0 {})).twin.joinTick = none := by decide +kernel
theorem test_join_tick : (nxt .joinTick (paired 1 0 { joinTick := some 512 })).pair = 2 ∧
    (nxt .joinTick (paired 1 0 { joinTick := some 513 })).pair = 1 := by decide +kernel
theorem test_settled : (nxt .settled (paired 2 0 { agree := 64 })).pair = 3 ∧ (nxt .settled (paired 2 0 { agree := 63 })).pair = 2 := by
  decide +kernel
theorem test_join_fail : (nxt .joinFail (paired 2 0 { inPair := 65536 })).pair = 5 ∧
    (nxt .joinFail (paired 2 0 { inPair := 65536 })).fget TWN_STATUS_WHY = 4 ∧
    (nxt .joinFail (paired 2 0 { inPair := 65535 })).pair = 2 := by decide +kernel
theorem test_dispute_cleared : (nxt .disputeCleared (paired 4 0 { agree := 4096 })).pair = 3 ∧
    (nxt .disputeCleared (paired 4 0 { agree := 4095 })).pair = 4 := by decide +kernel
theorem test_join : (nxt (.join [.reg GLB_SCRATCH 9]) (paired 1 1 {})).rd GLB_SCRATCH = 9 ∧
    (nxt (.join [.reg GLB_SCRATCH 9]) (paired 1 0 {})).rd GLB_SCRATCH = 0 := by decide +kernel
theorem test_detach : (nxt .detach (paired 3 1 {})).pair = 5 ∧ (nxt .detach (paired 3 0 {})).pair = 3 := by decide +kernel
theorem test_rejoin : (nxt .rejoin (paired 5 1 {})).pair = 1 ∧ (nxt .rejoin (paired 4 1 {})).pair = 4 := by decide +kernel
theorem test_clr_dispute : (nxt .clrDispute (paired 4 0 {})).pair = 3 ∧ (nxt .clrDispute (paired 4 1 {})).pair = 4 := by decide +kernel
/-- Table 12.6: a LEAD in step goes on alone and fences, a SHADOW takes the lead. -/
theorem test_peer_lost : (nxt (.peerLost 9) (paired 3 1 {})).fget TWN_STATUS_ROLE = 0 ∧
    (nxt (.peerLost 9) (paired 3 0 {})).twin.fenceAt.isSome = true ∧ (nxt (.peerLost 9) (paired 2 0 {})).pair = 0 ∧
    (nxt (.peerLost 9) (paired 2 1 {})).pair = 5 := by decide +kernel
theorem test_lane_change : (nxt (.twinLaneChange 1 false) (paired 3 0 {})).fget TWN_STATUS_LANE_UP = 1 ∧
    (nxt (.twinLaneChange 1 true) (paired 3 0 {})).fget TWN_STATUS_LANE_UP = 3 := by decide +kernel

/-- Tick records of tick 512: signatures of class 0 that differ have `sig`. -/
def rec0 (sig : W64) (fromLead : Bool) (ev : BitVec 27) : TickRec :=
  { k := 512, fromLead := fromLead, sigs := sig :: List.replicate 26 0, evidence := ev }
def inStep (role : Nat) (ev : BitVec 27) : State := paired 3 role { record := some (rec0 0 (role == 0) ev), awaiting := true }
theorem witness_PairRuns : 1023 < 1024 ∧ (inStep 0 0).twin.record = some (rec0 0 true 0) ∧ (inStep 0 0).twin.awaiting = true := by
  decide +kernel
/-- R322 to R326: equal records agree; of two that differ, evidence convicts, and none is a dispute. -/
theorem test_tick_record : (nxt (.tickRecord (rec0 0 false 0)) (inStep 0 0)).twin.agree = 1 ∧
    (nxt (.tickRecord (rec0 5 false 0)) (inStep 0 0)).pair = 4 ∧
    (nxt (.tickRecord (rec0 5 false 0)) (inStep 0 0)).fget TWN_CNT0_MISMATCH = 1 ∧
    (nxt (.tickRecord (rec0 5 true 0)) (inStep 1 1)).pair = 5 := by decide +kernel
theorem test_tick_record_late : (nxt .tickRecordLate (inStep 0 0)).fget TWN_CNT1_LATE_REC = 1 ∧
    nxt .tickRecordLate (paired 3 0 {}) = paired 3 0 {} := by decide +kernel
theorem test_arrive : ((nxt (.arrive 1023 [7]) ((paired 3 0 {}).setRxs 1023 { state := 2 })).rxs 1023).peer = some [7] ∧
    nxt (.arrive 1023 [7]) running = running := by decide +kernel
theorem test_handover : (nxt (.handover 9) (paired 3 1 {})).twin.driving = true ∧ ((nxt (.handover 9) (paired 3 1 {})).twin.sent.map (·.take 5)) = [[5, 0, 8, 0, 0]] ∧
    nxt (.handover 9) (paired 5 1 {}) = paired 5 1 {} := by decide +kernel
def asked (sends : Nat) (acked : Bool) (why : Nat) : State := paired 3 0 { handover := some ⟨9, sends, acked, why⟩ }
/-- R325: an ACK counts for its H, and by H − 1 µs. -/
theorem test_ack :
    ((nxt (.ack 0x40000000) (paired 3 0 { handover := some ⟨0x40000000, 1, false, 3⟩ })).twin.handover.map (·.acked)) = some true ∧
    ((nxt (.ack 9) (asked 1 false 3)).twin.handover.map (·.acked)) = some false := by decide +kernel
theorem test_handover_instant : (nxt .handoverInstant (asked 1 true 3)).fget TWN_STATUS_ROLE = 1 ∧
    ((nxt .handoverInstant (asked 2 false 3)).twin.handover.map (·.sends)) = some 3 ∧
    (nxt .handoverInstant (asked 3 false 3)).fget TWN_STATUS_ROLE = 0 ∧ nxt .handoverInstant running = running := by decide +kernel
theorem test_wreset : nxt .wreset (calm.fset TWN_CFG_EN 1) = calm.fset TWN_CFG_EN 1 ∧ nxt .wreset running = running := by decide +kernel

theorem witness_Mailboxes : 1023 < 1024 ∧ 255 < 256 ∧ ([] : List W32).length ≤ 16 ∧ 7 < 8 ∧ blockDown calm (MBX_CTRL 0) = false ∧
    mayMail 0 0 = true ∧ isReader 0 1 = true ∧ receiverDown State.reset 0 = true := by decide +kernel
def posted : State := nxt (.send 0 16 [5, 6] 2 9) calm
theorem test_send : posted.on (MBX_STATUS_FULL 16) = true ∧ posted.rd (MBX_MSG 16 1) = 6 ∧ posted.fget (MBX_HDR1_CODE 16) = 9 ∧
    (nxt (.send 0 16 [7] 1 9) posted).rd (MBX_MSG 16 0) = 5 ∧ (nxt (.send 0 8 [7] 1 9) calm).on (MBX_STATUS_FULL 8) = false := by
  decide +kernel
theorem test_taken : (nxt (.taken 0x100 16) posted).on (MBX_STATUS_FULL 16) = false ∧
    (nxt (.taken 0x101 16) posted).on (MBX_STATUS_FULL 16) = true := by decide +kernel
/-- R358: 100 ms, the reset value of TMO_US, must have passed. -/
theorem test_timeout : (nxt (.timeout 16) { posted with tmb := { posted.tmb with c := posted.tmb.c + 50000000 } }).on ⟨MBX_STATUS 16, 3, 1⟩ = true ∧
    nxt (.timeout 16) posted = posted := by decide +kernel
theorem test_flushed : (nxt (.flushed 16) { posted with pwr := { posted.pwr with clusters := [0] } }).on ⟨MBX_STATUS 16, 4, 1⟩ = true ∧
    nxt (.flushed 16) posted = posted := by decide +kernel
theorem test_mbx_frame : (nxt (.mbxFrame 224 [5] 3 4 9 0) (paired 3 0 {})).rd (MBX_MSG 224 0) = 5 ∧
    (nxt (.mbxFrame 224 [5] 3 4 9 0) (paired 3 0 {})).fget (MBX_HDR0_SID 224) = 0x200 ∧
    (nxt (.mbxFrame 240 [5] 3 4 9 0) (paired 3 0 {})).mail.peerOut = [(240, 5)] := by decide +kernel

/-- Firmware runs, and box 0 holds a request of the host with this code and this first word after the token's. -/
def request (code arg : Nat) : State :=
  nxt (.send 0 0 [0x1234, BitVec.ofNat 32 arg] 16 (BitVec.ofNat 8 code)) (calm.fset MGT_BOOT_STATUS_STAGE 4)
/-- Status and token of the reply in box 8 (R364). -/
def reply8 (t : State) : Nat × Nat := ((t.rd (MBX_MSG 8 0)).toNat / 65536 % 256, (t.rd (MBX_MSG 8 0)).toNat % 65536)
theorem witness_ManagementRequests : 7 < 8 ∧ (request 1 0).on (MBX_STATUS_FULL 0) = true ∧ serviceUp (request 1 0) = true ∧
    (request 1 0).fget (MBX_HDR1_CODE 0) = 1 := by decide +kernel
theorem test_sensor_read : reply8 (nxt (.sensorRead 0) (request 1 0x010F00)) = (0, 0x1234) ∧
    reply8 (nxt (.sensorRead 0) (request 1 0x020F00)) = (2, 0x1234) := by decide +kernel
theorem test_log_read : reply8 (nxt (.logRead 0) (request 2 2)) = (2, 0x1234) ∧ reply8 (nxt (.logRead 0) (request 2 0)) = (0, 0x1234) := by
  decide +kernel
theorem test_log_level : (nxt (.logLevel 0) (request 3 7)).mgmt.ringLevel = 7 ∧ reply8 (nxt (.logLevel 0) (request 3 8)) = (2, 0x1234) := by
  decide +kernel
theorem test_update_activate : reply8 (nxt (.updateActivate 0) (request 0x11 0)) = (2, 0x1234) ∧
    nxt (.updateActivate 0) (request 0x10 0) = request 0x10 0 := by decide +kernel
theorem test_update_stage : nxt (.updateStage 0) calm = calm := by decide +kernel
theorem test_boot_status : reply8 (nxt (.bootStatus 0) (request 0x20 0)) = (0, 0x1234) ∧
    reply8 (nxt (.bootStatus 0) ((request 0x20 0).fset MGT_BOOT_STATUS_STAGE 5)) = (0, 0x1234) := by decide +kernel
theorem test_health : reply8 (nxt (.health 0) (request 0x28 25)) = (0, 0x1234) ∧ reply8 (nxt (.health 0) (request 0x28 26)) = (2, 0x1234) ∧
    reply8 (nxt (.health 0) ((request 0x28 25).fset MGT_BOOT_STATUS_STAGE 5)) = (4, 0x1234) := by decide +kernel
theorem test_ptp_cfg : reply8 (nxt (.ptpCfg 0) (request 0x30 0x0401)) = (0, 0x1234) ∧ reply8 (nxt (.ptpCfg 0) (request 0x30 0x0501)) = (2, 0x1234) := by
  decide +kernel
theorem test_reply_drop : nxt (.replyDrop 0) calm = calm ∧
    (nxt (.replyDrop 0) { calm with mgmt := { calm.mgmt with replies := [(8, 1, [5], 0)] } }).mgmt.replies = [] := by decide +kernel

/-- One line of ones written to, and read from, the first bytes of cluster 25. -/
def line1 (write : Bool) (master a : Nat) : Instr := .matrixGrant 25 [⟨master, 0, a, write, [BitVec.allOnes 512], false⟩]
theorem witness_MemoryEvents : 47 < 48 ∧ 0x26 < 0x27 ∧ clusterBase 25 < 2 ^ 40 ∧ clusterBase 25 % 64 = 0 ∧ memoryOk 0x33 = true ∧
    inRegs (clusterBase 25) = false ∧ populated calm (clusterBase 25) = some 25 ∧ targetDown calm 25 = false ∧
    writeRight calm 25 25 (clusterBase 25) = 0 ∧ writeRight calm 24 25 (clusterBase 25) = 1 ∧ heldBack calm 25 25 = false := by decide +kernel
theorem test_matrix_write : Memory.rd (nxt (line1 true 25 (clusterBase 25)) calm).mem (clusterBase 25 + 63) = 0xFF ∧
    Memory.rd (nxt (line1 true 25 (clusterBase 25)) calm).mem (clusterBase 25 + 64) = 0 ∧
    (nxt (line1 true 24 (clusterBase 25)) calm).mtx.errorResp = true := by decide +kernel
theorem test_matrix_read : (nxt (line1 false 24 (clusterBase 25)) { calm with mem := [(clusterBase 25 + 63, 0x80)] }).mtx.readData =
    [BitVec.twoPow 512 511] ∧ (nxt (line1 false 24 0xF000000000) calm).mtx.errorResp = true := by decide +kernel
theorem test_burst_reset : ((nxt (.burstReset 5) (calm.setTarget 25 { lock := some (5, 1) })).target 25).lock = none := by decide +kernel
theorem test_scrub : (nxt (.scrub 0x33) { calm with mtx := { ce := [mgmtBase] } }).mtx.ce = calm.mtx.ce ∧
    nxt (.scrub 0) (calm.fset MTX_SCRUB_CFG_EN 0) = calm.fset MTX_SCRUB_CFG_EN 0 := by decide +kernel
theorem test_scrub_lag : (nxt (.scrub 0x33) { calm with
      mtx := { scrubAt := [(0x33, 1)] }, tmb := { calm.tmb with c := 5000000001 } }).on MTX_SCRUB_STAT_LAG = true ∧
    (nxt (.scrub 0x33) { calm with
      mtx := { scrubAt := [(0x33, 1)] }, tmb := { calm.tmb with c := 5000000000 } }).on MTX_SCRUB_STAT_LAG = false := by decide +kernel
theorem test_remap : (nxt (.remap .mgmt 1) calm).on MTX_REMAP_REMAP = true ∧ (nxt (.remap .host 1) calm).on MTX_REMAP_REMAP = false := by
  decide +kernel
theorem test_ecc_inj : (nxt (.eccInjArm 1) (calm.fset SEC_DBG_STATUS_LEVEL 3)).rd MTX_ECC_INJ = 1 ∧
    (nxt (.eccInjArm 1) (calm.fset SEC_DBG_STATUS_LEVEL 2)).rd MTX_ECC_INJ = 0 := by decide +kernel

/-! ## Faults, resets, power, boot and security -/

def pendingBit (src : Nat) : Fd := ⟨FLT_PEND (src / 32), src % 32, 1⟩
def flt (f : Flt) (s : State) : State := { s with flt := f }
theorem witness_FaultEvents : 1023 < 1024 ∧ 63 < 64 ∧ (List.replicate 16 (0 : BitVec 16)).length = 16 ∧ sourceCfg 9 = 1024 ∧
    sourceCfg 2 ≠ 1024 ∧ sourceDown calm 2 = false ∧ calm.flt.badParity = [] := by decide +kernel
/-- Table 16.1: source 9 is reserved; source 18 (class 2) pends; R387: the first event of class 1 to 3 is kept. -/
theorem test_source_event : (nxt (.sourceEvent 18 5) calm).fget (FLT_SRC_CNT_COUNT 18) = 1 ∧
    (nxt (.sourceEvent 18 5) calm).fget FLT_FIRST_INFO_SRC = 18 ∧ nxt (.sourceEvent 9 5) calm = calm := by decide +kernel
theorem test_window_close : (nxt (.windowClose 18) (flt { window := [(18, 1)] } calm)).flt.window = [] ∧
    nxt (.windowClose 18) (flt { window := [(18, 2)] } calm) = flt { window := [(18, 2)] } calm := by decide +kernel
/-- R393: source 6 (HOST_FORCE) brings the safe state. -/
theorem test_escalation : (nxt (.escalation 6) (calm.fset (pendingBit 6) 1)).fget FLT_STATUS_STATE = 1 ∧
    (nxt (.escalation 6) (calm.fset (pendingBit 6) 1)).on (pendingBit 6) = false ∧ nxt (.escalation 6) calm = calm := by decide +kernel
def laddered (n : Nat) : State := flt { decay := [(63, n)] } (((calm.fset ⟨FLT_GRP_LVL 3, 30, 2⟩ 2)).fset FLT_ESC_ESC_W 4)
theorem test_ladder_decay : (nxt (.ladderDecay 63) (laddered 3)).fget ⟨FLT_GRP_LVL 3, 30, 2⟩ = 0 ∧
    nxt (.ladderDecay 63) (laddered 2) = laddered 2 := by decide +kernel
theorem test_ack_source : (nxt (.ackSource 1023) (calm.fset (pendingBit 1023) 1)).on (pendingBit 1023) = false ∧ nxt (.ackSource 0) calm = calm := by
  decide +kernel
/-- R395: after Q quiet ticks the part recovers; the recovery beyond REC_MAX latches. -/
def quiet (n recs : Nat) : State :=
  flt { recOpen := decide (recs ≠ 0), recWin := 9 } (((calm.fset FLT_STATUS_STATE 1).fset FLT_QUIET_Q 4).fset FLT_STATUS_QUIET n |>.fset FLT_STATUS_REC_CNT recs)
theorem test_recovery : (nxt .recovery (quiet 3 0)).fget FLT_STATUS_STATE = 0 ∧ (nxt .recovery (quiet 2 0)).fget FLT_STATUS_STATE = 1 ∧
    (nxt .recovery (quiet 3 3)).fget FLT_STATUS_STATE = 2 ∧ (nxt .recovery (quiet 3 2)).fget FLT_STATUS_STATE = 0 := by decide +kernel
theorem test_rec_window : (nxt .recWindowClose (flt { recOpen := true, recWin := 1 } calm)).flt.recOpen = false ∧
    (nxt .recWindowClose (flt { recOpen := true, recWin := 2 } calm)).flt.recOpen = true := by decide +kernel
theorem test_parity_sweep : (nxt .paritySweep calm).on FLT_STATUS_PARITY_ERR = false ∧
    (nxt .paritySweep (flt { badParity := [FLT_QUIET] } calm)).fget FLT_STATUS_STATE = 1 := by decide +kernel
theorem test_force_safe : (nxt .forceSafe calm).fget FLT_STATUS_STATE = 1 ∧ nxt .forceSafe State.reset = State.reset := by decide +kernel
theorem test_unlatch : (nxt .unlatch (calm.fset FLT_STATUS_STATE 2)).fget FLT_STATUS_STATE = 1 ∧ nxt .unlatch calm = calm := by decide +kernel
/-- R424: the hottest sensor and the critical threshold. -/
def readings (t : Nat) : List (BitVec 16) := (List.replicate 16 (0 : BitVec 16)).set 7 (BitVec.ofNat 16 (256 * t))
theorem test_thermal : (nxt (.thermalSample (readings 120)) (calm.fset MGT_THERM_CFG_CRIT 120)).fget FLT_STATUS_STATE = 1 ∧
    (nxt (.thermalSample (readings 119)) (calm.fset MGT_THERM_CFG_CRIT 120)).fget FLT_STATUS_STATE = 0 ∧
    (nxt (.thermalSample (readings 119)) calm).fget MGT_THERM_MAX_SENSOR = 7 := by decide +kernel

theorem witness_ResetCommands : 3 < 4 ∧ 63 < 64 ∧ 6 < 7 ∧ 15 < 16 ∧ blockDown calm RST_CMD = false ∧ isAsserted calm .c = false ∧
    isAsserted calm .w = false ∧ State.reset.pwr.mgmtRst = true := by decide +kernel
/-- R401: a write without the key asserts nothing and is an event. -/
theorem test_reset_w : (nxt (.resetW .host 0x5EEC) calm).pwr.asserts = [] := by decide +kernel
theorem test_reset_key : (nxt (.resetE .host 0x5EEC) calm).fget (FLT_SRC_CNT_COUNT 17) = 1 ∧ (nxt (.resetM .host 0) calm).pwr.asserts = [] := by
  decide +kernel
theorem test_reset_u : isAsserted (nxt (.resetU .host 0x5EED 1 47) calm) (.uPort 47) = true ∧
    (nxt (.resetU .host 0x5EED 1 48) calm).fget (FLT_SRC_CNT_COUNT 2) = 1 := by decide +kernel
theorem test_reset_m : isAsserted (nxt (.resetM .mgmt 0x5EED) calm) .m = true := by decide +kernel
/-- Table 17.1: a pulse of 1 µs on RST_N is taken. -/
theorem test_rst_n : isAsserted (nxt (.rstNLow 1000) calm) .c = true ∧ nxt (.rstNLow 999) calm = calm := by decide +kernel
theorem test_power_on : isAsserted (nxt .powerOn calm) .c = true := by decide +kernel
theorem test_supply_reset : isAsserted (nxt (.supplyReset 6) calm) .c = true ∧ (nxt (.supplyReset 6) calm).pwr.lowSupply = [6] := by
  decide +kernel
theorem test_supply_warn : (nxt (.supplyWarn 6) calm).on ⟨CLK_SUP_STATUS, 6, 1⟩ = true ∧
    (nxt (.supplyWarn 0) calm).on CLK_SUP_STATUS_STRETCH = true ∧ (nxt (.supplyWarn 6) calm).on CLK_SUP_STATUS_STRETCH = false := by
  decide +kernel
theorem test_clk_lost : nxt (.clkLost 9) calm = calm ∧ (nxt (.clkLost 13) (calm.fset TWN_STATUS_LANE_UP 3)).fget TWN_STATUS_LANE_UP = 0 ∧
    good (nxt (.clkLost 13) calm) 13 = false := by decide +kernel
theorem test_pcie_reset : (nxt .pcieReset ringsSet).rd (HIF_RING_SIZE 0) = resetWord (HIF_RING_SIZE 0) := by decide +kernel
theorem test_mgt_wdog : isAsserted (nxt .mgtWdog (calm.fset MGT_BOOT_STATUS_STAGE 4)) .m = true ∧ nxt .mgtWdog calm = calm := by
  decide +kernel

theorem witness_ResetsLose : isAsserted State.reset .c = true ∧ isAsserted calm .c = false ∧ Tbl.wfFrom resetWord none calm.regs = true := by
  decide +kernel
theorem witness_ResetsEnd : 6 < 7 ∧ 15 < 16 ∧ (∀ c ∈ [25], c < 26) ∧
    (State.reset.pwr.asserts = [⟨.c, true, 2000000⟩] ∧ State.reset.pwr.coldCause < 3) := by decide +kernel
/-- R404: the cold reset is held for 2 ms. -/
theorem test_reset_release : (nxt (.resetRelease 2000000 false 1 [25]) State.reset).pwr.asserts = [] ∧
    (nxt (.resetRelease 2000000 false 1 [25]) State.reset).role 25 = roleRetired ∧
    (nxt (.resetRelease 1999999 false 1 [25]) State.reset).pwr.asserts = [⟨.c, true, 1⟩] := by decide +kernel
theorem test_supply_ok : (nxt (.supplyOk 0 5) (nxt (.supplyWarn 0) calm)).on CLK_SUP_STATUS_STRETCH = false ∧
    (nxt (.supplyOk 0 5) (nxt (.supplyWarn 0) calm)).fget CLK_SUP_CNT_STRETCH_US = 5 := by decide +kernel
theorem test_clock_qualified : good (nxt (.clockQualified 10) (calm.fset CLK_GOOD_GOOD 0)) 10 = true := by decide +kernel

def powerAt (st : Nat) : State := calm.fset CLK_PWR_STATUS_STATE st
theorem witness_PowerStates : blockDown calm CLK_PWR_CTRL = false ∧ powerState calm = 0 ∧ calm.running = false ∧
    ¬ (2 ≤ calm.pair ∧ calm.pair ≤ 4) ∧ powerState (powerAt 3) = 3 := by decide +kernel
theorem test_req_run : (nxt .reqRun (powerAt 3)).on CLK_PWR_STATUS_REFUSED = true ∧ powerState (nxt .reqRun (powerAt 1)) = 0 := by
  decide +kernel
theorem test_req_quiet : powerState (nxt .reqQuiet calm) = 1 ∧ (nxt .reqQuiet (powerAt 2)).on CLK_PWR_STATUS_REFUSED = true ∧
    (nxt .reqQuiet running).pwr.request = some 1 := by decide +kernel
theorem test_req_keep : (nxt .reqKeep ((powerAt 0).fset TWN_STATUS_PAIR 2)).on CLK_PWR_STATUS_REFUSED = true := by decide +kernel
theorem test_quiet_gate : nxt .quietGate calm = calm ∧
    powerState (nxt .quietGate { powerAt 4 with pwr := { calm.pwr with goal := 1 } }) = 1 := by decide +kernel

/-- Domain 33 is off, and port 0 is a flue channel. -/
def chainsOff : State := (calm.fset (PRT_MODE_MODE 0) 4).fset CLK_PD_ST1_ON 0
theorem witness_PowerDomains_chains : chainsOff.pdOn 33 = false ∧ chainsOff.mode 0 = 4 ∧ (∀ p < 48, calm.mode p ≠ 4) ∧ 33 < 36 := by
  decide +kernel
theorem test_sense_chains : (domainOn chainsOff 33).on (DEC_CH_STATUS_RSVD 0) = true ∧
    (domainOn chainsOff 33).on (DEC_CH_STATUS_RUN 1) = true := by decide +kernel
theorem witness_PowerDomains : 1 < 2 ∧ blockDown calm CLK_PWR_CTRL = false ∧ 35 < 36 ∧ inUse (calm.fset TWN_CFG_EN 1) 31 = true ∧
    inUse calm 32 = false ∧ calm.pdOn 33 = true := by decide +kernel
theorem test_pd_en_write : (nxt (.pdEnWrite 1 0) calm).pdOn 33 = false ∧ (nxt (.pdEnWrite 1 0) calm).pdOn 34 = true ∧
    (nxt (.pdEnWrite 1 0) (calm.fset (PRT_STATUS_STATE 47) 1)).on CLK_PWR_STATUS_REFUSED = true := by decide +kernel
theorem test_domain_power_on : nxt .domainPowerOn calm = calm ∧
    (nxt .domainPowerOn { calm.fset CLK_PD_ST1_ON 0 with pwr := { calm.pwr with powerOn := [33, 34] } }).pdOn 33 = true := by decide +kernel

/-- A boot attempt waits for the host (BOOTSEL 1). -/
def hostBoot : State :=
  let s := ((calm.fset MGT_BOOT_STATUS_BOOTSEL 1).fset MGT_BOOT_STATUS_STAGE 2)
  { s with mgmt := { s.mgmt with attempting := true, bootDue := false } }
def attempt1 : State := let s := calm.fset MGT_BOOT_STATUS_BOOTSEL 1
  { s with mgmt := { s.mgmt with bootDue := true } }
theorem witness_BootAttempts : blockDown calm MGT_BOOT_CTRL = false ∧ attempt1.pwr.mgmtRst = false ∧ attempt1.mgmt.bootDue = true ∧
    hostBoot.mgmt.attempting = true ∧ hostBoot.fget MGT_BOOT_STATUS_STAGE = 2 := by decide +kernel
theorem test_boot_attempt : (nxt .bootAttempt attempt1).fget MGT_BOOT_STATUS_STAGE = 2 ∧ (nxt .bootAttempt attempt1).fget MGT_BOOT_STATUS_FAILS = 1 ∧
    nxt .bootAttempt State.reset = State.reset := by decide +kernel
theorem test_boot_ok : (nxt .bootOk (hostBoot.fset MGT_BOOT_STATUS_STAGE 3)).fget MGT_BOOT_STATUS_STAGE = 4 ∧ nxt .bootOk hostBoot = hostBoot := by
  decide +kernel
/-- Table 18.5: 60 s without an image. -/
theorem test_host_tmo : (nxt .hostTmo { hostBoot with tmb := { hostBoot.tmb with c := 30000000000 } }).fget MGT_BOOT_STATUS_REASON = 7 ∧
    nxt .hostTmo hostBoot = hostBoot := by decide +kernel
/-- R427: an image of no bytes has no header. -/
theorem test_boot_go : (nxt .bootGo hostBoot).fget MGT_BOOT_STATUS_REASON = 4 ∧ nxt .bootGo calm = calm := by decide +kernel
theorem test_clr_fail : (nxt .clrFail ((calm.fset MGT_BOOT_STATUS_STAGE 5).fset MGT_BOOT_STATUS_FAILS 3)).fget MGT_BOOT_STATUS_FAILS = 0 ∧
    (nxt .clrFail (calm.fset MGT_BOOT_STATUS_FAILS 3)).fget MGT_BOOT_STATUS_FAILS = 3 := by decide +kernel

theorem witness_SecurityRequests : blockDown calm MGT_BOOT_CTRL = false ∧ calm.on SEC_DBG_STATUS_LOCKOUT = false ∧
    calm.fget SEC_DBG_STATUS_LEVEL = 0 ∧ calm.mgmt.nonceUsed = true := by decide +kernel
/-- R438: the next state only, and with the key. -/
theorem test_lifecycle : (nxt (.lifecycleAdvance 0x5EA10100) calm).mgmt.lifeNext = some 1 ∧
    (nxt (.lifecycleAdvance 0x5EA10200) calm).fget (FLT_SRC_CNT_COUNT 2) = 1 ∧
    (nxt (.lifecycleAdvance 0x5EA00100) calm).mgmt.lifeNext = none := by decide +kernel
theorem test_newchal : (nxt .newchal calm).mgmt.nonceUsed = false := by decide +kernel
theorem test_debug_request : (nxt (.debugRequest 3) calm).fget SEC_DBG_STATUS_LAST = 2 ∧
    (nxt (.debugRequest 3) calm).fget SEC_DBG_STATUS_LEVEL = 0 ∧
    (nxt (.debugRequest 1) (calm.fset SEC_DBG_STATUS_LEVEL 2)).fget SEC_DBG_STATUS_LEVEL = 1 := by decide +kernel
/-- R440: the lockout lasts 60 s. -/
def lockedOut (c : Nat) : State := let s := calm.fset SEC_DBG_STATUS_LOCKOUT 1
  { s with tmb := { s.tmb with c := c } }
theorem test_lockout_end : (nxt .lockoutEnd (lockedOut 30000000000)).on SEC_DBG_STATUS_LOCKOUT = false ∧
    (nxt .lockoutEnd (lockedOut 29999999999)).on SEC_DBG_STATUS_LOCKOUT = true := by decide +kernel
theorem test_commit : (nxt (.commit 0x5EA1) (calm.fset SEC_SVN_FW_SVN 7)).mgmt.otpSvn = 7 ∧
    (nxt (.commit 0x5EA0) (calm.fset SEC_SVN_FW_SVN 7)).mgmt.otpSvn = 0 := by decide +kernel
theorem test_jtag : (nxt .samplePreload calm).mgmt.jtag = 0 ∧ (nxt .bypass calm).mgmt.jtag = 2 ∧ (nxt .idcode calm).mgmt.jtag = 1 := by
  decide +kernel
theorem test_extest : (nxt .extest calm).mgmt.scan = false ∧ (nxt .extest (calm.fset SEC_DBG_STATUS_LEVEL 3)).mgmt.scan = true := by
  decide +kernel

/-! ## Steps and ill-formed commands -/

theorem witness_StepRunsFront : State.reset.pending = [] := rfl
theorem witness_TidyKept : tidy State.reset ∧ step State.reset = .next State.reset := ⟨⟨by decide, by decide, by decide⟩, rfl⟩
theorem witness_EveryCommandCompletes : wellFormed .go = true ∧ wellFormed (.memInit 26) = false := by decide
theorem test_refused : exec (.memInit 26) calm = .refused .illFormed := by rfl

theorem refuses_units : wellFormed (.slotNop ⟨26, 0, default⟩) = false ∧ wellFormed (.slotNop ⟨0, 8, default⟩) = false ∧
    wellFormed (.halt 26 0) = false ∧ wellFormed (.halt 0 8) = false ∧ wellFormed (.memInit 26) = false ∧
    wellFormed (.slip 48 true) = false ∧ wellFormed (.trip 48 ⟨0, true, 0⟩) = false ∧ wellFormed (.lpiEntry ⟨6, true⟩) = false ∧
    wellFormed (.takePoint 1024) = false ∧ wellFormed (.timeout 256) = false ∧ wellFormed (.ackSource 1024) = false ∧
    wellFormed (.scrub 26) = false ∧ wellFormed (.scrub 0x34) = false ∧ wellFormed (.holdExpiry 512) = false ∧
    wellFormed (.unsettledEnd 192) = false ∧ wellFormed (.domainUpdate 3) = false ∧ wellFormed (.wtr 15) = false ∧
    wellFormed (.health 8) = false ∧ wellFormed (.burstReset 0x27) = false ∧ wellFormed (.supplyWarn 7) = false ∧
    wellFormed (.clkLost 16) = false ∧ wellFormed (.ladderDecay 64) = false ∧ wellFormed (.pdEnWrite 2 0) = false ∧
    wellFormed (.wordClockEdge 4 true 0 0) = false ∧ wellFormed (.twinLaneChange 2 true) = false ∧
    wellFormed (.loopSample 6 0 (List.replicate 8 (0, 0))) = false ∧ wellFormed (.matrixGrant 48 []) = false ∧
    wellFormed (.rampEnd true 4096) = false ∧ wellFormed (.rampEnd false 262144) = false := by decide
theorem refuses_values : wellFormed (.tickStart (2 ^ 64)) = false ∧ wellFormed (.ppsIn 0 (2 ^ 17) 0) = false ∧
    wellFormed (.loRead .host 2) = false ∧ wellFormed (.loRead .host (2 ^ 24)) = false ∧ wellFormed (.badAccess .host 4 4 true) = false ∧
    wellFormed (.badAccess .host (2 ^ 24) 8 true) = false ∧ wellFormed (.tstart 0 0 16) = false ∧ wellFormed (.nudge (2 ^ 16) 0) = false ∧
    wellFormed (.portFrameReceive 0 [(128, 0)]) = false ∧ wellFormed (.clockRecovered 0 (2 ^ 32)) = false ∧
    wellFormed (.aesErr 0 2) = false ∧ wellFormed (.csBlock 0 2 (List.replicate 24 0) 0 0) = false ∧
    wellFormed (.csBlock 0 0 (List.replicate 23 0) 0 0) = false ∧ wellFormed (.syncMatch 0 128 ⟨true, true⟩) = false ∧
    wellFormed (.loopSample 0 0 []) = false ∧ wellFormed (.trip 0 ⟨8192, true, 0⟩) = false ∧
    wellFormed (.frameReceived 0 [] {} 0 0 (2 ^ 16)) = false ∧ wellFormed (.historySecond [(15, 0)]) = false ∧
    wellFormed (.bistEnd [26]) = false ∧ wellFormed (.targetedSelfTest true [26]) = false ∧
    wellFormed (.resetRelease 0 true 0 [26]) = false ∧ wellFormed (.mbxFrame 0 (List.replicate 17 0) 0 0 0 0) = false ∧
    wellFormed (.mbxFrame 0 [] 0 0 0 8) = false ∧ wellFormed (.send 1024 0 [] 1 0) = false ∧ wellFormed (.taken 1024 0) = false ∧
    wellFormed (.thermalSample []) = false ∧ wellFormed (.resetU .host 0 4 0) = false ∧ wellFormed (.resetU .host 0 0 64) = false := by decide
theorem refuses_bursts : wellFormed (.matrixGrant 0 [⟨0x27, 0, 0, true, [0], false⟩]) = false ∧
    wellFormed (.matrixGrant 0 [⟨0, 0, 0, true, [], false⟩]) = false ∧
    wellFormed (.matrixGrant 0 [⟨0, 0, 0, true, List.replicate 17 0, false⟩]) = false ∧
    wellFormed (.matrixGrant 0 [⟨0, 0, 2 ^ 40, true, [0], false⟩]) = false := by decide

end Sys2Proof.Tests
end

section
/-! PROOFS. A core without results on their way: what it reads is its register file, and what one operation alone in its
bundle does at a `Ready` core, for an operation of the C slot that writes registers at once and for one of the V slot
that sends accumulator elements on their way. -/

namespace Sys2Proof.Machine

/-! ## Reads -/

theorem Core.inFlight_settled {c : Core} (h : c.flights = []) (r : Reader) (d : Dst) : c.inFlight r d = none := by
  simp [Core.inFlight, h]

/-- A number is the sum of its bits. -/
theorem foldl_bits (x k : Nat) : (List.range k).foldl (fun n b => n + 2 ^ b * b2n (x.testBit b)) 0 = x % 2 ^ k := by
  induction k with
  | zero => simp [Nat.mod_one]
  | succ k ih =>
    rw [List.range_succ, List.foldl_append, ih, Nat.mod_pow_succ, ← Nat.toNat_testBit]
    cases hbit : x.testBit k <;> simp [hbit, b2n]

theorem Core.pred_settled {c : Core} (h : c.flights = []) (r : Reader) (i : Nat) : c.pred r i = Tbl.get 0 c.p i := by
  have hbits : BitVec.ofNat 16 ((Tbl.get 0 c.p i).toNat % 2 ^ 16) = Tbl.get 0 c.p i := by
    rw [BitVec.toNat_mod_cancel, BitVec.ofNat_toNat, BitVec.setWidth_eq]
  unfold Core.pred
  simp only [Core.inFlight_settled h]
  exact (congrArg (BitVec.ofNat 16) (foldl_bits _ 16)).trans hbits

theorem Core.reg_scalar {c : Core} (h : c.flights = []) (r : Reader) (i : BitVec 4) :
    c.reg r i.toNat = Tbl.get 0 c.s i.toNat := by
  have := i.isLt
  unfold Core.reg Core.base
  rw [if_neg (by omega), if_neg (by omega), Core.inFlight_settled h]
  exact if_pos (by omega)

theorem Core.elem_settled {c : Core} (h : c.flights = []) (r : Reader) (i e : Nat) :
    c.elem r i e = Tbl.get 0 c.v (16 * i + e) := by
  unfold Core.elem
  rw [Core.inFlight_settled h]

theorem Core.accElem_settled {c : Core} (h : c.flights = []) (r : Reader) (i e : Nat) :
    c.accElem r i e = Tbl.get 0 c.acc (16 * i + e) := by
  unfold Core.accElem
  rw [Core.inFlight_settled h]

theorem Core.enables_settled {c : Core} (h : c.flights = []) (r : Reader) (p : Pred) {e : Nat} (he : e < 16) :
    (c.enables r p).getLsbD e = enabled c p e := by
  have hall : (0xFFFF : BitVec 16).getLsbD e = true := by
    rw [show (0xFFFF : BitVec 16) = BitVec.allOnes 16 from rfl, BitVec.getLsbD_allOnes, decide_eq_true he]
  unfold Core.enables enabled
  rw [Core.pred_settled h]
  cases p.pe with
  | false => simpa using hall
  | true => cases p.pn <;> simp [he]

theorem reachedBy_settled {c : Core} (h : c.flights = []) (r : Reader) (p : Pred) :
    (List.range 16).filter (fun e => (c.enables r p).getLsbD e) = reachedBy c p :=
  List.filter_congr fun _ he => Core.enables_settled h r p (List.mem_range.1 he)

/-! ## One operation -/

theorem Core.writeNow_scalar {c : Core} (h : c.flights = []) (i : BitVec 4) (v : W32) :
    c.writeNow i.toNat v = { c with s := Tbl.put 0 c.s i.toNat v } := by
  have := i.isLt
  rw [Core.writeNow_settled h, if_neg (by omega)]
  exact if_pos (by omega)

theorem predOk_of_lawful {p : Pred} (hp : lawful p) : predOk p = true := by
  unfold predOk
  cases hpe : p.pe
  · simp [hp hpe]
  · rfl

theorem atOk_of_ready {s : State} {a : At} (h : Ready s a) : atOk a = true := by
  simp [atOk, coreOk, h.exists']

/-- A C-slot operation whose whole effect is the register writes `l`, and nothing where it is disabled. -/
theorem exec_writes {s : State} {a : At} (h : Ready s a) {p : Pred} (hp : lawful p) {i : Instr} {o : COp}
    (hi : exec i s = done (atOk a) (issue s a (withC a p o))) (hl : legalC o = true) (hb : isBranch o = false)
    (hoff : cOff o = {}) {l : List (Nat × W32)}
    (hon : cEff (s.core a.cl a.core) (readyPlace s a) o = { regs := l }) :
    exec i s = .next (if enabled (s.core a.cl a.core) p 0 then
        wentOn s a (l.foldl (fun c r => c.writeNow r.1 r.2) (s.core a.cl a.core))
      else wentOn s a (s.core a.cl a.core)) := by
  have hslot : cSlot (s.core a.cl a.core) (readyPlace s a) p o =
      { regs := if enabled (s.core a.cl a.core) p 0 then l else [] } := by
    unfold cSlot
    rw [hb, hoff, hon, if_neg Bool.false_ne_true, Core.enables_settled h.settled _ _ (by decide)]
    split <;> rfl
  obtain ⟨-, -, -, hkeep, -⟩ :=
    Core.writesNow_control h.settled (if enabled (s.core a.cl a.core) p 0 then l else [])
  rw [hi, atOk_of_ready h, done_true, issue_C h (predOk_of_lawful hp) hl hslot rfl rfl (by simp) rfl]
  dsimp only at hkeep ⊢
  rw [← hkeep]
  split <;> rfl

/-- A V-slot operation whose whole effect is the results `l` on their way, with the overflow mark where `aov` says so. -/
theorem exec_sends {s : State} {a : At} (h : Ready s a) {p : Pred} (hp : lawful p) {i : Instr} {o : VOp}
    (hi : exec i s = done (atOk a) (issue s a (withV a p o))) (hl : legalV o = true) {l : List Flight} {aov : Bool}
    (ho : vSlot (s.core a.cl a.core) p o = { flights := l, aov := aov }) (hy : ∀ f ∈ l, f.age < 4) :
    exec i s = .next (wentOn s a { s.core a.cl a.core with
      flights := l ++ if aov then [⟨0, .mac, .aov, 0⟩] else [] } false aov) := by
  rw [hi, atOk_of_ready h, done_true, issue_V h (predOk_of_lawful hp) hl ho rfl rfl rfl hy]
  simp only [lateBit, if_neg Bool.false_ne_true, List.append_nil]
  rfl

end Sys2Proof.Machine
end

section
/-! PROOFS. The divide step (R99): one step on natural numbers, what `k` of them leave, and the signed divide. -/

namespace Sys2Proof.Machine

/-- One divide step for the magnitude `d`, on the numbers that the remainder and the quotient register hold; `divStep_eq`
ties it to the model's. -/
def divideOne (d : Nat) (x : Nat × Nat) : Nat × Nat :=
  let t := 2 * x.1 + x.2 / 2 ^ 31
  if d ≤ t then ((t - d) % 2 ^ 32, (2 * x.2 + 1) % 2 ^ 32) else (t % 2 ^ 32, 2 * x.2 % 2 ^ 32)

theorem b2n_msb (q : W32) : b2n q.msb = q.toNat / 2 ^ 31 := by
  have hq := q.isLt
  rw [BitVec.msb_eq_decide]
  by_cases h : 2 ^ 31 ≤ q.toNat
  · simp only [b2n, h, decide_true, if_true]
    omega
  · simp only [b2n, h, decide_false, Bool.false_eq_true, if_false]
    omega

theorem shiftLeft_one_bit (q : W32) :
    q <<< 1 ||| 1#32 = BitVec.ofNat 32 ((2 * q.toNat + 1) % 2 ^ 32) ∧ q <<< 1 = BitVec.ofNat 32 (2 * q.toNat % 2 ^ 32) := by
  constructor
  · rw [← BitVec.add_eq_or_of_and_eq_zero _ _ (by ext i hi; simp; grind)]
    bv_omega
  · bv_omega

theorem divStep_eq (r q : W32) (d : Nat) :
    divStep r q d = (BitVec.ofNat 32 (divideOne d (r.toNat, q.toNat)).1,
      BitVec.ofNat 32 (divideOne d (r.toNat, q.toNat)).2) := by
  have hword : ∀ t : Nat, BitVec.ofNat 32 t = BitVec.ofNat 32 (t % 2 ^ 32) := fun t => by
    apply BitVec.eq_of_toNat_eq
    simp
  obtain ⟨hone, hzero⟩ := shiftLeft_one_bit q
  unfold divStep divideOne
  simp only [b2n_msb, ge_iff_le]
  split
  · rw [hone, hword]
  · rw [hzero, hword]

/-! ## Thirty-two steps -/

/-- What `k` of the 32 steps leave from a remainder of 0: the low `k` bits of the quotient register hold the quotient of the
leading `k` bits of the dividend `n` by `d`, the remainder register holds their remainder, and the other bits of the
quotient register the rest of the dividend. By 0, every quotient bit is 1. -/
structure Divided (n d k : Nat) (x : Nat × Nat) : Prop where
  rest : x.2 / 2 ^ k = n % 2 ^ (32 - k)
  division : n / 2 ^ (32 - k) = d * (x.2 % 2 ^ k) + x.1
  small : if d = 0 then x.2 % 2 ^ k = 2 ^ k - 1 else x.1 < d

theorem divided_start {n d : Nat} (hn : n < 2 ^ 32) : Divided n d 0 (0, n) where
  rest := by rw [pow_zero, Nat.div_one, Nat.mod_eq_of_lt hn]
  division := by rw [pow_zero, Nat.mod_one, Nat.div_eq_of_lt hn, mul_zero, zero_add]
  small := by split <;> omega

/-- A register of `2 * P * H` values whose low part, below `P`, is a quotient, after `c` is shifted in: the part above has
lost its top bit, and the quotient has gained `c`. -/
theorem shiftIn_quotient {q c P H : Nat} (hc : c < 2) :
    (2 * q + c) % (2 * P * H) / (2 * P) = q / P % H ∧ (2 * q + c) % (2 * P * H) % (2 * P) = 2 * (q % P) + c := by
  have hhalf : (2 * q + c) / 2 = q := by omega
  constructor
  · rw [Nat.mod_mul_right_div_self, ← Nat.div_div_eq_div_mul, hhalf]
  · rw [Nat.mod_mul_right_mod, Nat.mod_mul, hhalf]
    omega

/-- The next state from the quotient bit `c` and the remainder `r'` that remains with it. -/
theorem Divided.shiftIn {n d k r q c r' : Nat} (hk : k < 32) (h : Divided n d k (r, q)) (hc : c < 2)
    (hr : d * c + r' = 2 * r + q / 2 ^ 31) (hs : if d = 0 then c = 1 else r' < d) :
    Divided n d (k + 1) (r', (2 * q + c) % 2 ^ 32) := by
  obtain ⟨hrest, hdiv, hsmall⟩ := h
  dsimp only at hrest hdiv hsmall
  have hP : 2 ^ (k + 1) = 2 * 2 ^ k := by ring
  have hH : 2 ^ (32 - k) = 2 ^ (32 - (k + 1)) * 2 := by rw [← pow_succ]; congr 1; omega
  have hPH : 2 ^ 31 = 2 ^ k * 2 ^ (32 - (k + 1)) := by rw [← pow_add]; congr 1; omega
  have h32 : 2 ^ 32 = 2 * 2 ^ k * 2 ^ (32 - (k + 1)) := by rw [mul_assoc, ← hPH]; rfl
  rw [hH] at hrest hdiv
  have htop : q / 2 ^ 31 = n / 2 ^ (32 - (k + 1)) % 2 := by
    rw [hPH, ← Nat.div_div_eq_div_mul, hrest, Nat.mod_mul_right_div_self]
  obtain ⟨hq1, hq2⟩ := shiftIn_quotient (q := q) (P := 2 ^ k) (H := 2 ^ (32 - (k + 1))) hc
  constructor <;> dsimp only
  case rest => rw [h32, hP, hq1, hrest, Nat.mod_mul_right_mod]
  case division =>
    rw [h32, hP, hq2]
    calc n / 2 ^ (32 - (k + 1)) = 2 * (n / (2 ^ (32 - (k + 1)) * 2)) + q / 2 ^ 31 := by
          rw [← Nat.div_div_eq_div_mul, htop]; omega
      _ = 2 * (d * (q % 2 ^ k)) + (2 * r + q / 2 ^ 31) := by rw [hdiv]; ring
      _ = d * (2 * (q % 2 ^ k) + c) + r' := by rw [← hr]; ring
  case small =>
    rw [h32, hP, hq2]
    have := Nat.two_pow_pos k
    split_ifs at * <;> omega

theorem Divided.remainder_lt {n d k : Nat} {x : Nat × Nat} (h : Divided n d k x) (hn : n < 2 ^ 32) : x.1 < 2 ^ 32 := by
  have hdiv := h.division
  have hle : n / 2 ^ (32 - k) ≤ n := Nat.div_le_self ..
  omega

theorem Divided.quotient_lt {n d k : Nat} {x : Nat × Nat} (h : Divided n d k x) (hk : k ≤ 32) : x.2 < 2 ^ 32 := by
  have hlt : x.2 / 2 ^ k < 2 ^ (32 - k) := h.rest ▸ Nat.mod_lt _ (Nat.two_pow_pos _)
  rwa [Nat.div_lt_iff_lt_mul (Nat.two_pow_pos k), ← pow_add, Nat.sub_add_cancel hk] at hlt

theorem divided_step {n d k : Nat} {x : Nat × Nat} (hk : k < 32) (hn : n < 2 ^ 32) (h : Divided n d k x) :
    Divided n d (k + 1) (divideOne d x) := by
  obtain ⟨r, q⟩ := x
  have hsmall := h.small
  have hq := h.quotient_lt hk.le
  dsimp only at hsmall hq
  unfold divideOne
  dsimp only
  split
  case isTrue hfits =>
    have hnext : Divided n d (k + 1) (2 * r + q / 2 ^ 31 - d, (2 * q + 1) % 2 ^ 32) :=
      h.shiftIn hk (by decide) (by omega) (by split_ifs at * <;> omega)
    rwa [Nat.mod_eq_of_lt (hnext.remainder_lt hn)]
  case isFalse hfits =>
    have hnext : Divided n d (k + 1) (2 * r + q / 2 ^ 31, (2 * q + 0) % 2 ^ 32) :=
      h.shiftIn hk (by decide) (by omega) (by split_ifs at * <;> omega)
    rwa [Nat.mod_eq_of_lt (hnext.remainder_lt hn)]

theorem divided_iterate {n d k : Nat} (hk : k ≤ 32) (hn : n < 2 ^ 32) :
    Divided n d k ((divideOne d)^[k] (0, n)) := by
  induction k with
  | zero => exact divided_start hn
  | succ k ih =>
    rw [Function.iterate_succ_apply']
    exact divided_step hk hn (ih (by omega))

theorem divideOne_iterate {n d : Nat} (hn : n < 2 ^ 32) :
    (divideOne d)^[32] (0, n) = if d = 0 then (n, 2 ^ 32 - 1) else (n % d, n / d) := by
  obtain ⟨hrest, hdiv, hsmall⟩ := divided_iterate (d := d) le_rfl hn
  generalize (divideOne d)^[32] (0, n) = x at *
  obtain ⟨r, q⟩ := x
  simp only [Nat.sub_self, pow_zero, Nat.mod_one, Nat.div_one] at hrest hdiv hsmall
  have hq : q % 2 ^ 32 = q := by omega
  rw [hq] at hdiv hsmall
  split at hsmall
  case isTrue hd0 => simp_all
  case isFalse hd0 =>
    rw [if_neg hd0, hdiv, Nat.mul_add_mod, Nat.mod_eq_of_lt hsmall, Nat.mul_add_div (by omega), Nat.div_eq_of_lt hsmall,
      add_zero]

/-! ## The signed divide -/

theorem toInt_eq_natAbs (x : W32) :
    x.toInt = if x.msb = true then -(x.toInt.natAbs : Int) else (x.toInt.natAbs : Int) := by
  rw [BitVec.msb_eq_toInt]
  simp only [decide_eq_true_eq]
  split <;> omega

/-- The quotient and the remainder that truncate towards zero, from the magnitudes and the signs. -/
theorem tdiv_tmod_magnitudes (a d : W32) :
    a.toInt.tdiv d.toInt = (if a.msb = d.msb then ((a.toInt.natAbs / d.toInt.natAbs : Nat) : Int)
      else -((a.toInt.natAbs / d.toInt.natAbs : Nat) : Int)) ∧
    a.toInt.tmod d.toInt = if a.msb = true then -((a.toInt.natAbs % d.toInt.natAbs : Nat) : Int)
      else ((a.toInt.natAbs % d.toInt.natAbs : Nat) : Int) := by
  have ha := toInt_eq_natAbs a
  have hd := toInt_eq_natAbs d
  generalize a.toInt.natAbs = m at *
  generalize d.toInt.natAbs = k at *
  rw [ha, hd]
  cases a.msb <;> cases d.msb <;>
    simp only [Bool.false_eq_true, if_false, if_true, reduceCtorEq, Int.neg_tdiv, Int.tdiv_neg, neg_neg, Int.neg_tmod,
      Int.tmod_neg, Int.ofNat_tdiv, Int.ofNat_tmod, and_self]

theorem signedDivide (a d : W32) (hd : d ≠ 0) :
    let x := (divideOne d.toInt.natAbs)^[32] (0, a.toInt.natAbs)
    a.toInt.tdiv d.toInt = (if a.msb = d.msb then (x.2 : Int) else -x.2) ∧
      a.toInt.tmod d.toInt = if a.msb = true then -(x.1 : Int) else x.1 := by
  have hmag : a.toInt.natAbs < 2 ^ 32 := by
    have := a.toInt_lt
    have := a.le_toInt
    omega
  have hd0 : d.toInt.natAbs ≠ 0 := by
    rw [Int.natAbs_ne_zero]
    exact fun h => hd (BitVec.eq_of_toInt_eq (by simpa using h))
  rw [divideOne_iterate hmag, if_neg hd0]
  exact tdiv_tmod_magnitudes a d

/-! ## The operation -/

/-- A C-slot operation whose effect is a divide step by the magnitude `d`. -/
theorem exec_divides {s : State} {a : At} (h : Ready s a) {p : Pred} (hp : lawful p) {sqr sq : BitVec 4} {i : Instr} {o : COp}
    {d : Nat} (hi : exec i s = done (atOk a) (issue s a (withC a p o))) (hl : legalC o = true) (hb : isBranch o = false)
    (hoff : cOff o = {})
    (hon : cEff (s.core a.cl a.core) (readyPlace s a) o =
      let c := s.core a.cl a.core
      let t := divStep (c.reg .c sqr.toNat) (c.reg .c sq.toNat) d
      { regs := [(sqr.toNat, t.1), (sq.toNat, t.2)] }) :
    let c := s.core a.cl a.core
    let x := divideOne d ((Tbl.get 0 c.s sqr.toNat).toNat, (Tbl.get 0 c.s sq.toNat).toNat)
    exec i s = .next (if enabled c p 0 then
      wentOn s a { c with s := Tbl.put 0 (Tbl.put 0 c.s sqr.toNat (BitVec.ofNat 32 x.1)) sq.toNat (BitVec.ofNat 32 x.2) }
      else wentOn s a c) := by
  intro c x
  simp only [Core.reg_scalar h.settled, divStep_eq] at hon
  rw [exec_writes h hp hi hl hb hoff hon]
  simp only [List.foldl_cons, List.foldl_nil, Core.writeNow_scalar h.settled]
  rw [Core.writeNow_scalar (by exact h.settled)]

/-- Settles O3, with the invariant `Divided` over the 32 steps. Where SQR is SQ, the quotient is written last, which is the
model's choice (log entry 29). -/
theorem divideStep : Obligations.DivideStep := by
  refine ⟨fun s a p sqr sq sv h hp => ⟨?_, ?_⟩, fun n d hn _ => divideOne_iterate hn, signedDivide⟩
  · refine exec_divides h hp (i := .divsU a p sqr sq sv) rfl rfl rfl rfl ?_
    rw [← Core.reg_scalar h.settled .c sv]
    rfl
  · refine exec_divides h hp (i := .divsS a p sqr sq sv) rfl rfl rfl rfl ?_
    rw [← Core.reg_scalar h.settled .c sv]
    rfl

end Sys2Proof.Machine
end

section
/-! PROOFS. Post-modification of pointers (R90, R91): the plain and the modulo step, and that the reversal of `b` bits undoes
itself, from which the reverse-carry step follows. -/

namespace Sys2Proof.Machine

theorem uns_cast (w : Nat) (v : Int) : (uns w v : Int) = v % 2 ^ w := by
  unfold uns
  rw [BitVec.toNat_ofInt, Int.toNat_of_nonneg (Int.emod_nonneg _ (by positivity))]
  norm_cast

theorem uns_eq_toNat (w : Nat) (v : Int) : uns w v = (v % 2 ^ w).toNat := by
  rw [← uns_cast]
  rfl

/-! ## Plain and modulo steps -/

theorem stepPtr_plain (ptr : Nat) (d : Int) : (stepPtr ptr 0 d : Int) = ((ptr : Int) + d) % 2 ^ 18 := by
  rw [stepPtr, if_pos rfl, uns_cast]

theorem pow2AtLeast_spec {l : Nat} (hl : 0 < l) :
    ∃ size, pow2AtLeast l = 2 ^ size ∧ ∀ k, l ≤ 2 ^ k ↔ size ≤ k := by
  unfold pow2AtLeast
  split
  case isTrue hone => exact ⟨0, rfl, fun k => by have := Nat.one_le_two_pow (n := k); omega⟩
  case isFalse hone =>
    refine ⟨Nat.log2 (l - 1) + 1, rfl, fun k => ?_⟩
    rw [Nat.add_one_le_iff, Nat.log2_lt (by omega)]
    omega

theorem stepPtr_modulo (ptr l : Nat) (d : Int) (hl : 0 < l) :
    ∃ size, l ≤ 2 ^ size ∧ (∀ k, l ≤ 2 ^ k → size ≤ k) ∧
      let base : Nat := ptr - ptr % 2 ^ size
      let o : Int := (ptr % 2 ^ size : Nat) + d
      (stepPtr ptr l d : Int) =
        ((base : Int) + (if (l : Int) ≤ o then o - l else if o < 0 then o + l else o)) % 2 ^ 18 := by
  obtain ⟨size, hsize, hleast⟩ := pow2AtLeast_spec hl
  refine ⟨size, (hleast size).2 le_rfl, fun k => (hleast k).1, ?_⟩
  have hbase : ptr / 2 ^ size * 2 ^ size = ptr - ptr % 2 ^ size := by
    have := Nat.div_add_mod' ptr (2 ^ size)
    omega
  have hofs : ptr - (ptr - ptr % 2 ^ size) = ptr % 2 ^ size := by
    have := Nat.mod_le ptr (2 ^ size)
    omega
  unfold stepPtr
  rw [if_neg hl.ne', hsize]
  simp only [hbase, hofs, uns_cast, ge_iff_le]

/-! ## Reverse carry -/

theorem foldl_range_add (f : Nat → Nat) (k : Nat) :
    (List.range k).foldl (fun n i => n + f i) 0 = ∑ i ∈ Finset.range k, f i := by
  induction k with
  | zero => rfl
  | succ k ih => rw [List.range_succ, List.foldl_append, ih, Finset.sum_range_succ, List.foldl_cons, List.foldl_nil]

theorem revBits_eq_sum (b v : Nat) : revBits b v = ∑ i ∈ Finset.range b, 2 ^ (b - 1 - i) * (v / 2 ^ i % 2) :=
  foldl_range_add _ b

/-- The top bit becomes the lowest. -/
theorem revBits_succ_top (b v : Nat) : revBits (b + 1) v = 2 * revBits b v + v / 2 ^ b % 2 := by
  rw [revBits_eq_sum, revBits_eq_sum, Finset.sum_range_succ, Finset.mul_sum]
  congr 1
  · refine Finset.sum_congr rfl fun i hi => ?_
    rw [← mul_assoc, ← pow_succ']
    congr 2
    have := Finset.mem_range.1 hi
    omega
  · simp

/-- The lowest bit becomes the top one. -/
theorem revBits_succ_lowest (b v : Nat) : revBits (b + 1) v = revBits b (v / 2) + 2 ^ b * (v % 2) := by
  rw [revBits_eq_sum, revBits_eq_sum, Finset.sum_range_succ']
  congr 1
  · refine Finset.sum_congr rfl fun i _ => ?_
    rw [Nat.div_div_eq_div_mul, ← pow_succ']
    congr 2
    omega
  · simp

theorem revBits_lt (b v : Nat) : revBits b v < 2 ^ b := by
  induction b with
  | zero => exact Nat.one_pos
  | succ b ih =>
    rw [revBits_succ_top, pow_succ]
    omega

theorem revBits_revBits (b v : Nat) : revBits b (revBits b v) = v % 2 ^ b := by
  induction b with
  | zero => exact (Nat.mod_one v).symm
  | succ b ih =>
    have hhalf : (2 * revBits b v + v / 2 ^ b % 2) / 2 = revBits b v := by omega
    have hlow : (2 * revBits b v + v / 2 ^ b % 2) % 2 = v / 2 ^ b % 2 := by omega
    rw [revBits_succ_top b v, revBits_succ_lowest, hhalf, hlow, ih, Nat.mod_pow_succ]

theorem stepReversed_short {ptr l : Nat} {d : Int} (hl : l < 2) : stepReversed ptr l d = ptr := if_pos hl

theorem stepReversed_parts (ptr l : Nat) (d : Int) (hl : 2 ≤ l) :
    let b := Nat.log2 l
    stepReversed ptr l d / 2 ^ b = ptr / 2 ^ b ∧
    revBits b (stepReversed ptr l d % 2 ^ b) = (revBits b (ptr % 2 ^ b) + revBits b (d % 2 ^ b).toNat) % 2 ^ b := by
  intro b
  have hstep : stepReversed ptr l d = revBits b ((revBits b (ptr % 2 ^ b) + revBits b (d % 2 ^ b).toNat) % 2 ^ b) +
      2 ^ b * (ptr / 2 ^ b) := by
    rw [← uns_eq_toNat, mul_comm (2 ^ b), add_comm]
    exact if_neg (by omega)
  rw [hstep, Nat.add_mul_div_left _ _ (Nat.two_pow_pos b), Nat.add_mul_mod_self_left,
    Nat.div_eq_of_lt (revBits_lt b _), Nat.mod_eq_of_lt (revBits_lt b _), revBits_revBits, Nat.mod_mod]
  exact ⟨zero_add _, rfl⟩

/-- Settles O11: R90 from `pow2AtLeast_spec`, and R91 from `revBits_revBits`. -/
theorem pointerSteps : Obligations.PointerSteps :=
  ⟨fun ptr l d _ hl _ => stepPtr_modulo ptr l d hl, fun ptr d _ => stepPtr_plain ptr d,
    fun _ _ _ => stepReversed_short, stepReversed_parts⟩

end Sys2Proof.Machine
end

section
/-! PROOFS. Accumulators (R51, R85, R87, R97): the effect of each operation at a core without results on their way, as
exact values, and that a butterfly never overflows. -/

namespace Sys2Proof.Machine

/-! ## The effect of an exact value -/

theorem clips_eq (w : Nat) (v : Int) : clips w v = (decide (v < -2 ^ (w - 1)) || decide (2 ^ (w - 1) - 1 < v)) := by
  have : (0 : Int) < 2 ^ (w - 1) := by positivity
  unfold clips clip
  generalize (2 : Int) ^ (w - 1) = m at *
  rw [← Bool.decide_or, decide_eq_decide]
  split_ifs <;> omega

/-- The elements `es` of accumulator `acc` on their way, as exact values modulo 2^72; `accEff_settled` ties them to the
model's. -/
def accFlights (es : List Nat) (acc : Nat) (f : Nat → Int) : List Flight :=
  es.map fun e => ⟨0, .mac, .acc (16 * acc + e), BitVec.ofInt 72 (f e)⟩

theorem accFlights_young (es : List Nat) (acc : Nat) (f : Nat → Int) : ∀ x ∈ accFlights es acc f, x.age < 4 := by
  intro x hx
  obtain ⟨e, -, rfl⟩ := List.mem_map.1 hx
  exact Nat.zero_lt_succ 3

theorem accEff_settled {c : Core} (h : c.flights = []) (p : Pred) (acc : Nat) (f : Nat → Int) :
    accEff (c.enables .pd p) acc f =
      { flights := accFlights (reachedBy c p) acc f
        aov := (reachedBy c p).any fun e => decide (f e < -2 ^ 71) || decide (2 ^ 71 - 1 < f e) } := by
  unfold accEff accOver
  simp only [reachedBy_settled h, clips_eq]
  rfl

theorem exec_accumulates {s : State} {a : At} (h : Ready s a) {p : Pred} (hp : lawful p) {i : Instr} {o : VOp}
    (hi : exec i s = done (atOk a) (issue s a (withV a p o))) (hl : legalV o = true) {acc : Nat} {f : Nat → Int}
    (ho : vSlot (s.core a.cl a.core) p o = accEff ((s.core a.cl a.core).enables .pd p) acc f) :
    accumulatorDoes s a p i acc f := by
  rw [accEff_settled h.settled] at ho
  unfold accumulatorDoes sent
  rw [exec_sends h hp hi hl ho (accFlights_young _ _ _)]
  simp only [if_neg Bool.false_ne_true, List.append_nil]
  rfl

/-! ## Products -/

/-- An element is the real part of its pair, or the imaginary part behind the real part `r`. -/
theorem pair_cases (e : Nat) : (e % 2 = 0 ∧ e / 2 * 2 = e) ∨ (e % 2 ≠ 0 ∧ ∃ r, e / 2 * 2 = r ∧ e = r + 1) := by
  rcases Nat.mod_two_eq_zero_or_one e with he | he
  · exact .inl ⟨he, by omega⟩
  · exact .inr ⟨by omega, e / 2 * 2, rfl, by omega⟩

theorem product_complex (x y : Nat → Int) : product .complex x y = complexProduct x y := by
  funext e
  unfold product complexProduct
  rcases pair_cases e with ⟨heven, hr⟩ | ⟨hodd, r, hr, rfl⟩
  · simp only [heven, hr, if_true]
  · simp only [hodd, hr, if_false, Nat.succ_ne_self, Nat.add_sub_cancel]

theorem product_conj (x y : Nat → Int) : product .conj x y = conjProduct x y := by
  funext e
  unfold product conjProduct
  rcases pair_cases e with ⟨heven, hr⟩ | ⟨hodd, r, hr, rfl⟩
  · simp only [heven, hr, if_true]
  · simp only [hodd, hr, if_false, Nat.succ_ne_self, Nat.add_sub_cancel]

/-! ## The operations -/

theorem vSlot_mac {c : Core} (h : c.flights = []) (p : Pred) (form : MacForm) (acc : BitVec 2) (va vb : BitVec 4) :
    let x := product form (vInt c va) (vInt c vb)
    vSlot c p (.mac form .set acc va vb) = accEff (c.enables .pd p) acc.toNat x ∧
    vSlot c p (.mac form .add acc va vb) = accEff (c.enables .pd p) acc.toNat (fun e => accInt c acc e + x e) ∧
    vSlot c p (.mac form .sub acc va vb) = accEff (c.enables .pd p) acc.toNat (fun e => accInt c acc e - x e) := by
  simp only [vSlot, Core.elem_settled h, Core.accElem_settled h]
  exact ⟨rfl, rfl, rfl⟩

theorem vSlot_accld {c : Core} (h : c.flights = []) (p : Pred) (acc : BitVec 2) (va : BitVec 4) (sh : BitVec 5) :
    vSlot c p (.accld acc va sh) =
      accEff (c.enables .pd p) acc.toNat (fun e => vInt c va e * 2 ^ (31 - sh.toInt).toNat) := by
  simp only [vSlot, Core.elem_settled h]
  rfl

theorem vSlot_accadd {c : Core} (h : c.flights = []) (p : Pred) (acc from' : BitVec 2) :
    vSlot c p (.accadd acc from') =
      accEff (c.enables .pd p) acc.toNat (fun e => accInt c acc e + accInt c from' e) := by
  simp only [vSlot, Core.accElem_settled h]
  rfl

/-! ## The butterfly -/

theorem abs_toInt_le (z : W32) : |z.toInt| ≤ 2 ^ 31 := abs_le.2 ⟨z.le_toInt, z.toInt_lt.le⟩

theorem abs_word_mul_le (x y : W32) : |x.toInt * y.toInt| ≤ 2 ^ 62 := by
  rw [abs_mul]
  exact (mul_le_mul (abs_toInt_le x) (abs_toInt_le y) (abs_nonneg _) (by positivity)).trans_eq (by norm_num)

theorem abs_complexProduct_le (c : Core) (va vb : BitVec 4) (e : Nat) :
    |complexProduct (vInt c va) (vInt c vb) e| ≤ 2 ^ 63 := by
  unfold complexProduct
  split
  · exact (abs_sub _ _).trans ((add_le_add (abs_word_mul_le _ _) (abs_word_mul_le _ _)).trans_eq (by norm_num))
  · exact (abs_add_le _ _).trans ((add_le_add (abs_word_mul_le _ _) (abs_word_mul_le _ _)).trans_eq (by norm_num))

theorem abs_butterfly_lt (c : Core) (va vb vw : BitVec 4) (e : Nat) :
    |vInt c va e * 2 ^ 31 + complexProduct (vInt c vw) (vInt c vb) e| < 2 ^ 64 ∧
    |vInt c va e * 2 ^ 31 - complexProduct (vInt c vw) (vInt c vb) e| < 2 ^ 64 := by
  have ha := abs_le.1 (abs_toInt_le (Tbl.get 0 c.v (16 * va.toNat + e)))
  have ht := abs_le.1 (abs_complexProduct_le c vw vb e)
  unfold vInt at *
  constructor <;> rw [abs_lt] <;> omega

theorem overflow_none (es : List Nat) {f : Nat → Int} (hf : ∀ e, |f e| < 2 ^ 64) :
    (es.any fun e => decide (f e < -2 ^ 71) || decide (2 ^ 71 - 1 < f e)) = false := by
  rw [List.any_eq_false]
  intro e _
  have := abs_lt.1 (hf e)
  simp only [Bool.or_eq_true, decide_eq_true_eq]
  omega

/-- R97: both accumulators of the pair, without an overflow. -/
theorem vSlot_bfly {c : Core} (h : c.flights = []) (p : Pred) (pair : Bool) (va vb vw : BitVec 4) :
    let t := complexProduct (vInt c vw) (vInt c vb)
    let top := if pair then 2 else 0
    vSlot c p (.bfly pair va vb vw) =
      { flights := accFlights (reachedBy c p) top (fun e => vInt c va e * 2 ^ 31 + t e) ++
          accFlights (reachedBy c p) (top + 1) (fun e => vInt c va e * 2 ^ 31 - t e), aov := false } := by
  intro t top
  have hslot : vSlot c p (.bfly pair va vb vw) =
      (accEff (c.enables .pd p) top fun e => vInt c va e * 2 ^ 31 + t e).merge
        (accEff (c.enables .pd p) (top + 1) fun e => vInt c va e * 2 ^ 31 - t e) := by
    simp only [vSlot, Core.elem_settled h, product_complex]
    rfl
  rw [hslot, accEff_settled h, accEff_settled h, overflow_none _ fun e => (abs_butterfly_lt c va vb vw e).1,
    overflow_none _ fun e => (abs_butterfly_lt c va vb vw e).2]
  rfl

/-- Settles O15: each row is its effect in the V slot, issued by `exec_accumulates` or, for BFLY, by `exec_sends`. -/
theorem accumulators : Obligations.Accumulators := by
  refine ⟨fun s a p acc va vb h hp => ?_, fun s a p acc from' va vb vw sh pair h hp => ?_⟩
  · obtain ⟨mul, mac, msu⟩ := vSlot_mac h.settled p .real acc va vb
    obtain ⟨cmul, cmac, cmsu⟩ := vSlot_mac h.settled p .complex acc va vb
    obtain ⟨cmulj, cmacj, cmsuj⟩ := vSlot_mac h.settled p .conj acc va vb
    rw [product_complex] at cmul cmac cmsu
    rw [product_conj] at cmulj cmacj cmsuj
    exact ⟨exec_accumulates h hp rfl rfl mul, exec_accumulates h hp rfl rfl mac, exec_accumulates h hp rfl rfl msu,
      exec_accumulates h hp rfl rfl cmul, exec_accumulates h hp rfl rfl cmac, exec_accumulates h hp rfl rfl cmsu,
      exec_accumulates h hp rfl rfl cmulj, exec_accumulates h hp rfl rfl cmacj, exec_accumulates h hp rfl rfl cmsuj⟩
  · refine ⟨exec_accumulates h hp rfl rfl (vSlot_accld h.settled p acc va sh), exec_accumulates h hp (o := .accz acc) rfl rfl rfl,
      exec_accumulates h hp rfl rfl (vSlot_accadd h.settled p acc from'), ?_⟩
    rw [exec_sends h hp (o := .bfly pair va vb vw) rfl rfl (vSlot_bfly h.settled p pair va vb vw)
      (List.forall_mem_append.2 ⟨accFlights_young _ _ _, accFlights_young _ _ _⟩), if_neg Bool.false_ne_true, List.append_nil]
    rfl

end Sys2Proof.Machine
end
